-- ==== Sys2Proof/Word.lean ====
section
/-! DEFINITION. The word types of the Q9 and their plainest arithmetic (00 R2, R3; 02 R30). -/

namespace Sys2Proof

/-- One byte of memory. -/
abbrev Byte := BitVec 8

/-- One 32-bit register or memory word (09 R224). -/
abbrev Word := BitVec 32

/-- A 64-bit value: an address, a register pair, an instruction word (00 R3, 02 R30). -/
abbrev DWord := BitVec 64

/-- A 64-bit value from its words, the lower one first (00 R3). -/
def pair64 (lo hi : Word) : DWord := hi ++ lo

/-- Bits [31:0] of a 64-bit value. -/
def lo32 (x : DWord) : Word := x.setWidth 32

/-- Bits [63:32] of a 64-bit value. -/
def hi32 (x : DWord) : Word := (x >>> 32).setWidth 32

/-- Bits [hi:lo] of a number, as a number (the `bits` of 00 R7). -/
def bitsN (x hi lo : Nat) : Nat := x / 2 ^ lo % 2 ^ (hi + 1 - lo)

/-- One bit of a number. -/
def bitN (x i : Nat) : Bool := x / 2 ^ i % 2 == 1

end Sys2Proof
end

