-- ==== Sys2Proof/Syntax.lean ====
section
/-! DEFINITION. Skopra's instructions as data: the fields of the five word formats (02 R32 to R37), and the
one inductive of instructions and hardware steps (02 R49; 95_what_each_step_holds.md). -/

namespace Sys2Proof

/-- Type codes 0 to 9 of the ty field (02 R40). -/
inductive Ty where
  | i32 | n32 | i64 | n64 | f32 | f16 | bf16 | f64 | f16x2 | bf16x2
  deriving DecidableEq, Repr

/-- Scopes, codes 0 to 5 (01 R23). -/
inductive Scope where
  | wp | cl | sec | die | pkg | sys
  deriving DecidableEq, Repr

/-- Address spaces, codes 0 to 3 (02 R44). -/
inductive Space where
  | g | sp | rsp | co
  deriving DecidableEq, Repr

/-- The fields of a W3 word but its major and fn (02 R32, R42): `m` is mod[2:0]. -/
structure W3 where
  d : BitVec 8
  a : BitVec 8
  b : BitVec 8
  c : BitVec 8
  g : BitVec 8
  gn : Bool
  ty : Ty
  hintA : Bool
  hintB : Bool
  m : BitVec 3
  deriving DecidableEq, Repr

/-- The fields of a WI word but its major and fn (02 R33). -/
structure WI where
  d : BitVec 8
  a : BitVec 8
  ty : Ty
  imm : BitVec 32
  deriving DecidableEq, Repr

/-- The fields of a WM word but its major and fn (02 R34). -/
structure WM where
  d : BitVec 8
  a : BitVec 8
  g : BitVec 8
  gn : Bool
  sz : BitVec 3
  sc : Scope
  sp : Space
  off : BitVec 20
  deriving DecidableEq, Repr

/-- The fields of a WB word but its major and fn (02 R35). -/
structure WB where
  hint : BitVec 2
  g : BitVec 8
  gn : Bool
  reg : BitVec 8
  off : BitVec 32
  deriving DecidableEq, Repr

/-- Slot opcodes 0 to 30 of a paired word (02 R46). -/
inductive SlotOp where
  | nop | iadd | isub | imul | imin | imax | and | or | xor | andn | shl | shr | sar | mov | not | popc | clz
  | iaddi | shli | shri | sari | movi | icmp | fadd | fsub | fmul | fmin | fmax | fabs | fneg | fcmp
  deriving DecidableEq, Repr

/-- One slot of a paired word (02 R37): `ty` is the slot type as the full-word type 10 R272 maps it to. -/
structure Slot where
  op : SlotOp
  d : BitVec 8
  b : BitVec 8
  ty : Ty
  m : BitVec 5
  deriving DecidableEq, Repr

/-- A paired word (02 R37). -/
structure PairWord where
  s0 : Slot
  s1 : Slot
  deriving DecidableEq, Repr

/-- An engine that stops and writes a stop record (14 R352, R353); cores and threads are package numbers (01 R16). -/
inductive EngineId where
  | warp (core slot : Nat)
  | matrix (core : Nat)
  | conductor (thread : Nat)
  | copy (engine : Nat)
  | walker (slice : Nat) (index : Nat)
  deriving DecidableEq, Repr

/-- A link of the package (15 R401, R402; 16 R413). -/
inductive LinkId where
  | host
  | compute (die : Nat)
  | edge (die : Nat)
  | port (p : Nat)
  deriving DecidableEq, Repr

/-- A function of the host link (15 R391, R393). -/
inductive HostFn where
  | pf
  | vf (n : Nat)
  deriving DecidableEq, Repr

/-- Where an uncorrectable error strikes (14 R374). Word keys and row keys are those of the machine's state. -/
inductive ErrorSite where
  | memory (word : Nat)
  | llc (word : Nat)
  | sectionWord (slice : Nat) (word : Nat)
  | scratch (cluster : Nat) (addr : Nat)
  | l1 (core : Nat) (word : Nat)
  | register (row : Nat)
  | accumulator (core bank tile row col : Nat)
  | weight (core half unit : Nat)
  | sliceControl (slice : Nat)
  | copyEngine (e : Nat)
  | walker (walk : Nat)
  | link (l : LinkId)
  | conductorCore (c : Nat)
  | belfryBase
  deriving DecidableEq, Repr

/-- A firmware image as the boot ROM judges it (16 R414). -/
structure FirmwareImage where
  digest : BitVec 256
  version : BitVec 32
  signature : BitVec 512
  deriving DecidableEq, Repr

/-- A control register reached by a write (14 R379; 15 R394; 16 R409). -/
inductive CtlReg where
  | csr (sel : Nat)
  | thread (thread sel : Nat)
  | pcLogBase | pcLogTail | pcLogCtl
  | pcSmpBase | pcSmpTail | pcSmpCtl
  | pcCntBase | pcCntTail | pcCntCtl
  | pcCerr (k : Nat)
  | port (k : Nat)                -- the binding of a fabric port (15 R402)
  | debugAt                       -- the tick of a debug stop that the firmware requests (16 R410)
  deriving DecidableEq, Repr

/-- What arrives on a fabric port (15 R402, R404): bulk data for a destination, or the narrow-plane
message that releases it and writes the chime. -/
inductive FabricMsg where
  | data (dst : BitVec 64) (words : List (BitVec 32)) (red : Bool) (rty : BitVec 2)
  | complete (chime : BitVec 64) (value : BitVec 32)
  deriving DecidableEq, Repr


/-- The instructions of Skopra and the hardware's own steps: one constructor per row of the opcode table.
An instruction carries the fields of its format; a step of the hardware carries what it acts on. -/
inductive Instr where
  /-- IADD (R255): Adds two integer operands per active lane, wrapping modulo 2^W. -/
  | iadd (w : W3)
  /-- ISUB (R255): Subtracts the second integer operand from the first per lane, wrapping. -/
  | isub (w : W3)
  /-- IMUL (R255): Multiplies two integers per lane and keeps the low W bits. -/
  | imul (w : W3)
  /-- IMULH (R255): Writes the upper half of the exact 2W-bit product per lane. -/
  | imulh (w : W3)
  /-- IMAD (R255): Computes x*y+z exactly per lane with one wrap. -/
  | imad (w : W3)
  /-- IDIV (R63): Integer division truncating to zero; division by zero and signed overflow set sticky %iexc bits without trapping. -/
  | idiv (w : W3)
  /-- IREM (R63): Integer remainder taking the dividend's sign, with the non-trapping special cases of R63. -/
  | irem (w : W3)
  /-- IMIN (R255): Writes the smaller of two integers per lane. -/
  | imin (w : W3)
  /-- IMAX (R255): Writes the larger of two integers per lane. -/
  | imax (w : W3)
  /-- IABS (R255): Writes the absolute value of a signed integer per lane, wrapping. -/
  | iabs (w : W3)
  /-- INEG (R255): Negates an integer per lane, wrapping. -/
  | ineg (w : W3)
  /-- IADDC (R255): Adds two 32-bit values and a carry-in, writing the sum and carry-out to a pair. -/
  | iaddc (w : W3)
  /-- ISUBB (R255): Subtracts with borrow-in, writing the difference and borrow-out to a pair. -/
  | isubb (w : W3)
  /-- SEL (R255): Selects one of two operands per lane from bit 0 of a predicate. -/
  | sel (w : W3)
  /-- LEA (R255): Adds a shifted, extended index to a 64-bit base per lane. -/
  | lea (w : W3)
  /-- ICMP (R255): Compares two integers per lane under a condition and writes 0 or 1. -/
  | icmp (w : W3)
  /-- IADDI (R257): Adds an extended immediate to an integer per lane. -/
  | iaddi (w : WI)
  /-- IMULI (R257): Multiplies an integer by an immediate per lane. -/
  | imuli (w : WI)
  /-- ANDI (R257): Bitwise AND with an immediate per lane. -/
  | andi (w : WI)
  /-- ORI (R257): Bitwise OR with an immediate per lane. -/
  | ori (w : WI)
  /-- XORI (R257): Bitwise XOR with an immediate per lane. -/
  | xori (w : WI)
  /-- SHLI (R257): Shifts left by an immediate count per lane. -/
  | shli (w : WI)
  /-- SHRI (R257): Shifts right logically by an immediate count per lane. -/
  | shri (w : WI)
  /-- SARI (R257): Shifts right arithmetically by an immediate count per lane. -/
  | sari (w : WI)
  /-- MOVI (R257): Writes an extended immediate to the destination of every lane. -/
  | movi (w : WI)
  /-- MOVHI (R257): Writes an immediate to the upper word of a 64-bit pair, leaving the lower word. -/
  | movhi (w : WI)
  /-- ICMPI (R257): Compares an integer with a 29-bit immediate under a condition carried in the immediate. -/
  | icmpi (w : WI)
  /-- AND (R259): Bitwise AND of two operands per lane. -/
  | and (w : W3)
  /-- OR (R259): Bitwise OR of two operands per lane. -/
  | or (w : W3)
  /-- XOR (R259): Bitwise XOR of two operands per lane. -/
  | xor (w : W3)
  /-- ANDN (R259): Computes x AND NOT y per lane. -/
  | andn (w : W3)
  /-- NOT (R259): Bitwise complement per lane. -/
  | not (w : W3)
  /-- SHL (R259): Shifts left by a register count, giving 0 for counts of W or more. -/
  | shl (w : W3)
  /-- SHR (R259): Shifts right logically by a register count. -/
  | shr (w : W3)
  /-- SAR (R259): Shifts right arithmetically by a register count. -/
  | sar (w : W3)
  /-- ROL (R259): Rotates left by a count modulo W. -/
  | rol (w : W3)
  /-- BFX (R259): Extracts a bit field and extends it by the type's signedness. -/
  | bfx (w : W3)
  /-- BFI (R259): Inserts a bit field into a base value. -/
  | bfi (w : W3)
  /-- POPC (R259): Counts the one bits per lane. -/
  | popc (w : W3)
  /-- CLZ (R259): Counts leading zero bits per lane. -/
  | clz (w : W3)
  /-- CTZ (R259): Counts trailing zero bits per lane. -/
  | ctz (w : W3)
  /-- BREV (R259): Reverses the bit order per lane. -/
  | brev (w : W3)
  /-- MOV (R259): Copies an operand bit for bit per lane. -/
  | mov (w : W3)
  /-- FADD (R261): Floating-point addition rounded once in the selected mode. -/
  | fadd (w : W3)
  /-- FSUB (R261): Floating-point subtraction rounded once. -/
  | fsub (w : W3)
  /-- FMUL (R261): Floating-point multiplication rounded once. -/
  | fmul (w : W3)
  /-- FFMA (R261): Fused multiply-add with one rounding. -/
  | ffma (w : W3)
  /-- FMIN (R262): Returns the lesser operand, with NaN and signed-zero handling. -/
  | fmin (w : W3)
  /-- FMAX (R262): Returns the greater operand, with NaN and signed-zero handling. -/
  | fmax (w : W3)
  /-- FABS (R263): Clears the sign bit of each element. -/
  | fabs (w : W3)
  /-- FNEG (R263): Inverts the sign bit of each element. -/
  | fneg (w : W3)
  /-- FCMP (R262): Compares floating-point elements and writes 0 or 1 per element. -/
  | fcmp (w : W3)
  /-- FCLASS (R262): Writes a one-hot class mask per element. -/
  | fclass (w : W3)
  /-- FRND (R261): Rounds to an integral value in the same format. -/
  | frnd (w : W3)
  /-- FSCAL (R261): Multiplies by 2^n and rounds once. -/
  | fscal (w : W3)
  /-- FCOPYS (R263): Copies the sign bit of b onto a. -/
  | fcopys (w : W3)
  /-- FCVT_FLOAT (R265): Converts between floating-point register types with one rounding. -/
  | fcvtFloat (w : W3)
  /-- FCVT_FROM_BINARY8 (R265): Decodes binary8 codes from a register into a floating-point type. -/
  | fcvtFromBinary8 (w : W3)
  /-- FCVT_TO_BINARY8 (R265): Converts floating-point elements into binary8 or 8-bit integer codes under R76 and R77. -/
  | fcvtToBinary8 (w : W3)
  /-- ICVT (R266): Converts between integer and floating-point, or between integer types. -/
  | icvt (w : W3)
  /-- FPACK (R267): Packs four values per lane into 8-bit elements with a shared canonical block scale. -/
  | fpack (w : W3)
  /-- FUNPACK (R268): Decodes four 8-bit elements with their scale back to a register type per lane. -/
  | funpack (w : W3)
  /-- FRCP (R270): Computes the reciprocal on the special-function path. -/
  | frcp (w : W3)
  /-- FRSQ (R270): Computes the reciprocal square root. -/
  | frsq (w : W3)
  /-- FSQRT (R270): Computes the correctly rounded square root. -/
  | fsqrt (w : W3)
  /-- FEX2 (R270): Computes 2^x. -/
  | fex2 (w : W3)
  /-- FLG2 (R270): Computes log2 x. -/
  | flg2 (w : W3)
  /-- FSIN (R270): Computes sin x in radians. -/
  | fsin (w : W3)
  /-- FCOS (R270): Computes cos x in radians. -/
  | fcos (w : W3)
  /-- FTANH (R270): Computes tanh x. -/
  | ftanh (w : W3)
  /-- PAIRED_WORD (R47): Issues two restricted slot operations together, reading all sources before either writes. -/
  | pairedWord (w : PairWord)
  /-- SHFL (R243): Reads a value from another active lane chosen by index, up, down or xor. -/
  | shfl (w : W3)
  /-- VOTE (R244): Combines the predicates of the active lanes into one result. -/
  | vote (w : W3)
  /-- BCAST (R243): Broadcasts one lane's value to every active lane. -/
  | bcast (w : W3)
  /-- REDUX (R245): Reduces the active lanes' values in the fixed pairwise tree. -/
  | redux (w : W3)
  /-- SCAN (R245): Writes each active lane's prefix combination built from the tree. -/
  | scan (w : W3)
  /-- MATCH (R243): Writes the mask of active lanes holding an equal value. -/
  | matchLanes (w : W3)
  /-- LMASK (R244): Writes a lane mask that depends on the lane, width and active set. -/
  | lmask (w : W3)
  /-- SPLIT (R237): Divides a warp into two half-width warps without moving register rows. -/
  | split (w : W3)
  /-- FUSE (R239): Joins a warp with its adjacent partner, waiting up to 1,024 clk for it. -/
  | fuse (w : W3)
  /-- FUSEQ (R240): Reports whether a fuse would succeed now, without waiting or changing state. -/
  | fuseq (w : W3)
  /-- RNG (R249): Draws per-lane values from the warp generator and advances %rngctr. -/
  | rng (w : W3)
  /-- RNGSEED (R249): Sets the generator key and clears the counter. -/
  | rngseed (w : W3)
  /-- RNGSKIP (R249): Advances the generator counter by a count. -/
  | rngskip (w : W3)
  /-- SMOV (R230): Reads a special register into vector registers. -/
  | smov (w : W3)
  /-- SMOVW (R230): Writes a special register from vector registers, under its field rules. -/
  | smovw (w : W3)
  /-- XACQ (R227): Takes the pair group's extended-set lock, parking until it is free. -/
  | xacq (w : W3)
  /-- XREL (R227): Releases the pair lock once pending extended writes land, handing it to the next parked warp. -/
  | xrel (w : W3)
  /-- PUSH (R218): Sends a call to the partition's call ring, writing a call record, or parks when the ring is full. -/
  | push (w : W3)
  /-- POP (R207): Removes the next status word of q0 to q3 and joins, or returns call replies from q4, parking if needed. -/
  | pop (w : W3)
  /-- QPOLL (R207): Returns the next status word without removing it, or reply-arrival flags for q4. -/
  | qpoll (w : W3)
  /-- QLEN (R207): Returns the count of outstanding commands, or pending-call flags for q4. -/
  | qlen (w : W3)
  /-- BRA (R282): Branches each active lane to a relative target. -/
  | bra (w : WB)
  /-- CALL (R282): Writes the return address into a link pair and branches to a relative target. -/
  | call (w : WB)
  /-- LOOP (R284): Opens a hardware loop level with a count, or skips the body when the count is 0. -/
  | loop (w : WB)
  /-- JMPR (R282): Jumps to a register target. -/
  | jmpr (w : WB)
  /-- CALLR (R282): Calls a register target, writing the return address back into the pair. -/
  | callr (w : WB)
  /-- RET (R282): Returns to the address in a link pair. -/
  | ret (w : WB)
  /-- BRK (R287): Ends the innermost hardware loop level when some lane passes the guard. -/
  | brk (w : WB)
  /-- MEET (R283): Sets the meeting register of each active lane to a relative address. -/
  | meet (w : WB)
  /-- NOP (R291): Retires with no effect. -/
  | nop (w : W3)
  /-- EXIT (R291): Ends every active thread, and the warp when its last thread ends. -/
  | exit (w : W3)
  /-- TAIL (R292): Exits and frees the warp's slot at once, handing outstanding work to the retirement tracker. -/
  | tail (w : W3)
  /-- TRAP (R293): Raises SOFTWARE_TRAP with a trap code when some lane passes the guard. -/
  | trap (w : W3)
  /-- YIELD (R294): Moves the warp from the active set to the pending set. -/
  | yield (w : W3)
  /-- SPIN (R294): Marks the warp as spinning and holds its next issue for 16 clk. -/
  | spin (w : W3)
  /-- LD (R176): Loads data per lane from the selected space at the location its scope gives. -/
  | ld (w : WM)
  /-- LDACQ (R176): Strong load followed by one acquire for the whole word. -/
  | ldacq (w : WM)
  /-- LDDEC (R180): Reads 8-bit elements and their block scale from a formatted page and decodes them to floats. -/
  | lddec (w : WM)
  /-- LDNT (R177): Loads like ld without installing a missing line in L1 or the section cache. -/
  | ldnt (w : WM)
  /-- PREF (R178): Prefetches a line into the named cache level, never faulting. -/
  | pref (w : WM)
  /-- ST (R182): Stores data per lane; retires once its checks pass and drains later. -/
  | st (w : WM)
  /-- STREL (R182): Performs one release, then strong stores as releasing writes. -/
  | strel (w : WM)
  /-- STNT (R177): Stores like st and marks the section-cache line first for replacement. -/
  | stnt (w : WM)
  /-- AADD (R186): Atomic add returning the old value, applied in ascending lane order. -/
  | aadd (w : W3)
  /-- AMIN (R186): Atomic minimum returning the old value. -/
  | amin (w : W3)
  /-- AMAX (R186): Atomic maximum returning the old value. -/
  | amax (w : W3)
  /-- AAND (R186): Atomic AND returning the old value. -/
  | aand (w : W3)
  /-- AOR (R186): Atomic OR returning the old value. -/
  | aor (w : W3)
  /-- AXOR (R186): Atomic XOR returning the old value. -/
  | axor (w : W3)
  /-- AXCH (R186): Atomic exchange returning the old value. -/
  | axch (w : W3)
  /-- ACAS (R186): Atomic compare-and-swap returning the old value. -/
  | acas (w : W3)
  /-- AINC (R186): Atomic increment with wrap to 0 at a bound. -/
  | ainc (w : W3)
  /-- ADEC (R186): Atomic decrement with wrap to a bound. -/
  | adec (w : W3)
  /-- AADDF (R189): Atomic floating-point add returning the old value, exact under CANON. -/
  | aaddf (w : W3)
  /-- RADD (R185): Integer add reduction with no returned value. -/
  | radd (w : W3)
  /-- RMIN (R185): Minimum reduction with no returned value. -/
  | rmin (w : W3)
  /-- RMAX (R185): Maximum reduction with no returned value. -/
  | rmax (w : W3)
  /-- RAND (R185): AND reduction with no returned value. -/
  | rand (w : W3)
  /-- ROR (R185): OR reduction with no returned value. -/
  | ror (w : W3)
  /-- RXOR (R185): XOR reduction with no returned value. -/
  | rxor (w : W3)
  /-- RADDF (R189): Floating-point add reduction with no returned value, exact under CANON. -/
  | raddf (w : W3)
  /-- FENCE (R193): Performs a release and then an acquire at the given scope. -/
  | fence (w : W3)
  /-- ACQ (R193): Performs an acquire with a region mask from a register. -/
  | acq (w : W3)
  /-- REL (R193): Performs a release at the given scope. -/
  | rel (w : W3)
  /-- REGION_INVALIDATE (R195): Drops the issuing context's clean lines of one region index in the core's L1 and section cache. -/
  | regionInvalidate (w : W3)
  /-- REGION_REWRITE (R195): Invalidates a region index and then rewrites its entry, returning a status. -/
  | regionRewrite (w : W3)
  /-- WAITM (R196): Waits until a word differs from a value or a tick limit expires, parking on a watch. -/
  | waitm (w : W3)
  /-- CPY (R204): Queues a copy command of one piece to a copy engine. -/
  | cpy (w : W3)
  /-- GATH (R204): Queues a gather command with one piece per active lane. -/
  | gath (w : W3)
  /-- SCAT (R204): Queues a scatter command with one piece per active lane. -/
  | scat (w : W3)
  /-- COLL (R204): Queues a collective command that combines per-lane sources into one destination. -/
  | coll (w : W3)
  /-- TAGWA (R212): Parks until every tag in the mask is set or idle, then joins. -/
  | tagwa (w : W3)
  /-- TAGWY (R212): Parks until some tag in the mask is set, or all are idle and clear, then joins. -/
  | tagwy (w : W3)
  /-- TAGFF (R212): Writes the lowest set tag index in the mask and joins its commands. -/
  | tagff (w : W3)
  /-- TAGCLR (R212): Clears the tag bits in the mask. -/
  | tagclr (w : W3)
  /-- GONGI (R215): Initialises a gong in scratchpad. -/
  | gongi (w : W3)
  /-- GONGA (R214): Records an arrival and expected bytes at a gong, flipping its phase when both counts reach zero. -/
  | gonga (w : W3)
  /-- GONGW (R215): Parks until the gong's phase changes, then joins. -/
  | gongw (w : W3)
  /-- GONGT (R215): Reads the gong's phase and joins the commands counted before the read. -/
  | gongt (w : W3)
  /-- CHSET (R216): Releases and then strongly writes a chime word. -/
  | chset (w : W3)
  /-- CHWAIT (R216): Waits until a chime word reaches a bound, then acquires. -/
  | chwait (w : W3)
  /-- CHCLR (R216): Strongly writes 0 to a chime word without a release. -/
  | chclr (w : W3)
  /-- MMA (R304): Accumulates A rows times a weight-buffer panel into accumulator tile rows without rounding. -/
  | mma (w : W3)
  /-- MZERO (R306): Resets the warp's active rows of a tile and sets them floating. -/
  | mzero (w : W3)
  /-- MRES (R308): Resolves a 16-column chunk of each active row into registers. -/
  | mres (w : W3)
  /-- MCMP (R309): Resolves a 32-column chunk and compares it with a threshold into a bit mask. -/
  | mcmp (w : W3)
  /-- MSTA (R310): Resolves each active row and stores it to memory. -/
  | msta (w : W3)
  /-- MSAVE (R311): Writes each active row's raw 96-bit elements to memory. -/
  | msave (w : W3)
  /-- MREST (R312): Restores each active row from saved images, leaving it floating. -/
  | mrest (w : W3)
  /-- MLDB (R313): Queues a weight load of panels into the context's weight-buffer half. -/
  | mldb (w : W3)
  /-- MANCH (R307): Fixes the anchor of each active row, rescaling its elements. -/
  | manch (w : W3)
  /-- MBANK (R320): Binds an accumulator bank to the issuing context position; raises PRIVILEGE on a warp. -/
  | mbank (w : W3)
  /-- LAUNCH (R327): Reads a launch descriptor and creates a grid, or refuses it with a code. -/
  | launch (w : W3)
  /-- LDISP (R330): Finds the first shape-bucket row that matches %shp0 to %shp3. -/
  | ldisp (w : W3)
  /-- LSTAT (R331): Returns a grid's state or completion word from the grid table. -/
  | lstat (w : W3)
  /-- CSRR (R382): Reads a partition or conductor-thread control register. -/
  | csrr (w : W3)
  /-- CSRW (R382): Writes a partition or conductor-thread control register under its field rules. -/
  | csrw (w : W3)
  /-- TLBINV_RANGE (R383): Invalidates translations of a page range of a context and writes back its registered words. -/
  | tlbinvRange (w : W3)
  /-- TLBINV_CTX (R383): Invalidates every translation of a context. -/
  | tlbinvCtx (w : W3)
  /-- TLBINV_PART (R383): Invalidates every first-stage translation of the partition. -/
  | tlbinvPart (w : W3)
  /-- TLBINV_ALL (R383): Invalidates first- and second-stage translations; vendor only. -/
  | tlbinvAll (w : W3)
  /-- HALT_GRID (R364): Quiesces one grid named by its handle and holds it resident. -/
  | haltGrid (w : W3)
  /-- HALT_CTX (R364): Quiesces every grid and user conductor thread of a context. -/
  | haltCtx (w : W3)
  /-- RESUME_GRID (R364): Lets a halted grid issue again, dispatching its replay entries first. -/
  | resumeGrid (w : W3)
  /-- RESUME_CTX (R364): Lets a halted context issue again. -/
  | resumeCtx (w : W3)
  /-- TRET (R361): Returns from a conductor trap to XTEPC at the previous level. -/
  | tret (w : W3)
  /-- CTXSV (R366): Quiesces a context and writes its whole state to an image, freeing its resources. -/
  | ctxsv (w : W3)
  /-- CTXRS (R366): Checks an image and restores a context halted from it. -/
  | ctxrs (w : W3)
  /-- ERRCLR (R384): Clears poisoned words in a guest-physical range to 0 and state U. -/
  | errclr (w : W3)
  /-- ERRCLR_CO (R384): Clears poisoned words in a carve-out range. -/
  | errclrCo (w : W3)
  /-- KNELL (R367): Posts an eviction deadline for a partition, stopping its user threads and starting checkpoints. -/
  | knell (w : W3)
  /-- LOAD_DATA_RETURN (R231): Data of a load, returning atomic, pop or mres arrives and its pending register write completes. -/
  | loadDataReturn (req : Nat)
  /-- STORE_DRAIN (R182): A retired store or reduction is performed at its location. -/
  | storeDrain (req : Nat)
  /-- PAGE_WALK (R112): A walker completes a translation walk and delivers the result or fault to all coalesced requesters. -/
  | pageWalk (walk : Nat)
  /-- WRITE_BLOCK_RETRY (R118): A word parked on write-block retries after a covering tlbinv or every 16,384 clk. -/
  | writeBlockRetry (agent : Nat)
  /-- REGISTRATION_REQUEST (R132): An owner's write registration takes its place in bank order and changes the word's state. -/
  | registrationRequest (req : Nat)
  /-- BANK_READ (R132): A read request takes its place in bank order and is served, forwarded or caught as a race. -/
  | bankRead (req : Nat)
  /-- BANK_ACCESS (R139): A die-scope or wider atomic, POL 1 access or bank-performed access executes at the bank registering nothing. -/
  | bankAccess (req : Nat)
  /-- FORWARD_REPLY (R135): An owner returns forwarded word data, which the bank gives to the reader and the cache. -/
  | forwardReply (line : Nat)
  /-- RELEASE_PUSH (R136): A push entry turns the owner's O and OL words in a line into R. -/
  | releasePush (rel : Nat)
  /-- PUSH_ACKNOWLEDGE (R136): A bank's acknowledgement of push entries arrives, completing a release when all have arrived. -/
  | pushAcknowledge (rel : Nat)
  /-- SECTION_CACHE_WRITE_BACK (R137): A section cache replacing a line with open words writes it back, making them OL. -/
  | sectionCacheWriteBack (sec line : Nat)
  /-- LLC_FILL (R144): A line fill from memory completes at a bank, poisoning the line if its code fails. -/
  | llcFill (line : Nat) (codeFails : Bool)
  /-- WAY_UNIT_DRAIN (R146): A way unit removed from WAYS finishes draining and becomes unassigned. -/
  | wayUnitDrain (part unit : Nat)
  /-- CORRECTABLE_ERROR (R374): A correctable error is corrected and counted. -/
  | correctableError (part kind : Nat)
  /-- UNCORRECTABLE_ERROR (R374): An uncorrectable error poisons the word, element or panel, or stops the failing unit. -/
  | uncorrectableError (part : Nat) (site : ErrorSite)
  /-- WATCH_FIRE (R196): A write to a watched line, or 65,536 ticks, fires a watch and rereads the waited word. -/
  | watchFire (agent : Nat)
  /-- WAITM_POLL (R197): A waitm without a watch, or on a POL 2 page, polls its word every 1,024 ticks. -/
  | waitmPoll (agent : Nat)
  /-- WAITM_LIMIT_EXPIRY (R196): A waitm's tick limit expires and it returns the compare value. -/
  | waitmLimitExpiry (agent : Nat)
  /-- COMMAND_DISPATCH (R199): A queued command is dispatched round-robin to an idle copy engine of the partition. -/
  | commandDispatch (engine : Nat)
  /-- COPY_BEAT (R198): A copy engine performs one 512-byte beat, registering its destination words. -/
  | copyBeat (engine : Nat)
  /-- COMMAND_COMPLETION (R206): A command's last beat lands; it releases, updates its gong and tag and delivers its status word. -/
  | commandCompletion (cmd : Nat)
  /-- WEIGHT_LOAD_COMPLETE (R314): The weight loader finishes an mldb, tagging panels and updating gong and tag. -/
  | weightLoadComplete (cmd : Nat)
  /-- CALL_REPLY_FETCH (R221): A reply-sequence write fires and the Q9 reads the reply words to their frame positions. -/
  | callReplyFetch (agent : Nat)
  /-- MMA_ROWS_READY (R316): A running mma finishes in the array and its rows become ready. -/
  | mmaRowsReady (core : Nat)
  /-- FUSE_WAIT_EXPIRY (R239): A fuse wait reaches 1,024 clk without its partner and returns 1. -/
  | fuseWaitExpiry (agent : Nat)
  /-- WARP_ROTATION (R344): A pending warp ready for 128 clk replaces the earliest active warp. -/
  | warpRotation (core : Nat)
  /-- SPIN_DEMOTION (R345): A spinning active warp is demoted in favour of a ready non-spinning warp. -/
  | spinDemotion (core : Nat)
  /-- WATCHDOG (R357): A warp or user conductor thread that issues nothing for a watchdog period raises WATCHDOG. -/
  | watchdog (agent : Nat)
  /-- STALL_SAMPLE (R408): Each 2^PERIOD clk a core appends a stall sample of one warp. -/
  | stallSample (core : Nat)
  /-- GATED_CHIME_WAIT (R217): The scheduler's chwait on a gated cluster's chime is satisfied, or faults late. -/
  | gatedChimeWait (part grid cluster : Nat)
  /-- CLUSTER_ADMISSION (R332): The placer admits a cluster to a core whose resources allow it, assigning frames and slots. -/
  | clusterAdmission (part : Nat)
  /-- CLUSTER_START (R334): The cluster's scratchpad clear completes and all its warps start together. -/
  | clusterStart (cluster : Nat)
  /-- GRID_COMPLETION (R337): A grid ends and the Q9 releases its writes and writes the completion record. -/
  | gridCompletion (part grid : Nat)
  /-- ENGINE_STOP_POINT (R354): An engine reaches its stop point within its skid and writes its stop record. -/
  | engineStopPoint (part : Nat) (engine : EngineId)
  /-- ROLL_CALL_COMPLETE (R355): Every engine has acknowledged and the summary record is written. -/
  | rollCallComplete (part : Nat)
  /-- PREEMPT_DELIVERY (R359): PREEMPT enters the handler at the warp's first boundary with loop depth 0. -/
  | preemptDelivery (agent : Nat)
  /-- QUIESCENCE_COMPLETE (R362): Quiesced work has drained, its commands completed or become replay entries. -/
  | quiescenceComplete (part work : Nat)
  /-- SLICE_EXPIRY (R365): A time slice expires; the running context is halted and the other resumed. -/
  | sliceExpiry (part : Nat)
  /-- HOST_COMPLETION_TIMEOUT (R362): A host request exceeds 50 µs; reads return poison and writes are dropped. -/
  | hostCompletionTimeout (req : Nat)
  /-- PARTITION_RESET (R375): A partition reset aborts its grids, loses owners and resets partition registers. -/
  | partitionReset (part : Nat)
  /-- ENGINE_RESET (R375): An engine reset handles its registered words under R145. -/
  | engineReset (engine : Nat)
  /-- LINK_RESET (R375): A link that fails to retrain is reset and its owners lost. -/
  | linkReset (link : LinkId)
  /-- LINK_RETRAIN (R401): A die or fabric link retrains; a failed module leaves service. -/
  | linkRetrain (link : LinkId) (module : Nat) (ok : Bool)
  /-- BAR_READ (R168): A host BAR read is performed strongly at system scope at the bank. -/
  | barRead (fn : HostFn) (bar : Nat) (off : Nat) (size : Nat)
  /-- BAR_WRITE (R168): A host BAR write is performed at the bank as a system-scope release pattern. -/
  | barWrite (fn : HostFn) (bar : Nat) (off : Nat) (size : Nat) (value : BitVec 4096)
  /-- CONTEXT_HALT_CMD (R394): CCCMD 1 halts the VF's context. -/
  | contextHaltCmd (vf : Nat)
  /-- CONTEXT_RESUME_CMD (R394): CCCMD 2 resumes the VF's context. -/
  | contextResumeCmd (vf : Nat)
  /-- CONTEXT_ABORT_CMD (R394): CCCMD 3 aborts every grid of the context and idles its user threads. -/
  | contextAbortCmd (vf : Nat)
  /-- PARTITION_HALT_CMD (R394): PCCMD 1 halts every context of the partition. -/
  | partitionHaltCmd (part : Nat)
  /-- PARTITION_RESUME_CMD (R394): PCCMD 2 resumes every context of the partition. -/
  | partitionResumeCmd (part : Nat)
  /-- PARTITION_ABORT_CMD (R394): PCCMD 3 aborts every context of the partition. -/
  | partitionAbortCmd (part : Nat)
  /-- PCKNELL (R394): An 8-byte host write posts a knell as a supervisor knell would. -/
  | pcknell (part : Nat) (deadline : BitVec 64)
  /-- VF_FUNCTION_LEVEL_RESET (R396): A VF's Function Level Reset aborts its context. -/
  | vfFunctionLevelReset (vf : Nat)
  /-- PARTITION_TABLE_WRITE (R385): Vendor firmware writes a partition-table entry, enabling it only if valid. -/
  | partitionTableWrite (index : Nat) (entry : BitVec 512)
  /-- VF_TABLE_WRITE (R392): Vendor firmware writes a VF-table entry, enabling it only for an enabled partition. -/
  | vfTableWrite (vf : Nat) (entry : BitVec 64)
  /-- THREAD_START (R323): Writing RUN = 1 to an idle conductor thread starts it with its initial state and an acquire. -/
  | threadStart (thread : Nat)
  /-- LLCMAP_WRITE (R146): A write to XLLCMAP changes ways; removed way units stop filling and begin draining. -/
  | llcmapWrite (part : Nat) (value : BitVec 64)
  /-- REGISTER_WRITE (R382): A write to a control register with no behaviour of its own follows its field rules. -/
  | registerWrite (part : Nat) (reg : CtlReg) (value : BitVec 64)
  /-- PORT_SEND (R404): A write advancing a port's HEAD forks descriptor execution by a copy engine. -/
  | portSend (port : Nat) (head : BitVec 32)
  /-- FABRIC_INBOUND (R402): Data or a message arrives on a fabric port and is written and registered, or dropped if unbound. -/
  | fabricInbound (port : Nat) (msg : FabricMsg)
  /-- PORT_REMOTE_ACK (R404): The remote side acknowledges a descriptor and its local status word is written. -/
  | portRemoteAck (port : Nat) (faulted : Bool)
  /-- TLBINV_COMPLETION (R383): A parked tlbinv completes once the covered translations are dropped, accesses through them are performed, and registered words are written back, which releases its thread. -/
  | tlbinvCompletion (op : Nat)
  /-- ACCESS_COUNTER_INCREMENT (R119): A counted request's increment of CNT is applied to the leaf entry in memory. -/
  | accessCounterIncrement
  /-- PREEMPT_LIMIT_EXPIRY (R370): A handler-route checkpoint exceeds XPRELIM and moves to the hardware route. -/
  | preemptLimitExpiry
  /-- KNELL_DECISION (R369): Shortly after posting, each grid is set to run, checkpoint or discard. -/
  | knellDecision
  /-- KNELL_RECOMPUTE (R369): Every 10 µs running grids are re-judged against the deadline. -/
  | knellRecompute
  /-- KNELL_DEADLINE (R372): The deadline arrives and every unfinished grid ends DISCARDED or ABORTED. -/
  | knellDeadline
  /-- POWER_GOOD (R413): Power becomes good and the package runs its bring-up sequence. -/
  | powerGood
  /-- DEBUG_STOP (R410): At tick T all clocks stop and scan chains are shifted out. -/
  | debugStop
  /-- ATTESTATION_REPORT (R415): A mailbox request with a nonce returns a signed attestation report. -/
  | attestationReport
  /-- PF_FUNCTION_LEVEL_RESET (R396): The PF's reset resets every partition and disables every VF. -/
  | pfFunctionLevelReset
  /-- ILLEGAL_INSTRUCTION (R50): A word whose major or fn is unassigned, such as the all-zero padding of R61, is reached by a program counter and raises ILLEGAL_INSTRUCTION. -/
  | illegalInstruction
  /-- STANDBY (R412): The module controller puts the package in standby, which removes package power and loses all state. -/
  | standby
  /-- PACKAGE_RESET (R374): The module controller asserts package reset after a belfry base-logic halt or a debug stop, and the package must come up again, as after POWER_GOOD. -/
  | packageReset
  /-- CLOCK_AND_VOLTAGE_CHANGE (R411): A block changes its own clock and voltage in response to its local current and temperature, which stretches its clk-counted bounds in time. -/
  | clockAndVoltageChange
  deriving DecidableEq, Repr

end Sys2Proof
end

