-- ==== Sys2Proof/Config.lean ====
section
/-! DEFINITION. What a Q9 fixes and the spec leaves open: free values. Each is a constant with no body, so that no
proof can see what it is (notes/assumptions/10.md names every one). -/

namespace Sys2Proof.Config

/-- What the special-function path picks inside the bound of 10 R271, for a function, a type code and the input bits.
(DESIGN CHOICE, notes/assumptions/10.md.) -/
opaque sfu : Nat → Nat → Nat → Nat

/-- Whether the significand 1 of a format of precision 1 counts as odd at a tie of rne, where both neighbours have it
(03 R70), by the exponent of the smaller one. (DESIGN CHOICE, notes/assumptions/10.md; DESIGN CHOICE,
notes/assumptions/19.md.) -/
opaque oddOne : Int → Bool

/-- How msave splits V into sum and carry (03 R82), by V, the element's place in its cluster and the word's address: the
same in every run that R95 makes the same. (DESIGN CHOICE, notes/assumptions/10.md.) -/
opaque accSplit : Int → Nat → BitVec 64 → BitVec 42

/-- The body of a context image after its header, word by word (14 R366), by the free counter.
(DESIGN CHOICE, notes/assumptions/10.md.) -/
opaque imageWord : Nat → Nat → BitVec 32

/-- The KiB of a context image, as its header's size field and ctxsv's result register hold them (14 R366), by the free
counter; none is below the KiB of its header. (DESIGN CHOICE, notes/assumptions/10.md.) -/
opaque imageSize : Nat → BitVec 32

/-- The SM3 digest of an image's words (14 R366; 16 R414). (DESIGN CHOICE, notes/assumptions/10.md.) -/
opaque sm3 : List (BitVec 32) → BitVec 256

/-- The SM2 signature under a key (16 R414, R415): the key's digest and the signed digest.
(DESIGN CHOICE, notes/assumptions/10.md.) -/
opaque sm2 : BitVec 256 → BitVec 256 → BitVec 512

/-- Which of several candidates a replacement or an unordered choice takes (04 R110, 05 R137), by the free counter.
(DESIGN CHOICE, notes/assumptions/10.md.) -/
opaque choice : Nat → Nat

/-- Which of several ways a line is filled into, and which line of a full way it replaces (05 R126), by the tick and
the line. (DESIGN CHOICE, notes/assumptions/10.md; DESIGN CHOICE, notes/assumptions/51.md.) -/
opaque way : Nat → Nat → Nat

/-- The clock in kHz that a block sets for itself (16 R411), by the free counter and the block.
(DESIGN CHOICE, notes/assumptions/10.md; DESIGN CHOICE, notes/assumptions/9.md.) -/
opaque clock : Nat → Nat → BitVec 32

/-- The links that fail to train at a bring-up (16 R413), by the free counter.
(DESIGN CHOICE, notes/assumptions/10.md; DESIGN CHOICE, notes/assumptions/70.md.) -/
opaque untrainedLinks : Nat → List LinkId

/-- The memory stacks that fail to train at a bring-up (16 R413), by the free counter.
(DESIGN CHOICE, notes/assumptions/10.md; DESIGN CHOICE, notes/assumptions/70.md.) -/
opaque untrainedStacks : Nat → List Nat

/-- A value the spec leaves open, by the free counter. (DESIGN CHOICE, notes/assumptions/10.md.) -/
opaque word : Nat → BitVec 32

/-- Whether the host completes an AtomicOp with an error (07 R188), by the free counter.
(DESIGN CHOICE, notes/assumptions/10.md; DESIGN CHOICE, notes/assumptions/78.md.) -/
opaque atomicOpFails : Nat → Bool

/-- The skid in clk that a stop record gives (14 R354), by the free counter.
(DESIGN CHOICE, notes/assumptions/10.md; DESIGN CHOICE, notes/assumptions/31.md.) -/
opaque skid : Nat → BitVec 8

/-- The reason an access of a partition with no bank group reports (05 R125 names PROTECTION and no reason).
(DESIGN CHOICE, notes/assumptions/10.md; DESIGN CHOICE, notes/assumptions/29.md.) -/
opaque noGroupReason : BitVec 4

end Sys2Proof.Config
end

