-- ==== Sys2Proof/WellFormed.lean ====
section
/-! DEFINITION. Which field values each instruction admits: the field tables of 02 R36, R38 to R44, R46, R48 and of
every instruction's own rule, as shapes that one check reads. -/

namespace Sys2Proof

/-- The admitted values of `x` run from `lo` to `hi`. -/
def within (x : BitVec n) (lo hi : Nat) : Bool := lo ≤ x.toNat && x.toNat ≤ hi

/-- A 64-bit type takes an even pair (02 R40). -/
def Ty.isPair : Ty → Bool
  | .i64 | .n64 | .f64 => true
  | _ => false

/-- The type is an integer type. -/
def Ty.isInt : Ty → Bool
  | .i32 | .n32 | .i64 | .n64 => true
  | _ => false

/-- The type is a floating-point type, codes 4 to 9. -/
def Ty.isFloat (t : Ty) : Bool := !t.isInt

/-- The type is packed, codes 8 and 9. -/
def Ty.isPacked : Ty → Bool
  | .f16x2 | .bf16x2 => true
  | _ => false

/-- The type code (02 R40). -/
def Ty.code : Ty → BitVec 4
  | .i32 => 0 | .n32 => 1 | .i64 => 2 | .n64 => 3 | .f32 => 4
  | .f16 => 5 | .bf16 => 6 | .f64 => 7 | .f16x2 => 8 | .bf16x2 => 9

/-- The type of a code, none for the reserved codes 10 to 15. -/
def Ty.ofNum : Nat → Option Ty
  | 0 => some .i32 | 1 => some .n32 | 2 => some .i64 | 3 => some .n64 | 4 => some .f32
  | 5 => some .f16 | 6 => some .bf16 | 7 => some .f64 | 8 => some .f16x2 | 9 => some .bf16x2
  | _ => none

/-- The type of a 4-bit code. -/
def Ty.ofCode (c : BitVec 4) : Option Ty := Ty.ofNum c.toNat

/-- The scope code (01 R23). -/
def Scope.code : Scope → BitVec 3
  | .wp => 0 | .cl => 1 | .sec => 2 | .die => 3 | .pkg => 4 | .sys => 5

/-- The scope of a code, none for 6 and 7. -/
def Scope.ofNum : Nat → Option Scope
  | 0 => some .wp | 1 => some .cl | 2 => some .sec | 3 => some .die | 4 => some .pkg | 5 => some .sys
  | _ => none

/-- The scope of a 3-bit code. -/
def Scope.ofCode (c : BitVec 3) : Option Scope := Scope.ofNum c.toNat

/-- The space code (02 R44). -/
def Space.code : Space → BitVec 2
  | .g => 0 | .sp => 1 | .rsp => 2 | .co => 3

/-- The space of a number below 4. -/
def Space.ofNum : Nat → Space
  | 0 => .g | 1 => .sp | 2 => .rsp | _ => .co

/-- The space of a 2-bit code. -/
def Space.ofCode (c : BitVec 2) : Space := Space.ofNum c.toNat

/-- What a field of a word names, or that it must be 0, or that it holds a value of its own. -/
inductive Field where
  | zero                -- unused: must be 0 (02 R32)
  | one                 -- one register
  | pair                -- an even pair
  | g4 | g8 | g16       -- a group at a multiple of its size
  | tyf                 -- a register or pair as ty sets ("ty form")
  | tyf2                -- twice that: the operand of acas (07 R184)
  | value (hi : Nat)    -- an immediate or control value, 0 to hi
  deriving DecidableEq, Repr

/-- How many registers a field names under a type, 0 where it names none. -/
def Field.span (f : Field) (t : Ty) : Nat :=
  match f with
  | .zero | .value _ => 0
  | .one => 1
  | .pair => 2
  | .g4 => 4
  | .g8 => 8
  | .g16 => 16
  | .tyf => if t.isPair then 2 else 1
  | .tyf2 => if t.isPair then 4 else 2

/-- The field's value is admitted (02 R32, R38). -/
def Field.ok (f : Field) (t : Ty) (x : BitVec 8) : Bool :=
  match f with
  | .zero => x == 0
  | .value hi => x.toNat ≤ hi
  | _ => x.toNat % f.span t == 0

/-- The field is read as a vector register, so it may carry a reuse hint (02 R42). -/
def Field.isReg (f : Field) : Bool :=
  match f with
  | .zero | .value _ => false
  | _ => true

/-- What one W3 instruction admits. -/
structure W3Shape where
  d : Field := .zero
  a : Field := .zero
  b : Field := .zero
  c : Field := .zero
  /-- the types it admits; one without a type admits i32, code 0 (02 R40) -/
  tys : List Ty := [.i32]
  /-- mod[2:0] it admits -/
  m : Ty → BitVec 3 → Bool := fun _ m => m == 0
  /-- whether reuse hints are admitted at all (02 R42) -/
  hints : Bool := true
  /-- whether a guard is admitted -/
  guarded : Bool := true

def tysInt : List Ty := [.i32, .n32, .i64, .n64]
def tysFloat : List Ty := [.f32, .f16, .bf16, .f64, .f16x2, .bf16x2]
def tysAll : List Ty := tysInt ++ tysFloat

/-- Rounding codes 0 to 6; code 5 only where no f64 is read or rounded (10 R253). -/
def roundOk (t : Ty) (m : BitVec 3) : Bool := m.toNat ≤ 6 && (m != 5 || t != .f64)

/-- Rounding codes 0 to 4 and 6, for words that never admit stochastic rounding (10 R253). -/
def roundNoSr (m : BitVec 3) : Bool := m.toNat ≤ 4 || m == 6

/-- A compare condition (02 R43). -/
def condOk (m : BitVec 3) : Bool := m.toNat ≤ 5

/-- A scope in mod[2:0] (01 R23). -/
def scopeOk (m : BitVec 3) : Bool := m.toNat ≤ 5

/-- A valid format code of the 8-bit formats (03 R72, R73). -/
def fcodeOk (c : Nat) : Bool :=
  c < 64 && !bitN c 3 && !(c % 8 == 0 && bitN c 4)

/-- A special-register selector that smov may read, with its width in words; the upper words have 128 added (09 R228, R230). -/
def selOk (sel : Nat) : Bool := sel ≤ 27 || [140, 141, 142, 147].contains sel

/-- Selectors of the 64-bit special registers (09 R228). -/
def selWide (sel : Nat) : Bool := [12, 13, 14, 19].contains sel

/-- Selectors smovw may write: those not marked RO (09 R228, R230). -/
def selWritable (sel : Nat) : Bool :=
  [8, 9, 10, 11, 13, 14, 16, 17, 18, 21, 22, 24, 25, 26, 27, 141, 142].contains sel

/-- The selectors of csrr and csrw (14 R379). -/
def csrSelOk (sel : Nat) : Bool := sel ≤ 0x23 || (0x40 ≤ sel && sel ≤ 0x45)

/-- The space a c field names by its bits [1:0] takes a pair as address (02 R44). -/
def addrField (c : BitVec 8) : Field := if c.toNat % 4 == 0 || c.toNat % 4 == 3 then .pair else .one

/-- INT (10 R254). -/
def intShape (fn : Nat) : Option W3Shape :=
  match fn with
  | 0 | 1 | 2 | 3 | 5 | 6 | 7 | 8 => some { d := .tyf, a := .tyf, b := .tyf, tys := tysInt }
  | 4 => some { d := .tyf, a := .tyf, b := .tyf, c := .tyf, tys := tysInt }
  | 9 => some { d := .tyf, a := .tyf, tys := [.i32, .i64] }
  | 10 => some { d := .tyf, a := .tyf, tys := tysInt }
  | 11 | 12 => some { d := .pair, a := .one, b := .one, c := .one, tys := [.n32] }
  | 13 => some { d := .tyf, a := .tyf, b := .tyf, c := .one, tys := tysAll }
  | 14 => some { d := .pair, a := .pair, b := .one, tys := [.i32, .n32], m := fun _ _ => true }
  | 15 => some { d := .one, a := .tyf, b := .tyf, tys := tysInt, m := fun _ => condOk }
  | _ => none

/-- LOGIC (10 R258). -/
def logicShape (fn : Nat) : Option W3Shape :=
  match fn with
  | 0 | 1 | 2 | 3 => some { d := .tyf, a := .tyf, b := .tyf, tys := tysInt }
  | 4 | 11 | 12 | 13 | 14 => some { d := .tyf, a := .tyf, tys := tysInt }
  | 5 | 6 | 7 | 8 | 9 => some { d := .tyf, a := .tyf, b := .one, tys := tysInt }
  | 10 => some { d := .tyf, a := .tyf, b := .tyf, c := .one, tys := tysInt }
  | 15 => some { d := .tyf, a := .tyf, tys := tysAll }
  | _ => none

/-- FP (10 R260). -/
def fpShape (fn : Nat) : Option W3Shape :=
  match fn with
  | 0 | 1 | 2 => some { d := .tyf, a := .tyf, b := .tyf, tys := tysFloat, m := roundOk }
  | 3 => some { d := .tyf, a := .tyf, b := .tyf, c := .tyf, tys := tysFloat, m := roundOk }
  | 4 | 5 | 12 => some { d := .tyf, a := .tyf, b := .tyf, tys := tysFloat }
  | 6 | 7 => some { d := .tyf, a := .tyf, tys := tysFloat }
  | 8 => some { d := .one, a := .tyf, b := .tyf, tys := tysFloat, m := fun _ => condOk }
  | 9 => some { d := .one, a := .tyf, tys := tysFloat }
  | 10 => some { d := .tyf, a := .tyf, tys := tysFloat, m := roundOk }
  | 11 => some { d := .tyf, a := .tyf, b := .one, tys := tysFloat, m := roundOk }
  | _ => none

/-- The field that a source of type `t` takes. -/
def srcField (t : Ty) : Field := if t.isPair then .pair else .one

/-- fcvt between register types (10 R264): the source type is in b[3:0]. -/
def fcvtFloatShape (w : W3) : Option W3Shape :=
  match Ty.ofNum w.b.toNat with
  | some s =>
    if s.isFloat && s.isPacked == w.ty.isPacked then
      some { d := .tyf, a := srcField s, b := .value 9, tys := tysFloat,
             m := fun t m => roundOk t m && roundOk s m }
    else none
  | none => none

/-- icvt (10 R264): the source type is in b[3:0]; one side at least is an integer. -/
def icvtShape (w : W3) : Option W3Shape :=
  match Ty.ofNum w.b.toNat with
  | some s =>
    if w.b.toNat ≤ 7 && !(s.isFloat && w.ty.isFloat) then
      some { d := .tyf, a := srcField s, b := .value 7,
             tys := [.i32, .n32, .i64, .n64, .f32, .f16, .bf16, .f64],
             m := fun t m => if s.isInt && t.isInt then m == 0 else roundNoSr m }
    else none
  | none => none

/-- FCVT (10 R264). -/
def fcvtShape (fn : Nat) (w : W3) : Option W3Shape :=
  let f := w.c.toNat % 64
  match fn with
  | 0 =>
    if w.c.toNat / 64 == 0 then fcvtFloatShape w
    else if w.c.toNat / 64 == 1 then
      if fcodeOk f then some { d := .tyf, a := .one, c := .value 255, tys := tysFloat, m := roundOk } else none
    else if w.c.toNat / 64 == 2 then
      if fcodeOk f then some { d := .one, a := .tyf, c := .value 255, tys := tysFloat, m := roundOk } else none
    else none
  | 1 => icvtShape w
  | 2 => if fcodeOk f then
      some { d := .pair, a := .g4, c := .value 255, tys := [.f32, .f16, .bf16], m := fun _ => roundNoSr } else none
  | 3 => if fcodeOk f then
      some { d := .g4, a := .pair, c := .value 63, tys := [.f32, .f16, .bf16], m := fun _ => roundNoSr } else none
  | _ => none

/-- SFU (10 R269). -/
def sfuShape (fn : Nat) : Option W3Shape :=
  if fn < 8 then some { d := .tyf, a := .tyf, tys := [.f32, .f16, .bf16, .f16x2, .bf16x2] } else none

/-- redux and scan (09 R242): operation in c[2:0], the exclusive form in c[3] for scan alone. -/
def reduxShape (ex : Bool) (w : W3) : Option W3Shape :=
  let op := w.c.toNat % 8
  if op ≤ 5 && w.c.toNat < (if ex then 16 else 8) && (w.ty != .f32 || op ≤ 2) then
    some { d := .tyf, a := .tyf, c := .value 15, tys := [.i32, .n32, .i64, .n64, .f32],
           m := fun t m => if t == .f32 && op == 0 then roundNoSr m else m == 0 }
  else none

/-- LANE (09 R242). -/
def laneShape (fn : Nat) (w : W3) : Option W3Shape :=
  match fn with
  | 0 => some { d := .tyf, a := .tyf, b := .one, tys := [.i32, .i64], m := fun _ m => m.toNat ≤ 3 }
  | 1 => some { d := if w.m == 3 then .pair else .one, a := .one, m := fun _ m => m.toNat ≤ 4 }
  | 2 => some { d := .tyf, a := .tyf, b := .one, tys := [.i32, .i64] }
  | 3 => reduxShape false w
  | 4 => reduxShape true w
  | 5 => some { d := .pair, a := .tyf, tys := [.i32, .i64] }
  | 6 => some { d := .pair, m := fun _ m => m.toNat ≤ 5 }
  | _ => none

/-- WARP (09 R236, R249). -/
def warpShape (fn : Nat) : Option W3Shape :=
  match fn with
  | 0 | 1 | 2 => some { d := .one, guarded := false }
  | 3 => some { d := .tyf, tys := [.n32, .n64, .f32] }
  | 4 | 5 => some { a := .pair, hints := false }
  | _ => none

/-- REG (09 R227, R230). -/
def regShape (fn : Nat) (w : W3) : Option W3Shape :=
  let s := w.a.toNat
  match fn with
  | 0 => if selOk s && (w.ty != .n64 || selWide s) then
      some { d := .tyf, a := .value 255, tys := [.n32, .n64] } else none
  | 1 => if selWritable s && (w.ty != .n64 || selWide s) then
      some { a := .value 255, b := .tyf, tys := [.n32, .n64], hints := false } else none
  | 2 | 3 => some {}
  | _ => none

/-- QUEUE (08 R208). -/
def queueShape (fn : Nat) : Option W3Shape :=
  match fn with
  | 0 => some { a := .one, b := .value 7 }
  | 1 | 2 | 3 => some { d := .one, b := .value 7 }
  | _ => none

/-- FLOW (11 R290). -/
def flowShape (fn : Nat) : Option W3Shape :=
  match fn with
  | 0 | 1 | 2 | 4 | 5 => some {}
  | 3 => some { a := .one, hints := false }
  | _ => none

/-- ATOM (07 R184, R185). -/
def atomShape (fn : Nat) (w : W3) : Option W3Shape :=
  if fn ≤ 17 then
    some { d := if fn ≤ 10 then .tyf else .zero, a := addrField w.c, b := if fn == 7 then .tyf2 else .tyf,
           c := .value 3,
           tys := if fn == 8 || fn == 9 then [.n32]
                  else if fn == 10 || fn == 17 then [.f32, .f16x2, .bf16x2] else tysInt,
           m := fun _ m => if w.c == 1 then m.toNat ≤ 2 else if w.c == 2 then m == 2 else scopeOk m }
  else none

/-- SYNC (07 R192). -/
def syncShape (fn : Nat) (w : W3) : Option W3Shape :=
  match fn with
  | 0 | 2 => some { m := fun _ => scopeOk }
  | 1 => some { a := .one, m := fun _ => scopeOk }
  | 3 => if w.m == 0 then some { a := .one }
         else some { d := .one, a := .one, b := .pair, c := .one, m := fun _ m => m == 1 }
  | 4 => some { d := .one, a := .pair, b := .one, c := .one, m := fun _ m => m == 5 }
  | _ => none

/-- COPY (08 R200). -/
def copyShape (fn : Nat) : Option W3Shape :=
  if fn ≤ 3 then some { d := .value 7, a := .pair, b := .pair, c := .pair, m := fun _ => scopeOk } else none

/-- TAG (08 R212). -/
def tagShape (fn : Nat) : Option W3Shape :=
  match fn with
  | 0 | 1 | 3 => some { a := .pair, hints := false }
  | 2 => some { d := .one, a := .pair, hints := false }
  | _ => none

/-- GONG (08 R215). -/
def gongShape (fn : Nat) : Option W3Shape :=
  match fn with
  | 0 => some { a := .one, b := .one, c := .one, hints := false }
  | 1 => some { d := .one, a := .one, b := .one, hints := false }
  | 2 => some { a := .one, b := .one, hints := false }
  | 3 => some { d := .one, a := .one, hints := false }
  | _ => none

/-- CHIME (08 R216). -/
def chimeShape (fn : Nat) : Option W3Shape :=
  match fn with
  | 0 | 1 => some { a := .pair, b := .one, c := .one, m := fun _ m => within m 1 5, hints := false }
  | 2 => some { a := .pair, m := fun _ m => within m 1 5, hints := false }
  | _ => none

/-- MATRIX (12 R301). -/
def matrixShape (fn : Nat) (w : W3) : Option W3Shape :=
  match fn with
  | 0 => if w.ty == .i32 && !fcodeOk w.c.toNat then none else
      some { d := .value 3, a := .g16, b := .pair, c := if w.ty == .i32 then .value 63 else .zero,
             tys := [.i32, .f16, .bf16] }
  | 1 => some { d := .value 3 }
  | 2 => some { d := if w.ty == .f32 then .g16 else .g8, a := .value 3, c := .value 7,
                tys := [.f32, .f16x2, .bf16x2], m := fun _ => roundNoSr }
  | 3 => some { d := .one, a := .value 3, b := .one, c := .value 3, tys := [.f32], m := fun _ => condOk }
  | 4 => if w.c == 2 then none else
      some { d := .value 3, a := addrField w.c, c := .value 3, tys := [.f32, .f16, .bf16], m := fun _ => roundNoSr }
  | 5 | 6 => if w.c == 2 then none else some { d := .value 3, a := addrField w.c, c := .value 3 }
  | 7 => some { a := .pair, b := .one, c := .pair, tys := [.i32, .f16, .bf16] }
  | 8 => some { d := .value 3, b := .one }
  | 9 => some { d := .value 1 }
  | _ => none

/-- LAUNCH (13 R326). -/
def launchShape (fn : Nat) : Option W3Shape :=
  match fn with
  | 0 => some { d := .pair, a := .pair, b := .pair, hints := false }
  | 1 => some { d := .pair, a := .pair, b := .one, hints := false }
  | 2 => some { d := .one, a := .pair, hints := false }
  | _ => none

/-- SYSTEM (14 R364, R366, R367, R381). -/
def systemShape (fn : Nat) (w : W3) : Option W3Shape :=
  match fn with
  | 0 => if csrSelOk w.a.toNat then
      some { d := .tyf, a := .value 255, b := .one, tys := [.n32, .n64], hints := false } else none
  | 1 => if csrSelOk w.a.toNat then
      some { a := .value 255, b := .tyf, c := .one, tys := [.n32, .n64], hints := false } else none
  | 2 => match w.m.toNat with
    | 0 => some { a := .pair, b := .one, c := .one, hints := false }
    | 1 => some { c := .one, m := fun _ m => m == 1, hints := false }
    | 2 | 3 => some { m := fun _ m => within m 2 3, hints := false }
    | _ => none
  | 3 | 4 => match w.m.toNat with
    | 0 => some { d := .one, a := .pair, hints := false }
    | 1 => some { d := .one, b := .one, m := fun _ m => m == 1, hints := false }
    | _ => none
  | 5 => some { hints := false }
  | 6 => some { d := .pair, a := .pair, b := .one, c := .one, hints := false }
  | 7 => some { d := .one, a := .pair, b := .one, hints := false }
  | 8 => some { d := .one, a := .pair, b := .one, m := fun _ m => m.toNat ≤ 1, hints := false }
  | 9 => some { d := .one, a := .pair, b := .one, hints := false }
  | _ => none

/-- The shape of a W3 function, by major and fn (02 R49). -/
def w3Shape (major fn : Nat) (w : W3) : Option W3Shape :=
  match major with
  | 0x01 => intShape fn
  | 0x03 => logicShape fn
  | 0x04 => fpShape fn
  | 0x05 => fcvtShape fn w
  | 0x06 => sfuShape fn
  | 0x08 => laneShape fn w
  | 0x09 => warpShape fn
  | 0x0A => regShape fn w
  | 0x0B => queueShape fn
  | 0x11 => flowShape fn
  | 0x1A => atomShape fn w
  | 0x1B => syncShape fn w
  | 0x20 => copyShape fn
  | 0x21 => tagShape fn
  | 0x22 => gongShape fn
  | 0x23 => chimeShape fn
  | 0x28 => matrixShape fn w
  | 0x30 => launchShape fn
  | 0x38 => systemShape fn w
  | _ => none

/-- A guard is legal: v0 cannot be negated (02 R39). -/
def guardOk (g : BitVec 8) (gn : Bool) : Bool := g != 0 || !gn

/-- The shape admits the word's fields. -/
def W3Shape.ok (s : W3Shape) (w : W3) : Bool :=
  s.tys.contains w.ty && s.d.ok w.ty w.d && s.a.ok w.ty w.a && s.b.ok w.ty w.b && s.c.ok w.ty w.c
    && s.m w.ty w.m && guardOk w.g w.gn && (s.guarded || w.g == 0)
    && (!w.hintA || (s.hints && s.a.isReg)) && (!w.hintB || (s.hints && s.b.isReg))

/-- A W3 word's fields are those its function admits (02 R52). -/
def w3Ok (major fn : Nat) (w : W3) : Bool :=
  match w3Shape major fn w with
  | some s => s.ok w
  | none => false

/-- The bits of a type's register form. -/
def Ty.width (t : Ty) : Nat := if t.isPair then 64 else 32

/-- A WI word's fields are those its function admits (10 R256); icmpi writes one register whatever its type. -/
def wiOk (major fn : Nat) (w : WI) : Bool :=
  major == 2 && (fn == 10 || Field.tyf.ok w.ty w.d) &&
  match fn with
  | 0 | 1 | 2 | 3 | 4 => tysInt.contains w.ty && Field.tyf.ok w.ty w.a
  | 5 | 6 | 7 => tysInt.contains w.ty && Field.tyf.ok w.ty w.a && w.imm.toNat < w.ty.width
  | 8 => [.i32, .n32, .i64, .n64, .f32].contains w.ty && w.a == 0
  | 9 => (w.ty == .i64 || w.ty == .n64) && w.a == 0
  | 10 => tysInt.contains w.ty && Field.tyf.ok w.ty w.a && w.imm.toNat / 2 ^ 29 ≤ 5
  | _ => false

/-- The data group of an access size (02 R44). -/
def sizeField (sz : Nat) : Field :=
  match sz with
  | 0 | 1 | 2 => .one
  | 3 => .pair
  | 4 => .g4
  | _ => .g8

/-- The scopes LOAD and STORE admit by space (07 R175). -/
def scBySpace (space : Space) (sc : Scope) : Bool :=
  match space with
  | .g | .co => true
  | .sp => sc.code.toNat ≤ 2
  | .rsp => sc == .sec

/-- The address field's alignment by space (02 R34). -/
def wmAddrOk (w : WM) : Bool :=
  match w.sp with
  | .g | .co => w.a.toNat % 2 == 0
  | _ => true

/-- A WM word's fields are those its function admits (07 R175). -/
def wmOk (major fn : Nat) (w : WM) : Bool :=
  guardOk w.g w.gn && wmAddrOk w &&
  match major, fn with
  | 0x18, 0 | 0x19, 0 => w.sz.toNat ≤ 5 && scBySpace w.sp w.sc && (sizeField w.sz.toNat).ok .i32 w.d
  | 0x18, 1 | 0x19, 1 => w.sz.toNat ≤ 2 && scBySpace w.sp w.sc
  | 0x18, 2 => w.sp == .g && w.sz.toNat ≤ 5 && (sizeField w.sz.toNat).ok .i32 w.d
  | 0x18, 3 | 0x19, 2 => (w.sp == .g || w.sp == .co) && w.sz.toNat ≤ 5 && (sizeField w.sz.toNat).ok .i32 w.d
  | 0x18, 4 => (w.sp == .g || w.sp == .co) && w.sz.toNat ≤ 2 && w.sc == .wp && w.d == 0
  | _, _ => false

/-- A WB word's fields are those its function admits (02 R36; 11 R281). -/
def wbOk (fn : Nat) (w : WB) : Bool :=
  guardOk w.g w.gn &&
  match fn with
  | 0 => w.reg == 0
  | 1 => w.reg.toNat % 2 == 0
  | 2 => w.hint != 3 && w.g == 0 && 2 ≤ w.off.toInt
  | 3 | 4 | 5 => w.reg.toNat % 2 == 0 && w.off == 0
  | 6 => w.hint == 0 && w.reg == 0 && w.off == 0
  | 7 => w.hint == 0 && w.reg == 0
  | _ => false

/-- Slot operations that read b (02 R46). -/
def SlotOp.readsB : SlotOp → Bool
  | .nop | .iaddi | .shli | .shri | .sari | .movi => false
  | _ => true

/-- Slot operations whose type is i32 or n32 (02 R46); nop has type code 0. -/
def SlotOp.isInt : SlotOp → Bool
  | .fadd | .fsub | .fmul | .fmin | .fmax | .fabs | .fneg | .fcmp => false
  | _ => true

/-- The slot's type, mod and fields are those the slot opcode table admits (02 R46). -/
def Slot.ok (s : Slot) : Bool :=
  (if s.op.isInt then s.ty == .i32 || (s.ty == .n32 && s.op != .nop)
   else s.ty == .f32 || s.ty == .f16x2 || s.ty == .bf16x2)
  && (s.op.readsB || s.b == 0) && (s.op != .nop || s.d == 0)
  && match s.op with
    | .iaddi | .shli | .shri | .sari | .movi => true
    | .icmp | .fcmp => s.m.toNat ≤ 5
    | .fadd | .fsub | .fmul => s.m.toNat ≤ 4 || s.m == 6
    | _ => s.m == 0

/-- The bank rule of two slots other than nop (02 R45, R48). -/
def PairWord.banksOk (p : PairWord) : Bool :=
  p.s0.op == .nop || p.s1.op == .nop ||
  (p.s0.d.toNat % 4 != p.s1.d.toNat % 4 &&
   !(p.s0.op.readsB && p.s1.op.readsB && p.s0.b.toNat % 4 == p.s1.b.toNat % 4))

/-- Majors of 02 R49 with their formats. -/
inductive Fmt where
  | w3 | wi | wm | wb
  deriving DecidableEq, Repr

/-- The format of an assigned major (02 R49). -/
def majorFmt (major : Nat) : Option Fmt :=
  if [0x01, 0x03, 0x04, 0x05, 0x06, 0x08, 0x09, 0x0A, 0x0B, 0x11, 0x1A, 0x1B, 0x20, 0x21, 0x22, 0x23, 0x28, 0x30,
      0x38].contains major then some .w3
  else match major with
    | 0x02 => some .wi
    | 0x18 | 0x19 => some .wm
    | 0x10 => some .wb
    | _ => none

/-- How many functions a major has; fn values count from 0 (02 R49). -/
def majorFns (major : Nat) : Nat :=
  match major with
  | 0x01 => 16 | 0x02 => 11 | 0x03 => 16 | 0x04 => 13 | 0x05 => 4 | 0x06 => 8 | 0x08 => 7 | 0x09 => 6
  | 0x0A => 4 | 0x0B => 4 | 0x10 => 8 | 0x11 => 6 | 0x18 => 5 | 0x19 => 3 | 0x1A => 18 | 0x1B => 5
  | 0x20 => 4 | 0x21 => 4 | 0x22 => 4 | 0x23 => 3 | 0x28 => 10 | 0x30 => 3 | 0x38 => 10
  | _ => 0

/-- An instruction as the fields of its word, with its major and fn where the format has them; a hardware
step has no word, and `word` is the unassigned one. -/
inductive Fields where
  | w3 (major fn : Nat) (w : W3)
  | wi (major fn : Nat) (w : WI)
  | wm (major fn : Nat) (w : WM)
  | wb (major fn : Nat) (w : WB)
  | pair (p : PairWord)
  | word
  | step

/-- Major and fn of each instruction (02 R49). -/
def Instr.fields (i : Instr) : Fields :=
  match i with
  | .iadd w => .w3 0x01 0 w
  | .isub w => .w3 0x01 1 w
  | .imul w => .w3 0x01 2 w
  | .imulh w => .w3 0x01 3 w
  | .imad w => .w3 0x01 4 w
  | .idiv w => .w3 0x01 5 w
  | .irem w => .w3 0x01 6 w
  | .imin w => .w3 0x01 7 w
  | .imax w => .w3 0x01 8 w
  | .iabs w => .w3 0x01 9 w
  | .ineg w => .w3 0x01 10 w
  | .iaddc w => .w3 0x01 11 w
  | .isubb w => .w3 0x01 12 w
  | .sel w => .w3 0x01 13 w
  | .lea w => .w3 0x01 14 w
  | .icmp w => .w3 0x01 15 w
  | .iaddi w => .wi 0x02 0 w
  | .imuli w => .wi 0x02 1 w
  | .andi w => .wi 0x02 2 w
  | .ori w => .wi 0x02 3 w
  | .xori w => .wi 0x02 4 w
  | .shli w => .wi 0x02 5 w
  | .shri w => .wi 0x02 6 w
  | .sari w => .wi 0x02 7 w
  | .movi w => .wi 0x02 8 w
  | .movhi w => .wi 0x02 9 w
  | .icmpi w => .wi 0x02 10 w
  | .and w => .w3 0x03 0 w
  | .or w => .w3 0x03 1 w
  | .xor w => .w3 0x03 2 w
  | .andn w => .w3 0x03 3 w
  | .not w => .w3 0x03 4 w
  | .shl w => .w3 0x03 5 w
  | .shr w => .w3 0x03 6 w
  | .sar w => .w3 0x03 7 w
  | .rol w => .w3 0x03 8 w
  | .bfx w => .w3 0x03 9 w
  | .bfi w => .w3 0x03 10 w
  | .popc w => .w3 0x03 11 w
  | .clz w => .w3 0x03 12 w
  | .ctz w => .w3 0x03 13 w
  | .brev w => .w3 0x03 14 w
  | .mov w => .w3 0x03 15 w
  | .fadd w => .w3 0x04 0 w
  | .fsub w => .w3 0x04 1 w
  | .fmul w => .w3 0x04 2 w
  | .ffma w => .w3 0x04 3 w
  | .fmin w => .w3 0x04 4 w
  | .fmax w => .w3 0x04 5 w
  | .fabs w => .w3 0x04 6 w
  | .fneg w => .w3 0x04 7 w
  | .fcmp w => .w3 0x04 8 w
  | .fclass w => .w3 0x04 9 w
  | .frnd w => .w3 0x04 10 w
  | .fscal w => .w3 0x04 11 w
  | .fcopys w => .w3 0x04 12 w
  | .fcvtFloat w => .w3 0x05 0 w
  | .fcvtFromBinary8 w => .w3 0x05 0 w
  | .fcvtToBinary8 w => .w3 0x05 0 w
  | .icvt w => .w3 0x05 1 w
  | .fpack w => .w3 0x05 2 w
  | .funpack w => .w3 0x05 3 w
  | .frcp w => .w3 0x06 0 w
  | .frsq w => .w3 0x06 1 w
  | .fsqrt w => .w3 0x06 2 w
  | .fex2 w => .w3 0x06 3 w
  | .flg2 w => .w3 0x06 4 w
  | .fsin w => .w3 0x06 5 w
  | .fcos w => .w3 0x06 6 w
  | .ftanh w => .w3 0x06 7 w
  | .pairedWord p => .pair p
  | .shfl w => .w3 0x08 0 w
  | .vote w => .w3 0x08 1 w
  | .bcast w => .w3 0x08 2 w
  | .redux w => .w3 0x08 3 w
  | .scan w => .w3 0x08 4 w
  | .matchLanes w => .w3 0x08 5 w
  | .lmask w => .w3 0x08 6 w
  | .split w => .w3 0x09 0 w
  | .fuse w => .w3 0x09 1 w
  | .fuseq w => .w3 0x09 2 w
  | .rng w => .w3 0x09 3 w
  | .rngseed w => .w3 0x09 4 w
  | .rngskip w => .w3 0x09 5 w
  | .smov w => .w3 0x0A 0 w
  | .smovw w => .w3 0x0A 1 w
  | .xacq w => .w3 0x0A 2 w
  | .xrel w => .w3 0x0A 3 w
  | .push w => .w3 0x0B 0 w
  | .pop w => .w3 0x0B 1 w
  | .qpoll w => .w3 0x0B 2 w
  | .qlen w => .w3 0x0B 3 w
  | .bra w => .wb 0x10 0 w
  | .call w => .wb 0x10 1 w
  | .loop w => .wb 0x10 2 w
  | .jmpr w => .wb 0x10 3 w
  | .callr w => .wb 0x10 4 w
  | .ret w => .wb 0x10 5 w
  | .brk w => .wb 0x10 6 w
  | .meet w => .wb 0x10 7 w
  | .nop w => .w3 0x11 0 w
  | .exit w => .w3 0x11 1 w
  | .tail w => .w3 0x11 2 w
  | .trap w => .w3 0x11 3 w
  | .yield w => .w3 0x11 4 w
  | .spin w => .w3 0x11 5 w
  | .ld w => .wm 0x18 0 w
  | .ldacq w => .wm 0x18 1 w
  | .lddec w => .wm 0x18 2 w
  | .ldnt w => .wm 0x18 3 w
  | .pref w => .wm 0x18 4 w
  | .st w => .wm 0x19 0 w
  | .strel w => .wm 0x19 1 w
  | .stnt w => .wm 0x19 2 w
  | .aadd w => .w3 0x1A 0 w
  | .amin w => .w3 0x1A 1 w
  | .amax w => .w3 0x1A 2 w
  | .aand w => .w3 0x1A 3 w
  | .aor w => .w3 0x1A 4 w
  | .axor w => .w3 0x1A 5 w
  | .axch w => .w3 0x1A 6 w
  | .acas w => .w3 0x1A 7 w
  | .ainc w => .w3 0x1A 8 w
  | .adec w => .w3 0x1A 9 w
  | .aaddf w => .w3 0x1A 10 w
  | .radd w => .w3 0x1A 11 w
  | .rmin w => .w3 0x1A 12 w
  | .rmax w => .w3 0x1A 13 w
  | .rand w => .w3 0x1A 14 w
  | .ror w => .w3 0x1A 15 w
  | .rxor w => .w3 0x1A 16 w
  | .raddf w => .w3 0x1A 17 w
  | .fence w => .w3 0x1B 0 w
  | .acq w => .w3 0x1B 1 w
  | .rel w => .w3 0x1B 2 w
  | .regionInvalidate w => .w3 0x1B 3 w
  | .regionRewrite w => .w3 0x1B 3 w
  | .waitm w => .w3 0x1B 4 w
  | .cpy w => .w3 0x20 0 w
  | .gath w => .w3 0x20 1 w
  | .scat w => .w3 0x20 2 w
  | .coll w => .w3 0x20 3 w
  | .tagwa w => .w3 0x21 0 w
  | .tagwy w => .w3 0x21 1 w
  | .tagff w => .w3 0x21 2 w
  | .tagclr w => .w3 0x21 3 w
  | .gongi w => .w3 0x22 0 w
  | .gonga w => .w3 0x22 1 w
  | .gongw w => .w3 0x22 2 w
  | .gongt w => .w3 0x22 3 w
  | .chset w => .w3 0x23 0 w
  | .chwait w => .w3 0x23 1 w
  | .chclr w => .w3 0x23 2 w
  | .mma w => .w3 0x28 0 w
  | .mzero w => .w3 0x28 1 w
  | .mres w => .w3 0x28 2 w
  | .mcmp w => .w3 0x28 3 w
  | .msta w => .w3 0x28 4 w
  | .msave w => .w3 0x28 5 w
  | .mrest w => .w3 0x28 6 w
  | .mldb w => .w3 0x28 7 w
  | .manch w => .w3 0x28 8 w
  | .mbank w => .w3 0x28 9 w
  | .launch w => .w3 0x30 0 w
  | .ldisp w => .w3 0x30 1 w
  | .lstat w => .w3 0x30 2 w
  | .csrr w => .w3 0x38 0 w
  | .csrw w => .w3 0x38 1 w
  | .tlbinvRange w => .w3 0x38 2 w
  | .tlbinvCtx w => .w3 0x38 2 w
  | .tlbinvPart w => .w3 0x38 2 w
  | .tlbinvAll w => .w3 0x38 2 w
  | .haltGrid w => .w3 0x38 3 w
  | .haltCtx w => .w3 0x38 3 w
  | .resumeGrid w => .w3 0x38 4 w
  | .resumeCtx w => .w3 0x38 4 w
  | .tret w => .w3 0x38 5 w
  | .ctxsv w => .w3 0x38 6 w
  | .ctxrs w => .w3 0x38 7 w
  | .errclr w => .w3 0x38 8 w
  | .errclrCo w => .w3 0x38 8 w
  | .knell w => .w3 0x38 9 w
  | .loadDataReturn _ => .step
  | .storeDrain _ => .step
  | .pageWalk _ => .step
  | .writeBlockRetry _ => .step
  | .registrationRequest _ => .step
  | .bankRead _ => .step
  | .bankAccess _ => .step
  | .forwardReply _ => .step
  | .releasePush _ => .step
  | .pushAcknowledge _ => .step
  | .sectionCacheWriteBack _ _ => .step
  | .llcFill _ _ => .step
  | .wayUnitDrain _ _ => .step
  | .correctableError _ _ => .step
  | .uncorrectableError _ _ => .step
  | .watchFire _ => .step
  | .waitmPoll _ => .step
  | .waitmLimitExpiry _ => .step
  | .commandDispatch _ => .step
  | .copyBeat _ => .step
  | .commandCompletion _ => .step
  | .weightLoadComplete _ => .step
  | .callReplyFetch _ => .step
  | .mmaRowsReady _ => .step
  | .fuseWaitExpiry _ => .step
  | .warpRotation _ => .step
  | .spinDemotion _ => .step
  | .watchdog _ => .step
  | .stallSample _ => .step
  | .gatedChimeWait _ _ _ => .step
  | .clusterAdmission _ => .step
  | .clusterStart _ => .step
  | .gridCompletion _ _ => .step
  | .engineStopPoint _ _ => .step
  | .rollCallComplete _ => .step
  | .preemptDelivery _ => .step
  | .quiescenceComplete _ _ => .step
  | .sliceExpiry _ => .step
  | .hostCompletionTimeout _ => .step
  | .partitionReset _ => .step
  | .engineReset _ => .step
  | .linkReset _ => .step
  | .linkRetrain _ _ _ => .step
  | .barRead _ _ _ _ => .step
  | .barWrite _ _ _ _ _ => .step
  | .contextHaltCmd _ => .step
  | .contextResumeCmd _ => .step
  | .contextAbortCmd _ => .step
  | .partitionHaltCmd _ => .step
  | .partitionResumeCmd _ => .step
  | .partitionAbortCmd _ => .step
  | .pcknell _ _ => .step
  | .vfFunctionLevelReset _ => .step
  | .partitionTableWrite _ _ => .step
  | .vfTableWrite _ _ => .step
  | .threadStart _ => .step
  | .llcmapWrite _ _ => .step
  | .registerWrite _ _ _ => .step
  | .portSend _ _ => .step
  | .fabricInbound _ _ => .step
  | .portRemoteAck _ _ => .step
  | .tlbinvCompletion _ => .step
  | .accessCounterIncrement => .step
  | .preemptLimitExpiry => .step
  | .knellDecision => .step
  | .knellRecompute => .step
  | .knellDeadline => .step
  | .powerGood => .step
  | .debugStop => .step
  | .attestationReport => .step
  | .pfFunctionLevelReset => .step
  | .illegalInstruction => .word
  | .standby => .step
  | .packageReset => .step
  | .clockAndVoltageChange => .step

/-- The control field that tells the forms of one function apart holds the instruction's own form. -/
def Instr.formOk (i : Instr) : Bool :=
  match i with
  | .fcvtFloat w => w.c.toNat / 64 == 0
  | .fcvtFromBinary8 w => w.c.toNat / 64 == 1
  | .fcvtToBinary8 w => w.c.toNat / 64 == 2
  | .regionInvalidate w => w.m.toNat == 0
  | .regionRewrite w => w.m.toNat != 0
  | .tlbinvRange w => w.m.toNat == 0
  | .tlbinvCtx w => w.m.toNat == 1
  | .tlbinvPart w => w.m.toNat == 2
  | .tlbinvAll w => w.m.toNat == 3
  | .haltGrid w => w.m.toNat == 0
  | .haltCtx w => w.m.toNat == 1
  | .resumeGrid w => w.m.toNat == 0
  | .resumeCtx w => w.m.toNat == 1
  | .errclr w => w.m.toNat == 0
  | .errclrCo w => w.m.toNat == 1
  | _ => true

/-- The word's bits [63] and [62:57] and its fn name no instruction (02 R50). -/
def unassigned (w : DWord) : Bool :=
  !w.getLsbD 63 &&
  match majorFmt (w.extractLsb' 57 6).toNat with
  | none => true
  | some .w3 => majorFns (w.extractLsb' 57 6).toNat ≤ (w.extractLsb' 9 7).toNat
  | some .wi => majorFns (w.extractLsb' 57 6).toNat ≤ (w.extractLsb' 36 5).toNat
  | some .wm => majorFns (w.extractLsb' 57 6).toNat ≤ (w.extractLsb' 28 4).toNat
  | some .wb => majorFns (w.extractLsb' 57 6).toNat ≤ (w.extractLsb' 42 4).toNat

/-- The fields are those the instruction admits, so its word decodes without a fault (02 R52). A hardware step has
no word and is not well-formed in this sense. -/
def Instr.wellFormed (i : Instr) : Bool :=
  i.formOk &&
  match i.fields with
  | .w3 major fn w => w3Ok major fn w
  | .wi major fn w => wiOk major fn w
  | .wm major fn w => wmOk major fn w
  | .wb _ fn w => wbOk fn w
  | .pair p => p.s0.ok && p.s1.ok && p.banksOk
  | .word => true
  | .step => false

end Sys2Proof
end

