-- ==== Sys2Proof/Machine/Fp.lean ====
section
/-! DEFINITION. Floating-point values, formats, rounding and status (03 R65 to R71; 10 R260 to R263), by exact
dyadic arithmetic: every finite value is `man * 2^exp`, and every operation rounds its exact result once. -/

namespace Sys2Proof.Machine

/-- Status bits of %fexc (03 R67). -/
def stNV : Nat := 1
def stDZ : Nat := 2
def stOF : Nat := 4
def stUF : Nat := 8
def stNX : Nat := 16

/-- A rounding mode (02 R43, 03 R70); stochastic carries its 32-bit draw (03 R71). -/
inductive Rnd where
  | rne | rtz | rup | rdn | rna
  | sr (draw : Nat)
  deriving DecidableEq, Repr

/-- A floating-point value: NaN (signalling or quiet), an infinity, or `±man * 2^exp`. -/
inductive FVal where
  | nan (signalling : Bool)
  | inf (neg : Bool)
  | fin (neg : Bool) (man : Nat) (exp : Int)
  deriving DecidableEq, Repr

/-- A binary format by its magnitude codes, which rise with the magnitude: `t` trailing bits, the exponent `qmin`
of the least quantum, the largest finite code, and the codes of ∞ (none in some binary8 formats), NaN and the sign bit. -/
structure Fmt where
  t : Nat
  qmin : Int
  maxCode : Nat
  infCode : Option Nat
  nanCode : Nat
  signBit : Nat
  deriving DecidableEq, Repr

/-- 03 R65, R66. -/
def fmtF64 : Fmt := ⟨52, -1074, 0x7FEFFFFFFFFFFFFF, some 0x7FF0000000000000, 0x7FF8000000000000, 63⟩
def fmtF32 : Fmt := ⟨23, -149, 0x7F7FFFFF, some 0x7F800000, 0x7FC00000, 31⟩
def fmtF16 : Fmt := ⟨10, -24, 0x7BFF, some 0x7C00, 0x7E00, 15⟩
def fmtBf16 : Fmt := ⟨7, -133, 0x7F7F, some 0x7F80, 0x7FC0, 15⟩

/-- The format of one element of a floating-point register type (02 R40). -/
def fmtOf (t : Ty) : Fmt :=
  match t with
  | .f64 => fmtF64
  | .f16 | .f16x2 => fmtF16
  | .bf16 | .bf16x2 => fmtBf16
  | _ => fmtF32

/-- The width of a format's code in bits. -/
def Fmt.width (f : Fmt) : Nat := f.signBit + 1

/-- The value of an IEEE code (03 R65). -/
def decodeIeee (f : Fmt) (code : Nat) : FVal :=
  let neg := bitN code f.signBit
  let mag := code % 2 ^ f.signBit
  let inf := f.infCode.getD (f.maxCode + 1)
  if mag > inf then .nan (!bitN code (f.t - 1))
  else if mag == inf then .inf neg
  else
    let e := mag / 2 ^ f.t
    let m := mag % 2 ^ f.t
    if e == 0 then .fin neg m f.qmin else .fin neg (m + 2 ^ f.t) (f.qmin + (e : Int) - 1)

/-- Whether the neighbour of larger magnitude is taken, for a remainder `rem` of `2^s` above a smaller neighbour of
parity `odd` (03 R70, R71): `rem` is not 0. -/
def roundsUp (m : Rnd) (neg odd : Bool) (rem s : Nat) : Bool :=
  match m with
  | .rne => 2 ^ s < 2 * rem || (2 ^ s == 2 * rem && odd)
  | .rtz => false
  | .rup => !neg
  | .rdn => neg
  | .rna => 2 ^ s ≤ 2 * rem
  | .sr r =>
    if neg then !(r < (2 ^ s - rem) * 2 ^ 32 / 2 ^ s) else r < rem * 2 ^ 32 / 2 ^ s

/-- A magnitude rounded to precision `t + 1` with no quantum below `2^qmin` (or none at all for `none`) and no upper
bound: its significand, quantum exponent, and whether it is inexact (03 R70). At a tie of rne between two normal
neighbours of a precision-1 format neither last bit is even, and which one is taken is free. (DESIGN CHOICE,
notes/assumptions/19.md.) -/
def roundMag (m : Rnd) (neg : Bool) (t : Nat) (qmin : Option Int) (man : Nat) (exp : Int) : Nat × Int × Bool :=
  if man == 0 then (0, qmin.getD exp, false)
  else
    let q0 : Int := exp + (man.log2 : Int) - t
    let q := match qmin with
      | some k => if q0 < k then k else q0
      | none => q0
    if q ≤ exp then (man * 2 ^ (exp - q).toNat, q, false)
    else
      let s := (q - exp).toNat
      let lo := man / 2 ^ s
      let rem := man % 2 ^ s
      if rem == 0 then (lo, q, false)
      else (if roundsUp m neg (if t == 0 && lo == 1 then Config.oddOne q else lo % 2 == 1) rem s then lo + 1 else lo, q, true)

/-- The magnitude code of `man * 2^q`, where `man ≤ 2^(t+1)` and `q` is its quantum: codes above the largest finite
one mean overflow. -/
def Fmt.codeOf (f : Fmt) (man : Nat) (q : Int) : Nat :=
  if man == 0 then 0 else (q - f.qmin).toNat * 2 ^ f.t + man

/-- The rounded magnitude is tiny after rounding: below the smallest normal with the precision kept (03 R67). -/
def tinyAfter (f : Fmt) (m : Rnd) (neg : Bool) (man : Nat) (exp : Int) : Bool :=
  let r := roundMag m neg f.t none man exp
  r.1 != 0 && r.2.1 + (r.1.log2 : Int) < f.qmin + f.t

/-- A code with its sign. -/
def Fmt.signed (f : Fmt) (neg : Bool) (mag : Nat) : Nat := if neg then mag + 2 ^ f.signBit else mag

/-- What overflow delivers under a mode (03 R67). -/
def Fmt.overflow (f : Fmt) (m : Rnd) (neg : Bool) : Nat :=
  let inf := f.infCode.getD f.maxCode
  f.signed neg (match m with
    | .rne | .rna | .sr _ => inf
    | .rtz => f.maxCode
    | .rup => if neg then f.maxCode else inf
    | .rdn => if neg then inf else f.maxCode)

/-- A finite value rounded once into an IEEE format, with its status (03 R67, R70).
(DEDUCED, notes/assumptions/23.md.) -/
def roundFin (f : Fmt) (m : Rnd) (neg : Bool) (man : Nat) (exp : Int) : Nat × Nat :=
  let (rm, q, ix) := roundMag m neg f.t (some f.qmin) man exp
  let c := f.codeOf rm q
  if c > f.maxCode then (f.overflow m neg, stOF + stNX)
  else (f.signed neg c, if ix then (if tinyAfter f m neg man exp then stUF + stNX else stNX) else 0)

/-- Any value rounded into an IEEE format. A NaN gives the canonical NaN (03 R66). -/
def roundVal (f : Fmt) (m : Rnd) (x : FVal) : Nat × Nat :=
  match x with
  | .nan sg => (f.nanCode, if sg then stNV else 0)
  | .inf neg => (f.signed neg (f.infCode.getD f.maxCode), 0)
  | .fin neg man exp => roundFin f m neg man exp

/-- The signed significand of a dyadic value. -/
def sman (neg : Bool) (man : Nat) : Int := if neg then -(man : Int) else man

/-- Whether either operand is a signalling NaN. -/
def FVal.signals (x : FVal) : Bool := x == .nan true

def FVal.isNan (x : FVal) : Bool :=
  match x with
  | .nan _ => true
  | _ => false

def FVal.isInf (x : FVal) : Bool :=
  match x with
  | .inf _ => true
  | _ => false

def FVal.isZero (x : FVal) : Bool :=
  match x with
  | .fin _ m _ => m == 0
  | _ => false

def FVal.neg (x : FVal) : Bool :=
  match x with
  | .nan _ => false
  | .inf n => n
  | .fin n _ _ => n

/-- −x; a NaN stays. -/
def FVal.negate (x : FVal) : FVal :=
  match x with
  | .nan s => .nan s
  | .inf n => .inf (!n)
  | .fin n m e => .fin (!n) m e

/-- The mode is rdn: an exact zero sum is −0 (10 R261). -/
def Rnd.zeroNeg (m : Rnd) : Bool := m == .rdn

/-- The exact sum of two finite values; an exact zero of opposite signs takes the mode's sign (10 R261). -/
def addFin (m : Rnd) (n1 : Bool) (m1 : Nat) (e1 : Int) (n2 : Bool) (m2 : Nat) (e2 : Int) : FVal :=
  let e := min e1 e2
  let s := sman n1 (m1 * 2 ^ (e1 - e).toNat) + sman n2 (m2 * 2 ^ (e2 - e).toNat)
  if s == 0 then .fin (if n1 == n2 then n1 else m.zeroNeg) 0 e
  else .fin (s < 0) s.natAbs e

/-- x + y exactly, before rounding, with the invalid status (10 R261). -/
def addVal (m : Rnd) (x y : FVal) : FVal × Nat :=
  match x, y with
  | .nan a, y => (.nan false, if a || y.signals then stNV else 0)
  | _, .nan b => (.nan false, if b then stNV else 0)
  | .inf a, .inf b => if a == b then (.inf a, 0) else (.nan false, stNV)
  | .inf a, .fin .. => (.inf a, 0)
  | .fin .., .inf b => (.inf b, 0)
  | .fin n1 m1 e1, .fin n2 m2 e2 => (addFin m n1 m1 e1 n2 m2 e2, 0)

/-- x * y exactly, with the invalid status (10 R261). -/
def mulVal (x y : FVal) : FVal × Nat :=
  match x, y with
  | .nan a, y => (.nan false, if a || y.signals then stNV else 0)
  | _, .nan b => (.nan false, if b then stNV else 0)
  | .inf a, .inf b => (.inf (a != b), 0)
  | .inf a, .fin n m _ => if m == 0 then (.nan false, stNV) else (.inf (a != n), 0)
  | .fin n m _, .inf b => if m == 0 then (.nan false, stNV) else (.inf (n != b), 0)
  | .fin n1 m1 e1, .fin n2 m2 e2 => (.fin (n1 != n2) (m1 * m2) (e1 + e2), 0)

/-- A result rounded once: its code and its whole status. -/
def rounded (f : Fmt) (m : Rnd) (r : FVal × Nat) : Nat × Nat :=
  let q := roundVal f m r.1
  (q.1, r.2 ||| q.2)

/-- fadd, fsub, fmul (10 R261). -/
def fpAdd (f : Fmt) (m : Rnd) (x y : Nat) : Nat × Nat :=
  rounded f m (addVal m (decodeIeee f x) (decodeIeee f y))

def fpSub (f : Fmt) (m : Rnd) (x y : Nat) : Nat × Nat :=
  rounded f m (addVal m (decodeIeee f x) (decodeIeee f y).negate)

def fpMul (f : Fmt) (m : Rnd) (x y : Nat) : Nat × Nat :=
  rounded f m (mulVal (decodeIeee f x) (decodeIeee f y))

/-- ffma: the exact product and sum, one rounding; 0 × ∞ sets NV whatever z holds (10 R261). -/
def fpFma (f : Fmt) (m : Rnd) (x y z : Nat) : Nat × Nat :=
  let p := mulVal (decodeIeee f x) (decodeIeee f y)
  let s := addVal m p.1 (decodeIeee f z)
  rounded f m (s.1, p.2 ||| s.2)

/-- frnd: the integral value in x's format; a zero result keeps x's sign, NX when it differs (10 R261). -/
def fpRnd (f : Fmt) (m : Rnd) (x : Nat) : Nat × Nat :=
  match decodeIeee f x with
  | .nan sg => (f.nanCode, if sg then stNV else 0)
  | .inf _ => (x % 2 ^ f.width, 0)
  | .fin neg man exp =>
    if 0 ≤ exp || man == 0 then (x % 2 ^ f.width, 0)
    else
      let s := (-exp).toNat
      let lo := man / 2 ^ s
      let rem := man % 2 ^ s
      if rem == 0 then (x % 2 ^ f.width, 0)
      else
        let r := if roundsUp m neg (lo % 2 == 1) rem s then lo + 1 else lo
        ((roundFin f .rtz neg r 0).1, stNX)

/-- A 32-bit exponent brought into −5000 to 5000, beyond which every format of the Q9 overflows or underflows alike. -/
def clampExp (n : Int) : Int := max (-5000) (min 5000 n)

/-- fscal: x * 2^n rounded once; infinities and zeros unchanged (10 R261). -/
def fpScal (f : Fmt) (m : Rnd) (x : Nat) (n : Int) : Nat × Nat :=
  match decodeIeee f x with
  | .nan sg => (f.nanCode, if sg then stNV else 0)
  | .inf _ => (x % 2 ^ f.width, 0)
  | .fin neg man exp =>
    if man == 0 then (x % 2 ^ f.width, 0) else roundFin f m neg man (exp + clampExp n)

/-- x < y over the ordered values, −0 and +0 equal. -/
def FVal.lt (x y : FVal) : Bool :=
  match x, y with
  | .nan _, _ => false
  | _, .nan _ => false
  | .inf a, .inf b => a && !b
  | .inf a, .fin .. => a
  | .fin .., .inf b => !b
  | .fin n1 m1 e1, .fin n2 m2 e2 =>
    let e := min e1 e2
    sman n1 (m1 * 2 ^ (e1 - e).toNat) < sman n2 (m2 * 2 ^ (e2 - e).toNat)

/-- fmin and fmax: −0 below +0, a lone NaN gives the other operand (10 R262). -/
def fpMinMax (f : Fmt) (isMax : Bool) (x y : Nat) : Nat × Nat :=
  let a := decodeIeee f x
  let b := decodeIeee f y
  let st := if a.signals || b.signals then stNV else 0
  let x := x % 2 ^ f.width
  let y := y % 2 ^ f.width
  if a.isNan && b.isNan then (f.nanCode, st)
  else if a.isNan then (y, st)
  else if b.isNan then (x, st)
  else
    let less := if a.isZero && b.isZero then a.neg && !b.neg else a.lt b
    let more := if a.isZero && b.isZero then b.neg && !a.neg else b.lt a
    if isMax then (if less then y else x, st) else (if more then y else x, st)

/-- A condition code over "less" and "equal" (02 R43). -/
def condHolds (code : Nat) (lt eq : Bool) : Bool :=
  match code with
  | 0 => eq
  | 1 => !eq
  | 2 => lt
  | 3 => lt || eq
  | 4 => !(lt || eq)
  | _ => !lt

/-- fcmp (10 R262). -/
def fpCmp (f : Fmt) (cond : Nat) (x y : Nat) : Bool × Nat :=
  let a := decodeIeee f x
  let b := decodeIeee f y
  if a.isNan || b.isNan then
    (cond == 1, if a.signals || b.signals || 2 ≤ cond then stNV else 0)
  else (condHolds cond (a.lt b) (!a.lt b && !b.lt a), 0)

/-- fclass: one bit of the mask (10 R262). -/
def fpClass (f : Fmt) (x : Nat) : Nat :=
  match decodeIeee f x with
  | .nan sg => if sg then 2 ^ 8 else 2 ^ 9
  | .inf neg => if neg then 2 ^ 0 else 2 ^ 7
  | .fin neg man _ =>
    if man == 0 then (if neg then 2 ^ 3 else 2 ^ 4)
    else if man < 2 ^ f.t then (if neg then 2 ^ 2 else 2 ^ 5)
    else if neg then 2 ^ 1 else 2 ^ 6

/-- fabs, fneg and fcopys act on the sign bit alone (10 R263). -/
def fpAbs (f : Fmt) (x : Nat) : Nat := x % 2 ^ f.signBit
def fpNeg (f : Fmt) (x : Nat) : Nat := f.signed (!bitN x f.signBit) (x % 2 ^ f.signBit)
def fpCopys (f : Fmt) (x y : Nat) : Nat := f.signed (bitN y f.signBit) (x % 2 ^ f.signBit)

/-- A value rounded to an integer in a mode: the integer and whether it is inexact (10 R266). -/
def roundInt (m : Rnd) (neg : Bool) (man : Nat) (exp : Int) : Int × Bool :=
  if 0 ≤ exp then (sman neg (man * 2 ^ exp.toNat), false)
  else
    let s := (-exp).toNat
    let lo := man / 2 ^ s
    let rem := man % 2 ^ s
    if rem == 0 then (sman neg lo, false)
    else (sman neg (if roundsUp m neg (lo % 2 == 1) rem s then lo + 1 else lo), true)

/-- A value converted to an integer range: saturation and NaN set NV, an inexact result NX (03 R77, 10 R266). -/
def toIntRange (m : Rnd) (lo hi : Int) (x : FVal) : Int × Nat :=
  match x with
  | .nan _ => (0, stNV)
  | .inf neg => (if neg then lo else hi, stNV)
  | .fin neg man exp =>
    let (i, ix) := roundInt m neg man exp
    if i < lo then (lo, stNV) else if hi < i then (hi, stNV) else (i, if ix then stNX else 0)

/-- The exact value of an integer. -/
def ofInt (i : Int) : FVal := .fin (i < 0) i.natAbs 0

/-- A conversion between two IEEE formats (10 R265). -/
def fpConvert (src dst : Fmt) (m : Rnd) (x : Nat) : Nat × Nat := roundVal dst m (decodeIeee src x)

end Sys2Proof.Machine
end

