-- ==== Sys2Proof/Machine/Binary8.lean ====
section
/-! DEFINITION. The 8-bit formats and the block scale (03 R72 to R80). -/

namespace Sys2Proof.Machine

/-- The fields of a 6-bit format code (03 R72). -/
def f8Unsigned (c : Nat) : Bool := bitN c 5
def f8Inf (c : Nat) : Bool := bitN c 4
def f8Prec (c : Nat) : Nat := c % 8

/-- The code names an 8-bit integer format (03 R72). -/
def f8IsInt (c : Nat) : Bool := f8Prec c == 0

/-- The floating-point format of a code, by its magnitude codes (03 R74, R75). -/
def fmt8 (c : Nat) : Fmt :=
  let t := f8Prec c - 1
  if f8Unsigned c then
    ⟨t, 1 - ((2 ^ (8 - f8Prec c) : Nat) : Int) - t, if f8Inf c then 0xFD else 0xFE,
      if f8Inf c then some 0xFE else none, 0xFF, 8⟩
  else
    ⟨t, 1 - ((2 ^ (7 - f8Prec c) : Nat) : Int) - t, if f8Inf c then 0x7E else 0x7F,
      if f8Inf c then some 0x7F else none, 0x80, 7⟩

/-- The value of an 8-bit code (03 R74, R77): the NaN code is quiet. -/
def decode8 (c : Nat) (code : Nat) : FVal :=
  if f8IsInt c then ofInt (if f8Unsigned c || code < 128 then code else (code : Int) - 256)
  else
    let f := fmt8 c
    if code == f.nanCode then .nan false
    else
      let neg := bitN code f.signBit
      let mag := code % 2 ^ f.signBit
      if some mag == f.infCode then .inf neg
      else
        let e := mag / 2 ^ f.t
        let m := mag % 2 ^ f.t
        if e == 0 then .fin neg m f.qmin else .fin neg (m + 2 ^ f.t) (f.qmin + (e : Int) - 1)

/-- A sign on an 8-bit magnitude code: zero has a single code (03 R76). -/
def sign8 (f : Fmt) (neg : Bool) (mag : Nat) : Nat := if neg && mag != 0 then mag + 2 ^ f.signBit else mag

/-- A finite value converted into an 8-bit floating-point format (03 R76). -/
def fin8 (f : Fmt) (m : Rnd) (neg : Bool) (man : Nat) (exp : Int) : Nat × Nat :=
  let (rm, q, ix) := roundMag m neg f.t (some f.qmin) man exp
  let c := f.codeOf rm q
  if c > f.maxCode then (sign8 f neg f.maxCode, stOF + stNX)
  else (sign8 f neg c,
    if !ix then 0 else if c == 0 || c < 2 ^ f.t || tinyAfter f m neg man exp then stUF + stNX else stNX)

/-- A value converted into an 8-bit format in a mode (03 R76, R77). -/
def encode8 (c : Nat) (m : Rnd) (x : FVal) : Nat × Nat :=
  if f8IsInt c then
    let r := if f8Unsigned c then toIntRange m 0 255 x else toIntRange m (-128) 127 x
    ((r.1 % 256).toNat, r.2)
  else
    let f := fmt8 c
    match x with
    | .nan sg => (f.nanCode, if sg then stNV else 0)
    | .inf neg =>
      if f8Unsigned c && neg then (0, stNV)
      else match f.infCode with
        | some k => (sign8 f neg k, 0)
        | none => (sign8 f neg f.maxCode, stOF)
    | .fin neg man exp =>
      if man == 0 then (0, 0)
      else if f8Unsigned c && neg then (0, stNV)
      else fin8 f m neg man exp

/-- A value times 2^k, exactly; NaN and infinities keep their identity (03 R78). -/
def scaleBy (x : FVal) (k : Int) : FVal :=
  match x with
  | .fin n m e => .fin n m (e + k)
  | v => v

/-- The value of a scale byte (03 R78). -/
def scaleOf (b : Nat) : Int := if b < 128 then b else (b : Int) - 256

/-- An element read back with its block's scale: +0 in a zero block (03 R78). (DEDUCED, notes/assumptions/33.md.) -/
def readScaled (c : Nat) (code scale : Nat) : FVal :=
  if scaleOf scale == -128 then .fin false 0 0 else scaleBy (decode8 c code) (scaleOf scale)

/-- The number of elements of a block (03 R79). -/
def blockSize (geom : Nat) : Nat := 16 * 2 ^ geom

/-- The value of a finite element over the quantum `2^e`. -/
def finOver (x : FVal) (e : Int) : Option Int :=
  match x with
  | .fin n m k => some (sman n (m * 2 ^ (k - e).toNat))
  | _ => none

/-- The least exponent of the finite elements. -/
def leastExp (xs : List FVal) : Int :=
  xs.foldl (fun e x => match x with
    | .fin _ _ k => min e k
    | _ => e) 0

/-- The block fits under the scale `k` (03 R80.3); `mags` are the elements that count, over `2^e`. -/
def fitsScale (c : Nat) (m : Rnd) (e : Int) (big low : Int) (k : Int) : Bool :=
  if f8IsInt c then
    let r (i : Int) : Int := (roundInt m (i < 0) i.natAbs (e - k)).1
    if f8Unsigned c then r big ≤ 255 else r big ≤ 127 && -128 ≤ r low
  else
    let f := fmt8 c
    let (rm, q, _) := roundMag m false f.t (some f.qmin) big.natAbs (e - k)
    f.codeOf rm q ≤ f.maxCode

/-- The first of `n` scales from `k` up that fits, else 127 (03 R80.3). -/
def firstFit (fits : Int → Bool) (k : Int) : Nat → Int
  | 0 => 127
  | n + 1 => if fits k then k else firstFit fits (k + 1) n

/-- The canonical scale of a block (03 R80). -/
def canonicalScale (c : Nat) (m : Rnd) (xs : List FVal) : Int :=
  if xs.all FVal.isZero then -128
  else
    let e := leastExp xs
    let fins := xs.filterMap (finOver · e)
    let counts := fins.filter (fun i => i != 0 && (!f8Unsigned c || 0 < i))
    if counts.isEmpty then 0
    else
      let big := if f8IsInt c then fins.foldl max (fins.headD 0)
                 else counts.foldl (fun a i => max a (i.natAbs : Int)) 0
      let low := fins.foldl min (fins.headD 0)
      firstFit (fitsScale c m e big low) (-127) 255

/-- The byte of a scale. -/
def scaleByte (k : Int) : Nat := (k % 256).toNat

end Sys2Proof.Machine
end

