-- ==== Sys2Proof/Machine/Store.lean ====
section
/-! DEFINITION. Sparse stores: lists of key and value pairs in one canonical form, keys strictly rising and no
entry equal to what an unlisted key reads as. Memory is the store of bytes whose unlisted value is 0. -/

namespace Sys2Proof.Machine

/-- A sparse store; in canonical form its keys rise strictly. -/
abbrev SMap (α : Type) := List (Nat × α)

/-- The entry of a key. -/
def SMap.find {α : Type} : SMap α → Nat → Option α
  | [], _ => none
  | (k, v) :: m, i => if i = k then some v else SMap.find m i

/-- The value of a key, `d` where none is listed. -/
def SMap.get {α : Type} (d : α) (m : SMap α) (i : Nat) : α := (SMap.find m i).getD d

/-- The store without a key. -/
def SMap.erase {α : Type} : SMap α → Nat → SMap α
  | [], _ => []
  | (k, v) :: m, i => if i = k then SMap.erase m i else (k, v) :: SMap.erase m i

/-- The store with a key's entry set. -/
def SMap.set {α : Type} : SMap α → Nat → α → SMap α
  | [], i, x => [(i, x)]
  | (k, v) :: m, i, x =>
    if i < k then (i, x) :: (k, v) :: m else if i = k then (i, x) :: m else (k, v) :: SMap.set m i x

/-- The store with a key's value set, unlisted where it is the default. -/
def SMap.put {α : Type} [DecidableEq α] (d : α) (m : SMap α) (i : Nat) (x : α) : SMap α :=
  if x = d then SMap.erase m i else SMap.set m i x

/-- The store without the keys a test holds of. -/
def SMap.drop {α : Type} (m : SMap α) (p : Nat → Bool) : SMap α := m.filter (fun e => !p e.1)

/-- Every entry changed, its key kept. -/
def SMap.mapV {α : Type} (f : α → α) (m : SMap α) : SMap α := m.map (fun e => (e.1, f e.2))

/-- The entry of a key changed, where it is listed. -/
def SMap.modify {α : Type} (m : SMap α) (i : Nat) (f : α → α) : SMap α := m.map (fun e => if e.1 = i then (e.1, f e.2) else e)

/-- Some entry satisfies a test. -/
def SMap.anyV {α : Type} (p : α → Bool) (m : SMap α) : Bool := m.any (fun e => p e.2)

/-- The entries a test picks. -/
def SMap.pick {α : Type} (p : Nat → α → Bool) (m : SMap α) : SMap α := m.filter (fun e => p e.1 e.2)

/-- The keys of the entries a test picks. -/
def SMap.keysOf {α : Type} (p : α → Bool) (m : SMap α) : List Nat := (m.filter (fun e => p e.2)).map (·.1)

/-- The keys of a store. -/
def SMap.keys {α : Type} (m : SMap α) : List Nat := m.map (·.1)

/-- Every entry of one store set in another, under a changed key and value. -/
def SMap.putAll {α β : Type} (m : SMap β) (saved : SMap α) (key : Nat → Nat) (val : α → β) : SMap β :=
  saved.foldl (fun m e => SMap.set m (key e.1) (val e.2)) m

/-- Keys rise strictly above a bound. -/
def SMap.rising {α : Type} (lo : Nat) : SMap α → Bool
  | [] => true
  | (k, _) :: m => lo ≤ k && SMap.rising (k + 1) m

/-- The canonical form: keys strictly rising, no entry equal to the default. -/
def SMap.wf {α : Type} [DecidableEq α] (d : α) (m : SMap α) : Bool :=
  SMap.rising 0 m && m.all (fun e => e.2 ≠ d)

/-- Memory: bytes by byte key; an unlisted byte reads as 0 (notes/assumptions/2.md). -/
abbrev Memory := SMap Byte

/-- The canonical form of memory. (DESIGN CHOICE, notes/assumptions/2.md.) -/
abbrev Memory.wf (m : Memory) : Bool := SMap.wf (0 : Byte) m

/-- One byte of memory. (DESIGN CHOICE, notes/assumptions/2.md.) -/
def Memory.byte (m : Memory) (a : Nat) : Byte := SMap.get 0 m a

/-- Memory with one byte written. -/
def Memory.setByte (m : Memory) (a : Nat) (b : Byte) : Memory := SMap.put 0 m a b

/-- The aligned word number `w`: bytes 4w to 4w + 3, little-endian (00 R3). -/
def Memory.word (m : Memory) (w : Nat) : Word :=
  m.byte (4 * w + 3) ++ m.byte (4 * w + 2) ++ m.byte (4 * w + 1) ++ m.byte (4 * w)

/-- Memory with an aligned word written. -/
def Memory.setWord (m : Memory) (w : Nat) (x : Word) : Memory :=
  (((m.setByte (4 * w) (x.setWidth 8)).setByte (4 * w + 1) ((x >>> 8).setWidth 8)).setByte (4 * w + 2)
    ((x >>> 16).setWidth 8)).setByte (4 * w + 3) ((x >>> 24).setWidth 8)

/-- Memory with consecutive words written from word `w` up. -/
def Memory.setWords (m : Memory) (w : Nat) : List Word → Memory
  | [] => m
  | x :: xs => (m.setWord w x).setWords (w + 1) xs

end Sys2Proof.Machine
end

