-- ==== Sys2Proof/Machine/State.lean ====
section
/-! DEFINITION. The state of the Q9 as plain data: everything the spec gives the machine (INVENTORY.md, State), and
the model's own fields that say whose turn it is. -/

namespace Sys2Proof.Machine

/-- Ground states a step can stop with: none of the Q9's behaviours does. Raised by no meaning. -/
inductive Fault where
  /-- Raised by nothing: the Q9's faults are next states (14 R347 to R361). Safe. -/
  | none
  deriving DecidableEq, Repr

/-- Why the model has no meaning for a step. -/
inductive Refusal where
  /-- Raised by an arm of exec that is not modelled yet. Safe. -/
  | notModelled (mnemonic : String)
  deriving DecidableEq, Repr

/-- Privilege levels (01 R27). -/
inductive Level where
  | user | supervisor | vendor
  deriving DecidableEq, Repr

/-- What executes words (01 R16, R27): numbers are the package's. -/
inductive AgentKind where
  | warp (core slot : Nat)
  | conductor (n : Nat)
  | management
  deriving DecidableEq, Repr

/-- The condition of a thread (11 R275). -/
inductive ThreadSt where
  | runnable | atMeet | atLoop | exited
  deriving DecidableEq, Repr

/-- A thread: frame position, program counter, %meet and condition (09 R228, 11 R275). -/
structure Thread where
  pos : Nat := 0
  pc : DWord := 0
  meet : Word := 0xFFFFFFFF
  st : ThreadSt := .runnable
  deriving DecidableEq, Repr

/-- An active loop level: start and end addresses (11 R284). -/
structure Loop where
  start : DWord
  stop : DWord
  again : Bool := false           -- an iteration after the first: the body is in the loop buffer (11 R288)
  deriving DecidableEq, Repr

/-- A join of 06 R156: the scope of the operation, its destination mask, and the owner whose scope it is. -/
structure Join where
  scope : Nat
  mask : Nat
  core : Nat
  deriving DecidableEq, Repr

/-- A tag bitmap with its outstanding counts and the joins of each tag (08 R211, R212). -/
structure TagSet where
  bits : DWord := 0
  counts : SMap Nat := []
  joins : SMap (List Join) := []
  deriving DecidableEq, Repr

/-- A command's place in a status queue: its status word once it has completed (08 R209). -/
structure QueueEntry where
  cmd : Nat
  word : Option Word := none
  join : Join := ⟨0, 0, 0⟩
  deriving DecidableEq, Repr

/-- A status queue in command order, with the LOST mark and the last issue number (08 R209). -/
structure StatusQueue where
  entries : List QueueEntry := []
  lost : Bool := false
  seq : Nat := 0
  deriving DecidableEq, Repr

/-- A pending call at a frame position (08 R218, R221): the index of its record and the reply once read. -/
structure Call where
  pos : Nat
  record : Nat
  seq : Word
  cancelled : Bool := false
  reply : Option Word := none
  deriving DecidableEq, Repr

/-- A pending register write and the address of its word (09 R231, 16 R408). -/
structure Pend where
  row : Nat
  pc : DWord
  req : Nat
  deriving DecidableEq, Repr

/-- What a parked word waits for (11 R279). -/
inductive Wait where
  | retry                          -- its condition is tested again when it issues again
  | lock                           -- the pair lock (09 R227)
  | walk (w : Nat)                 -- a translation walk (04 R111)
  | release (r : Nat)              -- a release (06 R152)
  | writeBlock (page : Nat)        -- a page with WB = 1 (04 R118)
  | word (key : Nat) (watch : Bool) -- waitm and chwait (07 R196, R197)
  | fuse (d : Nat)                 -- a fuse partner, with the register its code goes to (09 R239)
  | reg (n : Nat)                  -- a pending register write, by its access (09 R231; 13 R342)
  | op (n : Nat)                   -- an operation of the package: tlbinv, a save
  deriving DecidableEq, Repr

/-- A parked word: its address, what it waits for, since when, and its limit in ticks (0: none).
(DESIGN CHOICE, notes/assumptions/75.md.) -/
structure Park where
  pc : DWord
  wait : Wait
  since : Nat := 0
  limit : Nat := 0
  t0 : Nat := 0                   -- when the word first executed
  begun : Bool := true            -- the word has begun, as against a wait before its issue
  fired : Bool := false            -- its watch has fired, or its poll or limit has come
  ready : Bool := false            -- what its word tests again holds now (13 R342)
  lanes : List Nat := []           -- the lanes of the group that parked
  done : Bool := false
  deriving DecidableEq, Repr

/-- A warp's place in its core's scheduler (13 R342). -/
inductive SchedSet where
  | pending | active | parked
  deriving DecidableEq, Repr

/-- Why work does not issue (14 R354 reason codes). -/
inductive HaltMark where
  | none | stop | slice | knell | halt
  deriving DecidableEq, Repr

/-- A translation fault found by a walk, for its requester (04 R116): code, detail and page. -/
structure XFault where
  page : Nat
  code : Nat
  detail : Nat
  deriving DecidableEq, Repr

/-- A late fault that a conductor thread takes before its next word (05 R140; 14 R361). -/
structure LateTrap where
  info : Word
  pc : DWord                      -- the word it is charged to
  addr : DWord
  deriving DecidableEq, Repr

/-- An agent: a warp, a conductor thread or the management core, with everything the spec holds for it.
(DESIGN CHOICE, notes/assumptions/4.md.) -/
structure Agent where
  kind : AgentKind := .management
  level : Level := .user
  width : Nat := 1
  frame : Nat := 0
  base : Nat := 0                 -- POS (09 R229)
  part : Nat := 0
  ctx : Nat := 0
  grid : Nat := 0                 -- handle of its grid, 0 for none
  cluster : Nat := 0              -- key of its cluster's record
  launchIx : Nat := 0
  pairGroup : Nat := 0
  regB : Nat := 256               -- B (09 R224)
  regE : Nat := 0                 -- E
  codeBase : DWord := 0           -- the base of %meet and %trapvec (11 R277, 14 R350)
  threads : List Thread := []
  lc0 : Word := 0
  lc1 : Word := 0
  lc2 : Word := 0
  loops : List Loop := []         -- outermost first; the depth is the length
  rngKey : DWord := 0
  rngCtr : DWord := 0
  repro : Word := 0
  fpmode : Word := 0
  iexc : Word := 0
  fexc : Word := 0
  racemode : Word := 1
  trapvec : Word := 0
  trapinfo : Word := 0
  shp0 : Word := 0
  shp1 : Word := 0
  shp2 : Word := 0
  shp3 : Word := 0
  xqctl : DWord := 0
  xqpc : DWord := 0
  xqarg : DWord := 0
  xtepc : DWord := 0
  xtaddr : DWord := 0
  xtstat : DWord := 0
  tags : TagSet := {}             -- a conductor thread's own
  queues : List StatusQueue := [{}, {}, {}, {}]
  calls : List Call := []
  pend : List Pend := []
  parks : List Park := []
  sched : SchedSet := .pending
  entered : Nat := 0              -- order of entering the active set
  readySince : Nat := 0
  spinning : Bool := false
  sinceSpin : Nat := 0            -- words issued since the last spin
  quiet : Option Nat := none      -- the tick of its last spin, whose next word issues in column 17 (11 R294)
  lastLanes : List Nat := []      -- the lanes of the group that issued last, and how often in a row (11 R276)
  inRow : Nat := 0
  yielded : Bool := false         -- the last word was a yield (11 R294)
  halted : HaltMark := .none
  cache : List Nat := []          -- the register cache, latest first (09 R233)
  fetched : SMap DWord := []      -- words a conductor thread has fetched since its last acquire (02 R31)
  late : Option LateTrap := none  -- a race charged to a thread that has still to complete its word (05 R140)
  xfaults : List XFault := []     -- what walks have found for it, by page
  lastIssue : Nat := 0            -- tick of the last issue (14 R357)
  heldSince : Option Nat := none  -- since when it is halted or set aside, which does not count for that (14 R357)
  preempt : Bool := false         -- PREEMPT is due (14 R359)
  deriving DecidableEq, Repr

/-- A resident cluster (13 R332 to R334). -/
structure Cluster where
  part : Nat := 0
  ctx : Nat := 0
  grid : Nat := 0
  index : Nat := 0
  core : Nat := 0
  group : Option Nat := none      -- section group of a section-placed cluster
  ctxPos : Nat := 0               -- context position on the core (12 R295)
  frames : List Nat := []
  slots : List Nat := []          -- the slot grant
  warps : Nat := 1
  width : Nat := 16
  regB : Nat := 16
  regE : Nat := 0
  scratch : Nat := 0              -- bytes
  acc : Nat := 0
  started : Bool := false
  ended : Bool := false           -- its warps have ended; only its scratchpad is held (07 R172)
  tags : TagSet := {}
  deriving DecidableEq, Repr

/-- The lock of a pair group (09 R225, R227): the slot that holds it and the parked warps' slots in order. -/
structure PairLock where
  holder : Option Nat := none
  waiters : List Nat := []
  deriving DecidableEq, Repr

/-- An accumulator element: anchor, flags and V (03 R81, R82). -/
structure Acc where
  anchor : Int := -128
  nan : Bool := false
  pinf : Bool := false
  ninf : Bool := false
  x : Bool := false
  v : Int := 0
  poison : Bool := false
  deriving DecidableEq, Repr

/-- A matrix unit that a halt, a slice or a knell stops at the end of its mma: the record that it writes then
(14 R352, R354). -/
structure StopDue where
  part : Nat
  num : Word
  grid : Nat
  ctx : Nat
  reason : Nat
  replays : Nat
  deriving DecidableEq, Repr

/-- A summary that is written once the last matrix unit of its stop has stopped (14 R355, R364). -/
structure RollDue where
  num : Word
  ctx : Nat
  reason : Nat
  acks : Nat
  deriving DecidableEq, Repr

/-- A running mma's rows, not ready until it finishes (12 R316): bank, tile and rows. -/
structure MmaTail where
  bank : Nat
  tile : Nat
  rows : List Nat
  agent : Nat
  deriving DecidableEq, Repr

/-- Detached work of a tail in the retirement tracker (13 R346): its accesses and commands. -/
structure Detached where
  part : Nat
  grid : Nat
  cluster : Nat
  reqs : List Nat
  cmds : List Nat
  deriving DecidableEq, Repr

/-- A core's own state beside its warps (12 R295, R299, R314; 13 R346). -/
structure Core where
  acc : SMap Acc := []            -- by bank, tile, row, column
  fixed : SMap Bool := []         -- row anchor mode, by bank, tile, row
  swapped : Bool := false         -- the banks' binding, exchanged by mbank (12 R320)
  ctxs : List (Option (Nat × Nat)) := [none, none] -- the contexts of positions 0 and 1
  weights : SMap Byte := []       -- by half and byte
  panels : SMap Nat := []         -- by half and unit: 1 + format (8-bit code, or 64 f16, 65 bf16)
  loader : List Nat := []         -- mldb commands in issue order
  left : List Nat := []           -- ended clusters whose scratchpad bytes no cluster has cleared yet (13 R334)
  mma : List MmaTail := []
  dues : List StopDue := []       -- stop records that the matrix unit has still to write
  tracker : List Detached := []
  sampleSlot : Nat := 0           -- the slot the next stall sample takes, and when the last was taken (16 R408)
  sampleTick : Nat := 0
  deriving DecidableEq, Repr

/-- Registration state of a word (05 R128): codes 0 to 4. -/
inductive Reg where
  | u | o | ol | r | p
  deriving DecidableEq, Repr

/-- A registered or poisoned word of a bank line: state, SEL, and whether an R word was reached through OL. -/
structure BankWord where
  st : Reg := .u
  sel : Bool := false
  viaOl : Bool := false
  cached : Bool := false          -- R: the cache took its data as a caught race was read (05 R133, R145)
  ctx : Nat := 0                  -- the context an O or OL word counts for (14 R368)
  deriving DecidableEq, Repr

/-- A line's two owner fields and its words that are not U (05 R128). -/
structure BankLine where
  own0 : Nat := 0x3FF
  own1 : Nat := 0x3FF
  words : SMap BankWord := []
  deriving DecidableEq, Repr

/-- A forward the bank waits for (05 R131, R135): the word and its owner. -/
structure Forward where
  word : Nat
  owner : Nat
  req : Nat                       -- the read it serves
  val : Word := 0                 -- the owner's data when it is asked
  deriving DecidableEq, Repr

/-- A clean word of an L1 or section cache with its line's tags (06 R163). -/
structure CleanWord where
  val : Word
  region : Nat
  part : Nat
  ctx : Nat
  deriving DecidableEq, Repr

/-- A line of an L1, a section cache or a conductor core: its tags and its clean words (06 R163). -/
structure CleanLine where
  region : Nat := 0
  part : Nat := 0
  ctx : Nat := 0
  words : SMap Word := []
  deriving DecidableEq, Repr

/-- An exact float sum (07 R190): the word's value when the entry was made, the element type, and for each element
its flags and its sum over the type's smallest subnormal. -/
structure ExactSum where
  v0 : Word
  ty : Nat
  sums : List Int
  nan : List Bool
  pinf : List Bool
  ninf : List Bool
  allNegZero : List Bool
  part : Nat
  grid : Nat
  deriving DecidableEq, Repr

/-- A counted request not yet applied to its leaf (04 R119). -/
structure CountInc where
  part : Nat
  ctx : Nat
  entry : Nat
  entryAt : Nat
  page : Nat
  size : Nat
  tick : Nat := 0                 -- when the request reached its bank
  line : Nat := 0                 -- the line that it asks for (17 R422)
  deriving DecidableEq, Repr

/-- The kinds of access in flight. -/
inductive AccKind where
  | load | ldnt | ldacq | lddec | store | stnt | strel
  | atomic (fn : Nat)             -- an ATOM function (07 R185)
  | chime                         -- chset and chclr
  | matrix                        -- writes of msta and msave (12 R316)
  deriving DecidableEq, Repr

/-- One 32-bit word of an access: the lane, where it lies, which bytes it takes, what it writes, the register row it
fills, and what it has obtained. (DESIGN CHOICE, notes/assumptions/76.md.) -/
structure Piece where
  lane : Nat := 0
  tid : Nat := 0                  -- its thread's number in the package
  key : Nat := 0                  -- word key, or scratchpad word
  scr : Bool := false             -- scratchpad
  pol : Nat := 0
  mask : Nat := 15                -- bytes of the word
  val : Word := 0                 -- store data or operand
  val2 : Word := 0                -- the new value of acas
  row : Option Nat := none        -- destination row
  region : Nat := 0
  addr : DWord := 0               -- the lane's effective address
  counter : Option CountInc := none -- its page's counter, until its line's request has reached a bank (04 R119)
  level : Nat := 3                -- the level of the leaf that translated it (04 R115)
  fillL1 : Bool := true           -- what it obtains is installed in L1, in the section cache (06 R164)
  fillSec : Bool := true
  got : Option Word := none
  inL1 : Bool := false            -- a store its core's L1 shows, which its section has not accepted (06 R162)
  done : Bool := false
  poison : Bool := false
  bad : Option (Nat × Nat) := none -- a fault its data raise: code and detail
  deriving DecidableEq, Repr

/-- An access of a word, in flight (05 R130, R131; 06 R151). -/
structure Access where
  agent : Nat
  kind : AccKind
  scope : Nat
  part : Nat
  ctx : Nat
  grid : Nat
  core : Nat                      -- issuing core, or 256 + conductor core
  pc : DWord
  racemode : Nat := 1
  canon : Bool := false
  wide : Bool := false            -- 64-bit elements: pieces come in pairs
  ty : Nat := 0
  fcode : Nat := 0                -- lddec: format code, 64 for raw i8
  shape : Nat := 0                -- lddec: sz
  width : Nat := 4                -- bytes of the access
  cluster : Nat := 0              -- the cluster of its warp
  holds : Bool := false           -- its word retires when its data return
  group : List Nat := []          -- the lanes of the group that issued it
  fe : Nat := 0                   -- status of its own roundings
  dest : Nat := 0                 -- first destination register
  after : Option Nat := none      -- a release its writes wait for
  pieces : List Piece := []
  detached : Bool := false
  deriving DecidableEq, Repr

/-- A registration request on its way to the bank, in its owner's order (05 R130, R132). -/
structure RegReq where
  owner : Nat
  word : Nat
  part : Nat
  ctx : Nat
  grid : Nat
  issuer : Nat
  racemode : Nat
  pc : DWord
  agent : Nat
  lane : Nat := 0
  prev : Option Word := none      -- the released data that the others see until the request is applied (06 R162)
  counter : Option CountInc := none -- its page's counter (04 R119)
  deriving DecidableEq, Repr

/-- A release in progress (05 R136, 06 R152). -/
structure Release where
  agent : Nat
  scope : Nat
  owner : Nat
  part : Nat
  waits : List Nat                -- accesses that must be performed first
  taken : Bool := false           -- the open-line list has been taken
  pushes : List Nat := []         -- lines still to push
  acks : Nat := 0                 -- acknowledgements still to arrive, the ports' of a system release among them
  deriving DecidableEq, Repr

/-- A leaf translation (04 R102, R103, R109) with the guest-physical address of its entry. -/
structure Leaf where
  rd : Bool := false              -- the first stage's permissions
  wr : Bool := false
  ex : Bool := false
  rd2 : Bool := true              -- the second stage's
  wr2 : Bool := true
  ex2 : Bool := true
  wb : Bool := false
  loc : Nat := 0
  ce : Bool := false
  pol : Nat := 0
  frame : Nat := 0                -- the address of the page's first byte: device, carve-out offset or bus
  level : Nat := 3                -- the first-stage leaf's level
  level2 : Nat := 3
  span : Nat := 3                 -- the level of the smaller of the two page sizes, which `frame` begins
  lost : Option (Nat × Nat) := none -- the frame does not translate: fault code and detail (04 R105)
  fmt : Bool := false
  fcode : Nat := 0
  geom : Nat := 0
  scale : Nat := 0
  entry : Nat := 0                -- byte key of its entry, and the entry's address in its own location
  entryAt : Nat := 0
  deriving DecidableEq, Repr

/-- A cached translation of a page, by the number of its first 64 KiB page (04 R109, R110). -/
structure TlbEntry where
  part : Nat
  ctx : Nat
  page : Nat
  leaf : Leaf
  deriving DecidableEq, Repr

/-- What a walk has found. -/
inductive WalkResult where
  | leaf (l : Leaf)
  | fault (code detail : Nat)
  deriving DecidableEq, Repr

/-- A walk in progress or queued, with the agents that wait for it (04 R111, R112). -/
structure Walk where
  part : Nat
  ctx : Nat
  page : Nat
  core : Nat
  agents : List Nat
  found : Option WalkResult := none -- found before its walker stopped, to be delivered as it resumes (14 R352)
  deriving DecidableEq, Repr

/-- A walk-cache entry: word 0 of a non-leaf entry by partition, stage, context, level and index prefix (04 R110).
(DESIGN CHOICE, notes/assumptions/12.md.) -/
structure WalkEntry where
  part : Nat
  stage2 : Bool
  ctx : Nat
  level : Nat
  at_ : Nat
  word : DWord
  deriving DecidableEq, Repr

/-- Kinds of engine command (08 R209, 14 R363). -/
inductive CmdKind where
  | cpy | gath | scat | coll | mldb
  deriving DecidableEq, Repr

/-- One piece of a command: source and destination addresses in the form of 08 R201, and its length. -/
structure CmdPiece where
  src : DWord
  dst : DWord
  len : Nat
  deriving DecidableEq, Repr

/-- An engine command (08 R200 to R206; 12 R313). -/
structure Command where
  kind : CmdKind
  queue : Nat
  agent : Nat                     -- the agent that issued it
  slot : Nat := 0                 -- the warp slot that issued it (14 R363)
  core : Nat                      -- issuing core, or 256 + conductor core
  part : Nat
  ctx : Nat
  grid : Nat
  cluster : Nat
  pc : DWord
  scope : Nat
  ctl : Word
  seq : Nat
  racemode : Nat
  canon : Bool
  pieces : List CmdPiece
  size : Nat                      -- element size or length per source
  bytes : Nat                     -- the command's bytes (08 R204)
  mask : Nat := 0                 -- destination mask D (06 R156)
  forks : List Nat := []          -- the pushes its source reads wait for
  at_ : Nat := 0                  -- bytes performed
  piece : Nat := 0                -- pieces performed
  ty : Nat := 0                   -- mldb: 0, 5 or 6
  half : Nat := 0                 -- mldb: weight-buffer half
  res : Nat := 1                  -- RES (08 R209)
  running : Option Nat := none    -- the engine that executes it
  replay : Bool := false          -- held as a replay entry (08 R222)
  stopped : Bool := false
  landed : SMap Nat := []         -- destination words, with the engine that each is registered to
  regions : SMap Nat := []        -- their region indexes, under the issuing context (06 R163)
  staged : List (Byte × List Byte) := [] -- mldb: the blocks loaded of the panel at hand, scale and elements (12 R314)
  tag : Nat := 0                  -- mldb: that panel's tag
  port : Option Nat := none       -- a fabric port's command, with its descriptor's words (15 R404)
  sent : Bool := false            -- a port's command: its data and the message that completes it are sent
  ended : Option Nat := none      -- its status, where a write-block holds its status word
  desc : List Word := []
  deriving DecidableEq, Repr

/-- A fault as the Q9 records it (14 R348, R349). -/
structure FaultRec where
  code : Nat
  info : Word
  pc : DWord
  addr : DWord
  grid : Nat
  ctx : Nat
  tick : Nat
  engine : EngineId := .walker 0 0
  reason : Nat := 0               -- of the engine's own stop record: 5 for a control error (14 R374)
  deriving DecidableEq, Repr

/-- A stop in progress (14 R351 to R356). -/
structure Stop where
  num : Word
  reason : Nat
  first : Option FaultRec := none
  faults : List FaultRec := []    -- every fault charged in it
  charged : List (Nat × Nat) := []  -- grids charged, with the first code of each
  reached : List EngineId := []   -- engines that have reached their stop points
  acks : Nat := 0
  deriving DecidableEq, Repr

/-- What a knell decided for a grid (14 R369). -/
inductive Fate where
  | undecided | run | checkpoint | discard
  deriving DecidableEq, Repr

/-- A knell in progress (14 R367 to R372). -/
structure Knell where
  num : Word
  t0 : Nat
  grids : List Nat                -- grids that existed at the knell
  begun : Bool := false           -- a stop in progress as it was posted has let it stop what it stops (14 R373)
  decided : Bool := false
  cum : Nat := 0
  deriving DecidableEq, Repr

/-- The states of a grid (13 R331). -/
inductive GridSt where
  | waiting | running | draining | ended
  deriving DecidableEq, Repr

/-- A grid (13 R325 to R328, R337). -/
structure Grid where
  ctx : Nat := 0
  thread : Nat := 0               -- the conductor thread that launched it
  desc : List Word := []          -- the descriptor, sixteen words
  argBlock : DWord := 0
  ending : Option Nat := none     -- its status once it has ended but for its record (13 R340)
  table : List Word := []         -- the region preset table, sixty words
  st : GridSt := .waiting
  word : Word := 0                -- the completion word once it has ended
  order : Nat := 0                -- launch order
  endOrder : Nat := 0
  endTick : Nat := 0              -- tick at which it ended (13 R338)
  launchTick : Nat := 0
  startTick : Nat := 0
  placed : Nat := 0               -- clusters offered so far
  retired : List Nat := []        -- clusters retired, with no repeats
  retireTicks : List Nat := []
  chimed : List Nat := []         -- gated clusters whose chimes are satisfied
  race : Bool := false
  fault : Option FaultRec := none
  halted : HaltMark := .none
  fate : Fate := .undecided
  ckStart : Option Nat := none    -- tick its checkpoint began
  hwRoute : Bool := false
  latch : List DWord := []        -- counters latched at its start (16 R407)
  code : Option Memory := none    -- memory as it stood at the launch boundary, for the fetch of its code (02 R31)
  codeLines : List Nat := []      -- the host lines that the last-level cache held copies of then
  link : Option Nat := none       -- the release of its launcher's writes that its clusters wait for (06 R157)
  overlap : Bool := false
  deriving DecidableEq, Repr

/-- A region entry (07 R194). -/
structure Region where
  base : Nat := 0
  len : Nat := 0
  deriving DecidableEq, Repr

/-- A context's own state (06 R163; 13 R329; 14 R364; 15 R397; 16 R406). (DESIGN CHOICE, notes/assumptions/6.md.) -/
structure Context where
  regions : SMap Region := []
  toff : DWord := 0
  counters : SMap DWord := []
  halted : Bool := false
  haltDue : Bool := false         -- a halt that the host asked for waits for a stop in progress (14 R373)
  quiescing : Bool := false       -- set-aside work of the context has still to drain and be pushed (14 R362)
  deriving DecidableEq, Repr

/-- A partition: its table entry and everything its registers and its work hold. Registers are keyed by selector
(14 R379) and by 0x100 + control-page offset (15 R394, 16 R409). -/
structure Part where
  logn : Nat := 0
  cegrp : Nat := 0
  rate : Nat := 0
  burst : Nat := 0
  fport : Nat := 0
  regs : SMap DWord := []
  serial : Nat := 0               -- the last grid serial
  grids : SMap Grid := []
  gateReady : List (Nat × Nat) := [] -- gated units to be offered, grid and unit, in the order of their chimes
  chimesUp : List (Nat × Nat) := [] -- clusters of gated grids whose chimes are 1 or more, in the order of their setting
  offering : Option (Nat × Nat × Bool) := none -- the unit that no core admits, which holds back the others (13 R335)
  contexts : SMap Context := []
  stop : Option Stop := none
  knell : Option Knell := none
  sliceCtx : Nat := 0
  sliceStart : Nat := 0
  draining : List Nat := []       -- way units being drained
  ported : SMap Nat := []         -- descriptors taken by each port
  deadSlices : List Nat := []     -- slices stopped by a control-state error, and conductor cores by one of theirs
  deadCores : List Nat := []      -- (14 R374)
  portBy : SMap (List Nat) := []  -- the releases that the writes of each port's HEAD began (06 R156; 15 R404)
  touched : Bool := true          -- no partition reset has come since it was enabled or since work started (15 R385)
  rolls : List RollDue := []      -- summaries that wait for matrix units
  cmdOpen : Bool := false         -- a halt of PCCMD has not completed (15 R394)
  deriving DecidableEq, Repr

/-- A partition-table entry as written (15 R385). -/
structure PartEntry where
  first : Nat := 0
  logn : Nat := 0
  en : Bool := false
  cegrp : Nat := 0
  rate : Nat := 0
  burst : Nat := 0
  fport : Nat := 0
  deriving DecidableEq, Repr

/-- A VF-table entry and its CCRES (15 R392, R394). -/
structure VfEntry where
  en : Bool := false
  sup : Bool := false
  first : Nat := 0
  ctx : Nat := 0
  ccres : Word := 0
  open_ : Bool := false           -- a halt of CCCMD has not completed
  off : Bool := false             -- disabled by the PF's Function Level Reset (15 R396)
  deriving DecidableEq, Repr

/-- A fabric port (15 R402, R404): its binding, its drop count and what it has sent.
(DESIGN CHOICE, notes/assumptions/6.md; DESIGN CHOICE, notes/assumptions/53.md.) -/
structure Port where
  bound : Bool := false
  part : Nat := 0
  ctx : Nat := 0
  peer : Nat := 0                 -- the peer's number, as the firmware gives it (15 R402)
  drops : Nat := 0
  sent : List FabricMsg := []
  faulted : Bool := false         -- the descriptor that arrives has met a translation fault
  held : List FabricMsg := []     -- messages that wait for a write-block, the oldest first (04 R118)
  acks : List Bool := []          -- acknowledgements sent to the peer: whether its descriptor faulted
  deriving DecidableEq, Repr

/-- What a context image holds, as its writer knows it: what ctxrs restores from memory that equals `words` (14 R366).
Per-core parts are kept by partition-relative core, without their bank or half. -/
structure Image where
  part : Nat
  ctx : Nat
  logn : Nat
  words : List Word               -- the image as written
  agents : List Agent
  clusters : SMap Cluster
  grids : SMap Grid
  context : Context
  rows : SMap Word
  rowPoison : SMap Bool
  scratch : SMap Byte
  scratchPoison : SMap Bool
  exact : SMap ExactSum
  gongJoins : SMap (List Join)
  acc : SMap Acc
  fixed : SMap Bool
  weights : SMap Byte
  panels : SMap Nat
  cmds : SMap Command
  loaders : SMap (List Nat)
  trackers : SMap (List Detached)
  locks : SMap PairLock
  vtick : DWord
  deriving DecidableEq, Repr

/-- An operation that parks its thread until it completes (14 R366, R383). -/
inductive PkgOp where
  | tlbinv (part : Nat) (form : Nat) (ctx : Nat) (page count : Nat) (frames : List Nat)
  deriving DecidableEq, Repr

/-- What the Q9 has answered to the host (15 R393, R395), oldest first. (DESIGN CHOICE, notes/assumptions/18.md.) -/
inductive HostOut where
  | data (value : BitVec 4096)
  | poisoned
  | unsupported
  | retryStatus                   -- Request Retry Status, before READY (16 R413)
  | bringUp (links : List LinkId) (memStacks : List Nat)  -- READY in the mailbox, with what failed to train (16 R413)
  | vfVector (vf vector : Nat)
  | pfVector
  deriving DecidableEq, Repr

/-- The platform around the parts (16 R410 to R415). -/
structure Platform where
  powered : Bool := true
  ready : Bool := true
  clocksStopped : Bool := false
  halted : Bool := false          -- a belfry base-logic error (14 R374)
  image : FirmwareImage := ⟨0, 0, 0⟩
  fusedKey : BitVec 256 := 0
  identity : BitVec 512 := 0      -- the identity public key (16 R415)
  fusedMin : BitVec 32 := 0
  nonce : Option (BitVec 256) := none -- of an attestation request that waits for its report (16 R415)
  report : List Word := []
  debugAt : Option Nat := none    -- a debug stop requested at tick T
  scanned : Bool := false
  failedLinks : List LinkId := []
  failedStacks : List Nat := []   -- memory stacks that failed to train (16 R413)
  failedModules : List (LinkId × Nat) := []
  retraining : List LinkId := []  -- links that an error has sent into a retrain (14 R374)
  deriving DecidableEq, Repr

/-- One move of the plan: which agent issues at which address, which event takes place, or how long nothing does. -/
inductive Move where
  | issue (agent : Nat) (pc : DWord)
  | event (i : Instr)
  | elapse (ticks : Nat)
  deriving DecidableEq, Repr

/-- The state of the package. -/
structure State where
  tick : Nat := 0
  platform : Platform := {}
  product1T : Bool := false       -- ordering code: Q9-MOD-1T, else Q9-MOD-2T (00 R1)
  clocks : SMap (BitVec 32) := [] -- kHz of a block's clock: compute dies 0 to 7, belfry 8 (00 R4; 16 R411)
  mem : Memory := []              -- device memory, carve-out, host memory and its copies, by byte key
  hostLines : SMap Bool := []     -- host lines the last-level cache holds a copy of: dirty or not
  lines : SMap BankLine := []     -- registration, by line
  ways : SMap Nat := []           -- the way unit that holds a line of the last-level cache (05 R124)
  forwards : SMap Forward := []   -- outstanding forwards, by line
  copies : SMap Word := []        -- owners' copies, by owner and word
  held : SMap Bool := []          -- words an owner holds in O: its request may be on its way
  openLines : SMap (List Nat) := [] -- open-line lists by owner, oldest first
  clean : SMap CleanLine := []    -- lines with clean words, by cache and line
  firstOut : SMap Bool := []      -- section-cache lines that an stnt marks first for replacement (07 R177)
  exact : SMap ExactSum := []     -- exact sums by word key, scratchpad words apart
  accesses : SMap Access := []
  regReqs : SMap RegReq := []
  releases : SMap Release := []
  tlb : SMap TlbEntry := []       -- by cache and page
  walks : SMap Walk := []
  walkCache : SMap WalkEntry := []
  counts : List CountInc := []
  rf : SMap Word := []            -- register rows
  rfPoison : SMap Bool := []
  me : Agent := {}
  issuePc : DWord := 0
  others : SMap Agent := []
  clusters : SMap Cluster := []
  cores : SMap Core := []
  locks : SMap PairLock := []     -- by core and pair group
  scratch : SMap Byte := []       -- by cluster and address
  scratchPoison : SMap Bool := []
  gongJoins : SMap (List Join) := []
  cmds : SMap Command := []
  engineDead : SMap Bool := []    -- engines stopped by an error until their reset
  engineTurn : SMap Nat := []     -- round-robin of dispatch, by partition
  threadTurn : SMap Nat := []     -- the thread of each conductor core that issued last (13 R324)
  parts : SMap Part := []         -- enabled partitions by FIRST
  ptable : SMap PartEntry := []
  vfs : SMap VfEntry := []
  msix : SMap Word := []          -- words of the MSI-X tables, by function and offset (15 R393)
  ports : SMap Port := []
  ops : SMap PkgOp := []
  images : List Image := []
  hostOut : List HostOut := []
  plan : List Move := []
  free : Nat := 0
  nextId : Nat := 1
  deriving DecidableEq, Repr

/-- The management core as it stands after bring-up (16 R413): it runs its firmware, whose words the model does not
hold, so it has no thread to issue. (DESIGN CHOICE, notes/assumptions/4.md.) -/
def managementReset : Agent := { kind := .management, level := .vendor }

/-- The machine right after reset: power good and READY, the partition and VF tables empty, every word U and
unpoisoned (16 R413). Values the spec gives none for are those of notes/assumptions 1 to 10. -/
def State.reset : State := { me := managementReset }

end Sys2Proof.Machine
end

