-- ==== Sys2Proof/Machine/Accum.lean ====
section
/-! DEFINITION. Accumulator elements: accumulation, anchors, resolution and the memory image (03 R81 to R88; 12 R307). -/

namespace Sys2Proof.Machine

/-- The window (03 R83). -/
def inWindow41 (v : Int) : Bool := -(2 ^ 41) ≤ v && v ≤ 2 ^ 41 - 1

/-- The nearer bound of the window for a value outside it. -/
def clamp41 (v : Int) : Int := max (-(2 ^ 41)) (min (2 ^ 41 - 1) v)

/-- floor(p * 2^k), and whether a nonzero remainder was dropped. -/
def floorPow (p k : Int) : Int × Bool :=
  if 0 ≤ k then (p * 2 ^ k.toNat, false) else (p / 2 ^ (-k).toNat, p % 2 ^ (-k).toNat != 0)

/-- step(A) of a product `p * 2^k`, and whether a floor dropped a remainder (03 R84). -/
def Acc.step (e : Acc) (p k a : Int) : Int × Bool :=
  let x := floorPow e.v (e.anchor - a)
  let y := floorPow p (k + 30 - a)
  (x.1 + y.1, x.2 || y.2)

/-- A finite product accumulated under a floating anchor (03 R84). -/
def Acc.addFloating (e : Acc) (p k : Int) : Acc :=
  let at_ (a : Int) : Acc := { e with anchor := a, v := (e.step p k a).1, x := e.x || (e.step p k a).2 }
  if inWindow41 (e.step p k e.anchor).1 then at_ e.anchor
  else
    let above := (List.range (127 - e.anchor).toNat).map (fun (i : Nat) => e.anchor + 1 + (i : Int))
    match above.find? (fun a => inWindow41 (e.step p k a).1) with
    | some a => at_ a
    | none => { e with anchor := 127, v := clamp41 (e.step p k 127).1, x := true }

/-- A finite product accumulated under a fixed anchor (03 R85). -/
def Acc.addFixed (e : Acc) (p k : Int) : Acc :=
  let y := floorPow p (k + 30 - e.anchor)
  let v := e.v + y.1
  { e with v := clamp41 v, x := e.x || y.2 || !inWindow41 v }

/-- A product accumulated (03 R84 to R86). -/
def Acc.add (fixed : Bool) (e : Acc) (x : FVal) : Acc :=
  match x with
  | .nan _ => { e with nan := true }
  | .inf false => { e with pinf := true }
  | .inf true => { e with ninf := true }
  | .fin n m k => if fixed then e.addFixed (sman n m) k else e.addFloating (sman n m) k

/-- The anchor moved to `a` (12 R307). -/
def Acc.rescale (e : Acc) (a : Int) : Acc :=
  if e.anchor < a then
    let r := floorPow e.v (e.anchor - a)
    { e with anchor := a, v := r.1, x := e.x || r.2 }
  else if a < e.anchor then
    let v := e.v * 2 ^ (e.anchor - a).toNat
    { e with anchor := a, v := clamp41 v, x := e.x || !inWindow41 v }
  else e

/-- The value an element resolves (03 R87). -/
def Acc.value (e : Acc) : FVal :=
  if e.nan || (e.pinf && e.ninf) then .nan false
  else if e.pinf then .inf false
  else if e.ninf then .inf true
  else .fin (e.v < 0) e.v.natAbs (e.anchor - 30)

/-- Resolution into a format, with its status (03 R87). -/
def Acc.resolve (e : Acc) (f : Fmt) (m : Rnd) : Nat × Nat :=
  let r := roundVal f m e.value
  (r.1, if e.x then r.2 ||| stNX else r.2)

/-- The split of V that msave writes: any, the free value held to what V admits (03 R82). -/
def splitOf (v : Int) (choice : BitVec 42) : Int × Int :=
  let lo := max (-(2 ^ 41)) (v - (2 ^ 41 - 1))
  let hi := min (2 ^ 41 - 1) (v + 2 ^ 41)
  let sum := max lo (min hi choice.toInt)
  (sum, v - sum)

/-- Bits [95:0] of an element with a split of its V (03 R81). -/
def Acc.bits (e : Acc) (choice : BitVec 42) : Nat :=
  let c := splitOf e.v choice
  (c.1 % 2 ^ 42).toNat + (c.2 % 2 ^ 42).toNat * 2 ^ 42 + (if e.x then 2 ^ 84 else 0) + (if e.ninf then 2 ^ 85 else 0)
    + (if e.pinf then 2 ^ 86 else 0) + (if e.nan then 2 ^ 87 else 0) + (e.anchor % 256).toNat * 2 ^ 88

/-- The four words of its memory image (03 R88). -/
def Acc.image (e : Acc) (choice : BitVec 42) : List Word :=
  let b := e.bits choice
  [BitVec.ofNat 32 b, BitVec.ofNat 32 (b / 2 ^ 32), BitVec.ofNat 32 (b / 2 ^ 64), 0]

/-- The element of an image (03 R88; 12 R312). -/
def Acc.ofImage (ws : List Word) : Acc :=
  let b := (ws.getD 0 0).toNat + (ws.getD 1 0).toNat * 2 ^ 32 + (ws.getD 2 0).toNat * 2 ^ 64
  { anchor := (BitVec.ofNat 8 (b / 2 ^ 88)).toInt, nan := bitN b 87, pinf := bitN b 86, ninf := bitN b 85,
    x := bitN b 84, v := (BitVec.ofNat 42 b).toInt + (BitVec.ofNat 42 (b / 2 ^ 42)).toInt }

end Sys2Proof.Machine
end

