-- ==== Sys2Proof/Machine/IntOps.lean ====
section
/-! DEFINITION. Integer and bit operations on one lane's operands (03 R62 to R64; 10 R254 to R259). An operand is a
64-bit value: a pair for the 64-bit types, one register zero-extended for the others. -/

namespace Sys2Proof.Machine

/-- Status bits of %iexc (03 R64). -/
def ieDZ : Nat := 1
def ieOV : Nat := 2

/-- W: 64 for types 2 and 3, else 32 (10 R255). -/
def tyBits (t : Ty) : Nat := if t.isPair then 64 else 32

/-- The integer type is signed (03 R62). -/
def tySigned (t : Ty) : Bool :=
  match t with
  | .i32 | .i64 => true
  | _ => false

/-- The low W bits of an operand as a number. -/
def uval (t : Ty) (x : DWord) : Nat := x.toNat % 2 ^ tyBits t

/-- The operand read as its type: signed for i32 and i64, else unsigned (10 R255). -/
def ival (t : Ty) (x : DWord) : Int :=
  let u := uval t x
  if tySigned t && 2 ^ (tyBits t - 1) ≤ u then (u : Int) - 2 ^ tyBits t else u

/-- An exact integer wrapped into W bits (03 R62). -/
def wrapTo (t : Ty) (i : Int) : DWord := BitVec.ofNat 64 ((i % 2 ^ tyBits t).toNat)

/-- A 32-bit word sign-extended to 64 bits. -/
def sext64 (x : Word) : DWord := x.signExtend 64

/-- Truncating division with its two special cases: quotient, remainder and status (03 R63). -/
def divide (t : Ty) (x y : DWord) : DWord × DWord × Nat :=
  let a := ival t x
  let b := ival t y
  if b == 0 then (wrapTo t (-1), wrapTo t a, ieDZ)
  else if tySigned t && a == -(2 ^ (tyBits t - 1)) && b == -1 then (wrapTo t a, 0, ieOV)
  else (wrapTo t (a.tdiv b), wrapTo t (a - a.tdiv b * b), 0)

/-- imulh: the upper half of the exact 2W-bit product (10 R255). -/
def mulHigh (t : Ty) (x y : DWord) : DWord := wrapTo t (ival t x * ival t y / 2 ^ tyBits t)

/-- iaddc and isubb: the result and the carry or borrow out (10 R255). -/
def addCarry (x y z : DWord) : DWord :=
  let s := uval .n32 x + uval .n32 y + z.toNat % 2
  BitVec.ofNat 64 (s % 2 ^ 32 + s / 2 ^ 32 * 2 ^ 32)

def subBorrow (x y z : DWord) : DWord :=
  let s : Int := (uval .n32 x : Int) - uval .n32 y - (z.toNat % 2 : Nat)
  BitVec.ofNat 64 ((s % 2 ^ 32).toNat + if s < 0 then 2 ^ 32 else 0)

/-- An integer comparison under a condition code, signed as the type says (02 R43). -/
def intCond (t : Ty) (code : Nat) (x y : DWord) : Bool :=
  condHolds code (ival t x < ival t y) (ival t x == ival t y)

/-- A truth as a 0 or 1 operand. -/
def boolVal (b : Bool) : DWord := if b then 1 else 0

/-- Shifts with a count of any size (10 R259). -/
def shiftLeft (t : Ty) (x : DWord) (n : Nat) : DWord :=
  if n < tyBits t then BitVec.ofNat 64 (uval t x * 2 ^ n % 2 ^ tyBits t) else 0

def shiftRight (t : Ty) (x : DWord) (n : Nat) : DWord :=
  if n < tyBits t then BitVec.ofNat 64 (uval t x / 2 ^ n) else 0

/-- sar reads its operand as signed whatever the type (10 R259). -/
def shiftArith (t : Ty) (x : DWord) (n : Nat) : DWord :=
  let u := uval t x
  let s : Int := if 2 ^ (tyBits t - 1) ≤ u then (u : Int) - 2 ^ tyBits t else u
  wrapTo t (s / 2 ^ min n (tyBits t))

def rotateLeft (t : Ty) (x : DWord) (n : Nat) : DWord :=
  let k := n % tyBits t
  let u := uval t x
  BitVec.ofNat 64 ((u * 2 ^ k + u / 2 ^ (tyBits t - k)) % 2 ^ tyBits t)

/-- bfx under a control word: position in bits [7:0], length in bits [15:8] (10 R258, R259). -/
def fieldExtract (t : Ty) (x : DWord) (ctl : Nat) : DWord :=
  let pos := bitsN ctl 7 0
  let len := bitsN ctl 15 8
  if len == 0 || tyBits t ≤ pos then 0
  else
    let m := min len (tyBits t - pos)
    let f := uval t x / 2 ^ pos % 2 ^ m
    if tySigned t && bitN f (m - 1) then wrapTo t ((f : Int) - 2 ^ m) else BitVec.ofNat 64 f

/-- bfi (10 R259). -/
def fieldInsert (t : Ty) (x y : DWord) (ctl : Nat) : DWord :=
  let pos := bitsN ctl 7 0
  let len := bitsN ctl 15 8
  if len == 0 || tyBits t ≤ pos then BitVec.ofNat 64 (uval t x)
  else
    let m := min len (tyBits t - pos)
    let u := uval t x
    let old := u / 2 ^ pos % 2 ^ m
    BitVec.ofNat 64 (u - old * 2 ^ pos + (y.toNat % 2 ^ m) * 2 ^ pos)

/-- The number of 1 bits among the low `n` bits. -/
def popCount (x : Nat) : Nat → Nat
  | 0 => 0
  | n + 1 => (if bitN x n then 1 else 0) + popCount x n

/-- Leading zeros in `n` bits. -/
def leadingZeros (x : Nat) : Nat → Nat
  | 0 => 0
  | n + 1 => if bitN x n then 0 else 1 + leadingZeros x n

/-- Trailing zeros in `n` bits. -/
def trailingZeros (x : Nat) : Nat → Nat
  | 0 => 0
  | n + 1 => if x % 2 == 1 then 0 else 1 + trailingZeros (x / 2) n

/-- The low `n` bits of `x` reversed. -/
def reverseBits (x : Nat) : Nat → Nat
  | 0 => 0
  | n + 1 => (x % 2) * 2 ^ n + reverseBits (x / 2) n

/-- The complement in W bits. -/
def bitNot (t : Ty) (x : DWord) : DWord := BitVec.ofNat 64 (2 ^ tyBits t - 1 - uval t x)

/-- A type's result form: f16 and bf16 write zeros to bits [31:16] (02 R41). -/
def trimTo (t : Ty) (x : DWord) : DWord :=
  match t with
  | .i64 | .n64 | .f64 => x
  | .f16 | .bf16 => x &&& 0xFFFF
  | _ => x &&& 0xFFFFFFFF

/-- The two elements of a packed operand, or the one of a scalar (03 R65). -/
def elems (t : Ty) (x : DWord) : List Nat :=
  if t.isPacked then [x.toNat % 2 ^ 16, x.toNat / 2 ^ 16 % 2 ^ 16]
  else [x.toNat % 2 ^ (fmtOf t).width]

/-- An operand from its elements. -/
def ofElems (t : Ty) (es : List Nat) : DWord :=
  match es with
  | [e] => BitVec.ofNat 64 e
  | e0 :: e1 :: _ => if t.isPacked then BitVec.ofNat 64 (e0 + e1 * 2 ^ 16) else BitVec.ofNat 64 e0
  | [] => 0

end Sys2Proof.Machine
end

