-- ==== Sys2Proof/Machine/Agents.lean ====
section
/-! DEFINITION. Agents, their registers and their threads: register rows (09 R224 to R226, R234), the group of the
word that issues (11 R275), and where threads go and are held (11 R278, R285, R286). -/

namespace Sys2Proof.Machine

/-- The number an agent is kept under: core * 32 + slot, 8192 + conductor thread, 8448 for the management core. -/
def AgentKind.id : AgentKind → Nat
  | .warp c s => c * 32 + s
  | .conductor n => 8192 + n
  | .management => 8448

def Agent.id (a : Agent) : Nat := a.kind.id

/-- A warp, as against a conductor thread or the management core. -/
def Agent.isWarp (a : Agent) : Bool :=
  match a.kind with
  | .warp _ _ => true
  | _ => false

/-- The core of a warp; 256 + conductor core otherwise (08 R199). -/
def Agent.core (a : Agent) : Nat :=
  match a.kind with
  | .warp c _ => c
  | .conductor n => 256 + n / 8
  | .management => 288

/-- The warp slot, 0 for other agents. -/
def Agent.slot (a : Agent) : Nat :=
  match a.kind with
  | .warp _ s => s
  | _ => 0

/-- The slice an agent sits in. -/
def Agent.slice (a : Agent) : Nat :=
  match a.kind with
  | .warp c _ => c / 8
  | .conductor n => n / 8
  | .management => 0

/-- The owner that accepts an agent's writes: its section cache or its conductor core (05 R129, R130). -/
def Agent.owner (a : Agent) : Nat :=
  match a.kind with
  | .warp c _ => c / 8
  | .conductor n => 0x060 + n / 8
  | .management => 0x060

/-- The kind of an agent by its number. -/
def kindOf (id : Nat) : AgentKind :=
  if id < 8192 then .warp (id / 32) (id % 32) else if id < 8448 then .conductor (id - 8192) else .management

/-- A conductor thread that has never been started (13 R322): idle, its registers at their resets. -/
def idleConductor (n : Nat) : Agent :=
  { kind := .conductor n, threads := [{ st := .exited }] }

/-- An agent by number; none for a warp slot that holds no warp. -/
def State.agent (s : State) (id : Nat) : Option Agent :=
  if s.me.id = id then some s.me
  else match s.others.find id with
    | some a => some a
    | none =>
      match kindOf id with
      | .conductor n => some (idleConductor n)
      | _ => none

/-- The state with an agent replaced. -/
def State.setAgent (s : State) (a : Agent) : State :=
  if s.me.id = a.id then { s with me := a } else { s with others := s.others.set a.id a }

/-- The state with an agent changed, where it exists. -/
def State.updAgent (s : State) (id : Nat) (f : Agent → Agent) : State :=
  if s.me.id = id then { s with me := f s.me }
  else match s.agent id with
    | some a => { s with others := s.others.set id (f a) }
    | none => s

/-- The state with another agent's turn: its word at `pc` issues next. -/
def State.focus (s : State) (id : Nat) (pc : DWord) : State :=
  if s.me.id = id then { s with issuePc := pc }
  else match s.agent id with
    | some a => { s with others := (s.others.set s.me.id s.me).erase id, me := a, issuePc := pc }
    | none => s

/-- Every agent held, the one whose turn it is among them. -/
def State.agents (s : State) : List Agent := s.me :: s.others.map (·.2)

/-- What a row belongs to, by the last two bits of its key: a frame, a pair group's extended set, a conductor
thread, the management core. -/
def rowTag (k : Nat) : Nat := k % 4

/-- The index of a row among those of its tag. -/
def rowIx (k : Nat) : Nat := k / 4

/-- The row of a register at a frame position (09 R224 to R226, R234). -/
def rowKey (a : Agent) (pos n : Nat) : Nat :=
  match a.kind with
  | .warp c _ =>
    if n < 128 then 4 * (((c * 16 + a.frame) * 64 + pos) * 256 + n)
    else 4 * (((c * 16 + a.pairGroup) * 64 + pos) * 128 + (n - 128)) + 1
  | .conductor t => 4 * (pos * 2 ^ 16 + t * 256 + n) + 2
  | .management => 4 * (pos * 256 + n) + 3

/-- Register `n` of a lane of the issuing agent. (DESIGN CHOICE, notes/assumptions/3.md.) -/
def State.reg (s : State) (lane n : Nat) : Word := s.rf.get 0 (rowKey s.me (s.me.base + lane) n)

/-- An operand under a type: a pair or one register, zero-extended (02 R40). -/
def State.operand (s : State) (t : Ty) (lane n : Nat) : DWord :=
  if t.isPair then pair64 (s.reg lane n) (s.reg lane (n + 1)) else (s.reg lane n).setWidth 64

/-- The pair n:n+1 of a lane. -/
def State.pair (s : State) (lane n : Nat) : DWord := pair64 (s.reg lane n) (s.reg lane (n + 1))

/-- A register of a lane written; a poisoned element is cleared by the write (14 R374). -/
def State.setReg (s : State) (lane n : Nat) (v : Word) : State :=
  let k := rowKey s.me (s.me.base + lane) n
  { s with rf := s.rf.put 0 k v, rfPoison := s.rfPoison.erase k }

/-- Register writes: lane, register and value. -/
abbrev Writes := List (Nat × Nat × Word)

/-- The writes of a word, all after its reads (02 R47; 09 R231). -/
def State.setRegs (s : State) : Writes → State
  | [] => s
  | (l, n, v) :: ws => (s.setReg l n v).setRegs ws

/-- The writes of one lane's result under a type: one register, or a pair (02 R40, R41). -/
def resultOf (t : Ty) (lane n : Nat) (x : DWord) : Writes :=
  if t.isPair then [(lane, n, lo32 x), (lane, n + 1, hi32 x)] else [(lane, n, lo32 (trimTo t x))]

/-- The rows at keys a test holds of, erased. -/
def State.clearRows (s : State) (p : Nat → Bool) : State :=
  { s with rf := s.rf.drop p, rfPoison := s.rfPoison.drop p }

/-- Where a thread meets: none for 0xFFFF_FFFF (11 R277). -/
def meetAddr (base : DWord) (m : Word) : Option DWord :=
  if m == 0xFFFFFFFF then none else some (base + 8 * sext64 m)

/-- The stored form of a meeting address (11 R277, R283). -/
def meetValue (base target : DWord) : Word := lo32 ((target - base).sshiftRight 3)

/-- A thread is live: it has not exited. -/
def Thread.live (t : Thread) : Bool := t.st != .exited

/-- A parked word of the agent at `pc`. -/
def Agent.parkAt (a : Agent) (pc : DWord) : Option Park := a.parks.find? (fun p => p.pc == pc)

/-- The lanes of the group at `pc`: the runnable threads whose program counter it is (11 R275). -/
def Agent.groupAt (a : Agent) (pc : DWord) : List Nat :=
  (List.range a.threads.length).filter (fun l =>
    match a.threads[l]? with
    | some t => t.st == .runnable && t.pc == pc
    | none => false)

/-- The lanes of the word that issues. -/
def State.group (s : State) : List Nat := s.me.groupAt s.issuePc

/-- A lane passes a guard (02 R39). -/
def State.passes (s : State) (g : BitVec 8) (gn : Bool) (lane : Nat) : Bool :=
  g == 0 || (bitN (s.reg lane g.toNat).toNat 0 != gn)

/-- The active lanes of a guarded word, ascending (00 R7). -/
def State.active (s : State) (g : BitVec 8) (gn : Bool) : List Nat := s.group.filter (s.passes g gn)

/-- The issuing agent changed. -/
def State.updMe (s : State) (f : Agent → Agent) : State := { s with me := f s.me }

/-- Threads changed lane by lane. -/
def mapLanes (f : Nat → Thread → Thread) (ts : List Thread) : List Thread := ts.mapIdx f

/-- The loop counters by level (09 R228). -/
def Agent.lc (a : Agent) (n : Nat) : Word :=
  match n with
  | 0 => a.lc0
  | 1 => a.lc1
  | _ => a.lc2

def Agent.setLc (a : Agent) (n : Nat) (v : Word) : Agent :=
  match n with
  | 0 => { a with lc0 := v }
  | 1 => { a with lc1 := v }
  | _ => { a with lc2 := v }

/-- The innermost active loop level (11 R284). -/
def Agent.innermost (a : Agent) : Option Loop := a.loops.getLast?

/-- The innermost level ends: its counter is set to 0 (11 R286, R287). -/
def Agent.endLevel (a : Agent) : Agent :=
  { a.setLc (a.loops.length - 1) 0 with loops := a.loops.dropLast }

/-- A thread arriving at `t.pc` from the word at `from`: held at the end of the innermost level where it reaches it
from the level's body (11 R285), else held where it meets (11 R278). -/
def arrive (a : Agent) (from_ : DWord) (t : Thread) : Thread :=
  if t.st == .runnable then
    let atEnd := match a.innermost with
      | some l => t.pc == l.stop && l.start ≤ from_ && from_ < l.stop
      | none => false
    if atEnd then { t with st := .atLoop }
    else if meetAddr a.codeBase t.meet == some t.pc then { t with st := .atMeet }
    else t
  else t

/-- A word of the innermost body that the loop buffer does not serve: one of its first iteration, or of a body of more
than 256 words (11 R288; 16 R406). (DESIGN CHOICE, notes/assumptions/55.md.) -/
def Agent.bufferMiss (a : Agent) (pc : DWord) : Bool :=
  match a.innermost with
  | some l => l.start ≤ pc && pc < l.stop && (!l.again || 2048 < (l.stop - l.start).toNat)
  | none => false

/-- The loop-end rule (11 R286): the next iteration, or the end of the level. (DEDUCED, notes/assumptions/25.md.) -/
def Agent.loopEnd (a : Agent) : Agent :=
  match a.innermost with
  | none => a
  | some l =>
    let n := a.loops.length - 1
    if (a.lc n).toNat ≤ 1 then
      let b := a.endLevel
      { b with threads := b.threads.map (fun t =>
          if t.live then arrive b (l.stop - 8) { t with pc := l.stop, st := .runnable } else t) }
    else
      let b := { a.setLc n (a.lc n - 1) with loops := a.loops.dropLast ++ [{ l with again := true }] }
      { b with threads := b.threads.map (fun t => if t.live then { t with pc := l.start, st := .runnable } else t) }

/-- Threads held at a meeting point are released there: their meeting registers become none (11 R278). -/
def Agent.releaseMeet (a : Agent) (addr : DWord) : Agent :=
  { a with threads := a.threads.map (fun t =>
      if t.st == .atMeet && t.pc == addr then { t with st := .runnable, meet := 0xFFFFFFFF } else t) }

/-- The lowest address at which a thread is held to meet. -/
def lowestMeet (ts : List Thread) : Option DWord :=
  ts.foldl (fun m t => if t.st == .atMeet then
      match m with
      | none => some t.pc
      | some a => if t.pc < a then some t.pc else some a
    else m) none

/-- The releases of 11 R278, applied until one leaves a thread runnable; the count of forced releases beside it.
(DEDUCED, notes/assumptions/25.md.) -/
def Agent.settle (a : Agent) : Nat → Agent × Nat
  | 0 => (a, 0)
  | fuel + 1 =>
    let live := a.threads.filter Thread.live
    if live.isEmpty || live.any (fun t => t.st == .runnable) then (a, 0)
    else match lowestMeet live with
      | none => a.loopEnd.settle fuel
      | some m =>
        if live.all (fun t => t.st == .atMeet && t.pc == m) then (a.releaseMeet m, 0)
        else (a.releaseMeet m, 1)

/-- The most releases one word can bring about: one for each level, and one at a meeting point. -/
def settleFuel : Nat := 8

/-- A context's key: partition and context. -/
def ctxKey (part ctx : Nat) : Nat := part * 64 + ctx

/-- A partition by its first slice. -/
def State.part (s : State) (p : Nat) : Part := s.parts.get {} p

def State.updPart (s : State) (p : Nat) (f : Part → Part) : State :=
  match s.parts.find p with
  | some q => { s with parts := s.parts.set p (f q) }
  | none => s

/-- A context of a partition. -/
def State.context (s : State) (p c : Nat) : Context := (s.part p).contexts.get {} c

def State.updContext (s : State) (p c : Nat) (f : Context → Context) : State :=
  s.updPart p (fun q => { q with contexts := q.contexts.set c (f (q.contexts.get {} c)) })

/-- One of a context's sixteen event counters counts (16 R406); the host and the fabric have no context.
(DESIGN CHOICE, notes/assumptions/55.md.) -/
def State.countEvent (s : State) (p c i n : Nat) : State :=
  if n = 0 || 64 ≤ c then s
  else s.updContext p c (fun x => { x with counters := x.counters.set i (x.counters.get 0 i + BitVec.ofNat 64 n) })

/-- The context whose counters count an agent's events; the management core has none (16 R406). -/
def countsIn (agent ctx : Nat) : Nat := if agent == 8448 then 64 else ctx

/-- An event of the issuing agent counts (16 R406). -/
def State.countMine (s : State) (i n : Nat) : State := s.countEvent s.me.part (countsIn s.me.id s.me.ctx) i n

/-- The issuing agent's releases are applied and forced ones counted (11 R278, 16 R406). -/
def State.settle (s : State) : State :=
  let r := s.me.settle settleFuel
  ({ s with me := r.1 }).countEvent s.me.part (countsIn s.me.id s.me.ctx) 5 r.2

/-- Every thread of the lanes goes where `next` says; those that arrive are held as 11 R278 and R285 say. -/
def State.moveTo (s : State) (lanes : List Nat) (next : Nat → DWord) : State :=
  let a := s.me
  ({ s with me := { a with threads := mapLanes (fun l t =>
      if lanes.contains l then arrive a s.issuePc { t with pc := next l } else t) a.threads } }).settle

/-- The word retires: its group goes to the next word, and its park ends. -/
def State.retire (s : State) : State :=
  let s1 := s.updMe (fun a => { a with parks := a.parks.filter (fun p => p.pc != s.issuePc) })
  s1.moveTo s.group (fun _ => s.issuePc + 8)

/-- The word retires for lanes of its group, after which its park ends. -/
def State.retireLanes (s : State) (lanes : List Nat) : State :=
  let s1 := s.updMe (fun a => { a with parks := a.parks.filter (fun p => p.pc != s.issuePc) })
  s1.moveTo (s.group.filter lanes.contains) (fun _ => s.issuePc + 8)

/-- The parked word of the issuing agent at its address. -/
def State.parked (s : State) : Option Park := s.me.parkAt s.issuePc

/-- When the word that issues began: where it parked once it had begun, else now (07 R196). -/
def State.began (s : State) : Nat :=
  match s.parked with
  | some p => if p.begun then p.t0 else s.tick
  | none => s.tick

/-- The word parks at its address: it has not retired (11 R279). A word that had begun keeps its first tick.
(DESIGN CHOICE, notes/assumptions/75.md.) -/
def State.park (s : State) (w : Wait) (limit : Nat := 0) : State :=
  let t0 := s.began
  s.updMe (fun a => { a with
    parks := { pc := s.issuePc, wait := w, since := s.tick, limit := limit, t0 := t0, lanes := s.group }
      :: a.parks.filter (fun p => p.pc != s.issuePc) })

/-- The first completed command in command order (08 R209). -/
def StatusQueue.first (q : StatusQueue) : Option QueueEntry := q.entries.find? (fun e => e.word.isSome)

/-- A status queue that holds more than sixteen status words drops the first in command order, up to n times, and marks
it (08 R209). -/
def StatusQueue.trim (q : StatusQueue) : Nat → StatusQueue
  | 0 => q
  | n + 1 =>
    if 16 < (q.entries.filter (fun e => e.word.isSome)).length then
      match q.first with
      | some e => StatusQueue.trim { q with entries := q.entries.filter (fun x => x.cmd != e.cmd), lost := true } n
      | none => q
    else q

/-- The issuing cluster's record; an empty one for other agents. -/
def State.cluster (s : State) : Cluster := s.clusters.get {} s.me.cluster

/-- A core's own state. -/
def State.coreOf (s : State) (c : Nat) : Core := s.cores.get {} c

def State.updCore (s : State) (c : Nat) (f : Core → Core) : State :=
  { s with cores := s.cores.set c (f (s.coreOf c)) }

/-- A free value's index is taken. -/
def State.takeFree (s : State) : State := { s with free := s.free + 1 }

/-- The pair lock of a pair group. -/
def lockKey (core pair : Nat) : Nat := core * 16 + pair

def State.lock (s : State) (core pair : Nat) : PairLock := s.locks.get {} (lockKey core pair)

/-- The issuing warp holds its pair group's lock (09 R225). -/
def State.holdsLock (s : State) : Bool := (s.lock s.me.core s.me.pairGroup).holder == some s.me.slot

end Sys2Proof.Machine
end

