-- ==== Sys2Proof/Machine/Bank.lean ====
section
/-! DEFINITION. The belfry's banks: where a word lies, registration, caught races, owners' copies, open-line lists
and releases (05 R124 to R145), the clean words of the caches (06 R163 to R165), and the rings the Q9 appends to
(04 R121, R122; 05 R141; 14 R376). -/

namespace Sys2Proof.Machine

/-- Byte keys: device memory at its address, the carve-out by unit, host memory by bus address, and the last-level
cache's copy of a host byte by partition (04 R99; 05 R126, R127; 15 R390). -/
def carveBase : Nat := 2 ^ 52
def hostCopyBase : Nat := 2 ^ 56
def hostBase : Nat := 2 ^ 62

/-- The word of a byte key, and the line of a word key. -/
def lineOf (w : Nat) : Nat := w / 32

/-- A partition's copy of a host byte. -/
def hostCopyKey (part bus : Nat) : Nat := hostCopyBase + part * 2 ^ 52 + bus % 2 ^ 52

/-- The carve-out units of a partition in ascending order (05 R127). -/
def grantUnits (co : Nat) : List Nat := (List.range 64).filter (bitN co)

/-- The carve-out offset that a carve-out key has in the grant of the partition that holds its unit (05 R127). -/
def State.carveOffset (s : State) (k : Nat) : Nat :=
  let unit := (k - carveBase) / 2 ^ 26
  let grants := s.parts.map (fun (e : Nat × Part) => grantUnits (e.2.regs.get 0 0x08).toNat)
  ((grants.find? (·.contains unit)).elim unit (·.idxOf unit)) * 2 ^ 26 + (k - carveBase) % 2 ^ 26

/-- The word of memory under a word of the last-level cache's copy of a host line: the host's own (05 R126). -/
def throughKey (w : Nat) : Nat :=
  if hostCopyBase ≤ 4 * w && 4 * w < hostBase then (hostBase + (4 * w - hostCopyBase) % 2 ^ 52) / 4 else w

/-- What a record calls a word: its device-physical address, its carve-out offset with bit 63 set, or its bus
address with bit 62 set (05 R141, 14 R376). (DEDUCED, notes/assumptions/54.md.) -/
def State.recordAddr (s : State) (w : Nat) : DWord :=
  let k := 4 * w
  if k < carveBase then BitVec.ofNat 64 k
  else if k < hostCopyBase then BitVec.ofNat 64 (2 ^ 63 + s.carveOffset k)
  else if k < hostBase then BitVec.ofNat 64 (2 ^ 62 + (k - hostCopyBase) % 2 ^ 52)
  else BitVec.ofNat 64 (2 ^ 62 + (k - hostBase) % 2 ^ 52)

/-- The state of a word at its bank. -/
def State.bankLine (s : State) (w : Nat) : BankLine := s.lines.get {} (lineOf w)
def State.bankWord (s : State) (w : Nat) : BankWord := (s.bankLine w).words.get {} (w % 32)
def State.regOf (s : State) (w : Nat) : Reg := (s.bankWord w).st

/-- The owner that a word's SEL names (05 R128). -/
def State.ownerOf (s : State) (w : Nat) : Nat :=
  if (s.bankWord w).sel then (s.bankLine w).own1 else (s.bankLine w).own0

/-- A line kept, unlisted once it is empty. -/
def State.setLine (s : State) (l : Nat) (b : BankLine) : State :=
  { s with lines := s.lines.put {} l b }

/-- A word's state set in its line. -/
def State.setBank (s : State) (w : Nat) (b : BankWord) : State :=
  let l := s.bankLine w
  s.setLine (lineOf w) { l with words := l.words.put {} (w % 32) b }

/-- The key of an owner's copy of a word, and of a cache's clean word. -/
def copyKey (owner w : Nat) : Nat := owner * 2 ^ 64 + w

def State.copyOf (s : State) (owner w : Nat) : Option Word := s.copies.find (copyKey owner w)

/-- An owner's copy set or revoked; it holds the word in O from its first write until its release or its loss. -/
def State.setCopy (s : State) (owner w : Nat) (v : Word) : State :=
  { s with copies := s.copies.set (copyKey owner w) v }

/-- A registration request of an owner for a word is on its way (05 R130). -/
def State.registering (s : State) (owner w : Nat) : Bool :=
  s.regReqs.any (fun e => e.2.owner == owner && e.2.word == w)

/-- Loads, as against what writes. -/
def AccKind.reads : AccKind → Bool
  | .load | .ldnt | .ldacq | .lddec => true
  | _ => false

/-- The owner that accepts the writes of a core, of a conductor core or of the management core (05 R129, R130). -/
def ownerOfCore (core : Nat) : Nat :=
  if core < 256 then core / 8 else if core < 288 then 0x060 + (core - 256) else 0x060

/-- The owner that accepts an access's writes. (DESIGN CHOICE, notes/assumptions/77.md.) -/
def Access.owner (a : Access) : Nat := ownerOfCore a.core

/-- What an access that will write has obtained of a word whose owner's copy is revoked: nothing; it reads again
(07 R187). -/
def Access.forget (owner w : Nat) (a : Access) : Access :=
  if a.kind.reads || a.owner != owner then a
  else { a with pieces := a.pieces.map (fun p => if p.key == w && !p.scr && !p.done then { p with got := none } else p) }

/-- A revoked copy is gone; a copy whose own registration is still on its way stands (05 R130, R133).
(DEDUCED, notes/assumptions/11.md; DEDUCED, notes/assumptions/14.md.) -/
def State.revoke (s : State) (owner w : Nat) : State :=
  if s.registering owner w then s
  else { s with copies := s.copies.erase (copyKey owner w), held := s.held.erase (copyKey owner w),
                accesses := s.accesses.mapV (Access.forget owner w) }

/-- The word the bank or memory holds. -/
def State.memWord (s : State) (w : Nat) : Word := s.mem.word w

/-- The bank's word written; a copy of a host line becomes dirty (15 R390). -/
def State.setMem (s : State) (w : Nat) (v : Word) : State :=
  { s with mem := s.mem.setWord w v,
           hostLines := if hostCopyBase ≤ 4 * w && 4 * w < hostBase then s.hostLines.set (lineOf w) true
             else s.hostLines }

/-- What an owner released of a word that it has written since, its request still on its way (06 R162). -/
def State.released (s : State) (owner w : Nat) : Option Word :=
  s.regReqs.findSome? (fun e => if e.2.owner == owner && e.2.word == w then e.2.prev else none)

/-- The word's current data: at its owner, or at the cache where the owner's copy is equal (05 R128); a write of a
released word whose request is on its way is its owner's alone (06 R162). (DEDUCED, notes/assumptions/27.md.) -/
def State.current (s : State) (w : Nat) : Word :=
  let b := s.bankWord w
  let copy := (s.copyOf (s.ownerOf w) w).getD (s.memWord w)
  if b.st == .o then copy
  else if b.st == .r && !b.viaOl then (s.released (s.ownerOf w) w).getD copy
  else s.memWord w

/-- Memory with the current data of every registered word. -/
def State.memNow (s : State) : Memory :=
  s.lines.foldl (fun m (e : Nat × BankLine) => e.2.words.foldl (fun m (x : Nat × BankWord) =>
    m.setWord (e.1 * 32 + x.1) (s.current (e.1 * 32 + x.1))) m) s.mem

/-- The word becomes U with the bank holding `v`; its owner's copy is revoked (05 R132, R133). -/
def State.toU (s : State) (w : Nat) (v : Word) : State :=
  ((s.revoke (s.ownerOf w) w).setMem w v).setBank w {}

/-- One word of a chosen owner written back: it becomes U with its current data in the line (05 R134). -/
def State.writeBack (s : State) (w : Nat) : State := s.toU w (s.current w)

/-- The words of a line registered to an owner, by word key. -/
def State.wordsOf (s : State) (l owner : Nat) : List Nat :=
  ((s.lines.get {} l).words.filter (fun e => e.2.st != .p && s.ownerOf (l * 32 + e.1) == owner)).map
    (fun e => l * 32 + e.1)

/-- The words of a line in O or OL of an owner. -/
def State.openWords (s : State) (l owner : Nat) : List Nat :=
  (s.wordsOf l owner).filter (fun w => s.regOf w == .o || s.regOf w == .ol)

/-- Every word of an owner in a line written back (05 R134, R136). -/
def State.writeBackLine (s : State) (l owner : Nat) : State :=
  (s.wordsOf l owner).foldl State.writeBack s

/-- An owner field of a line emptied. -/
def State.dropOwner (s : State) (l owner : Nat) : State :=
  let b := s.lines.get {} l
  s.setLine l { b with own0 := if b.own0 == owner then 0x3FF else b.own0,
                       own1 := if b.own1 == owner then 0x3FF else b.own1 }

/-- A third owner takes a field of the line, an owner being forced to write back where neither is empty (05 R134).
DESIGN CHOICE (notes/assumptions/77.md): where both fields are empty, the steps of R134 name only 'exactly one', and the
owner takes OWN0. -/
def State.takeField (s : State) (l x : Nat) : State :=
  let b := s.lines.get {} l
  if b.own0 == x || b.own1 == x then s
  else if b.own0 == 0x3FF then s.setLine l { b with own0 := x }
  else if b.own1 == 0x3FF then s.setLine l { b with own1 := x }
  else
    let n0 := (s.openWords l b.own0).length
    let n1 := (s.openWords l b.own1).length
    let loser := if n0 < n1 then b.own0 else b.own1
    let s1 := (s.writeBackLine l loser).dropOwner l loser
    let b1 := s1.lines.get {} l
    if b1.own0 == 0x3FF then s1.setLine l { b1 with own0 := x } else s1.setLine l { b1 with own1 := x }

/-- A word registered to an owner of its line in a state. One that a caught read leaves in R has its data in the cache
too (05 R133). -/
def State.registerAs (s : State) (w x : Nat) (st : Reg) (ctx : Nat := 0) : State :=
  let s1 := s.takeField (lineOf w) x
  s1.setBank w { st := st, sel := (s1.bankLine w).own1 == x, cached := st == .r, ctx := ctx }

/-- What a caught race was: the owner that lost, and whether the word was OL (05 R133, R141). -/
structure Race where
  y : Nat
  wasOl : Bool
  deriving DecidableEq, Repr

/-- A request of `x` meets a word open to another owner (05 R133). -/
def State.raceWith (s : State) (w x : Nat) : Option Race :=
  let b := s.bankWord w
  if (b.st == .o || b.st == .ol) && s.ownerOf w != x then some ⟨s.ownerOf w, b.st == .ol⟩ else none

/-- An access performed at the bank obtains the word's value and leaves the word U (05 R133, R139; 06 R149). -/
def State.bankTake (s : State) (w : Nat) : State × Word :=
  let v := s.current w
  if s.regOf w == .u || s.regOf w == .p then (s, v) else (s.toU w v, v)

/-- The key under which a way holds an exact-sum entry of a bank beyond its 4,096 (07 R191). -/
def exactLine (w : Nat) : Nat := 2 ^ 66 + w

/-- A word's exact-sum entry ends, and the line it took is free (07 R190, R191). -/
def State.endExact (s : State) (w : Nat) : State :=
  { s with exact := s.exact.erase w, ways := s.ways.erase (exactLine w) }

/-- A word of the host written, which no bank holds (POL 2); its exact sum ends (07 R190). -/
def State.hostPut (s : State) (w : Nat) (v : Word) : State := (s.setMem w v).endExact w

/-- Exact sums that a test of the word keys and entries picks end, with the lines they took (07 R190, R191). -/
def State.endSums (s : State) (f : Nat → ExactSum → Bool) : State :=
  let gone := s.exact.pick f
  if gone.isEmpty then s
  else { s with exact := s.exact.filter (fun e => !f e.1 e.2), ways := s.ways.drop (fun k => gone.any (fun e => k == exactLine e.1)) }

/-- A full word written at the bank: the word is U and holds the value; poison is cleared (05 R132, R139, R144). -/
def State.bankPut (s : State) (w : Nat) (v : Word) : State :=
  (((s.bankTake w).1.setMem w v).setBank w {}).endExact w

/-- A parked word on the line of a word is due its watch (07 R196). (DESIGN CHOICE, notes/assumptions/56.md.) -/
def Park.due (p : Park) (w : Nat) : Park :=
  match p.wait with
  | .word k true => if lineOf k == lineOf w then { p with fired := true } else p
  | _ => p

def Agent.due (a : Agent) (w : Nat) : Agent := { a with parks := a.parks.map (·.due w) }

/-- A write to a line takes its place in bank order: the watches on the line are due (07 R196). -/
def State.fireWatches (s : State) (w : Nat) : State :=
  { s with me := s.me.due w, others := s.others.mapV (·.due w) }

/-- A value written at the bank leaves the word in U (05 R139); watches fire. -/
def State.bankWrite (s : State) (w : Nat) (v : Word) : State := (s.bankPut w v).fireWatches w

/-- The word is poisoned: nothing holds its value (05 R128, R144). -/
def State.poisonWord (s : State) (w : Nat) : State :=
  ((s.revoke (s.ownerOf w) w).setBank w { st := .p }).endExact w

/-- An outstanding forward of a line is answered before what takes its place next in bank order (05 R131): the bank gives
the word to a load that waits for it, and to the cache where nothing has changed it since; a write or an atomic reads
again. (DEDUCED, notes/assumptions/15.md.) -/
def State.settleForward (s : State) (l : Nat) : State :=
  match s.forwards.find l with
  | none => s
  | some f =>
    let s0 := { s with forwards := s.forwards.erase l }
    let v := s.current f.word
    let kept := s.regOf f.word == .r && s.ownerOf f.word == f.owner
    let s1 := if kept then s0.toU f.word v else s0
    { s1 with accesses := s1.accesses.modify (f.req / 65536) (fun a =>
        if !a.kind.reads then a
        else { a with pieces := a.pieces.modify (f.req % 65536) (fun p =>
          if p.key == f.word && !p.done then { p with got := some (if kept then v else f.val) } else p) }) }

/-- The open-line list of an owner with a line entered; a full list writes its oldest line back (05 R136). DESIGN CHOICE
(notes/assumptions/77.md): R136 gives the length of a section cache's list, and the lists of copy engines, conductor
cores and fabric ports have it too. -/
def State.enterOpen (s : State) (owner l : Nat) : State :=
  let ls := s.openLines.get [] owner
  if ls.contains l then s
  else if ls.length < 4096 then { s with openLines := s.openLines.set owner (ls ++ [l]) }
  else match ls with
    | old :: rest =>
      let s1 := (s.settleForward old).writeBackLine old owner
      { s1 with openLines := s1.openLines.set owner (rest ++ [l]) }
    | [] => s

/-- A registration request takes its place in bank order: its owner has a field of the line, and the word becomes O to
it (05 R132 to R134). -/
def State.register (s : State) (w x ctx : Nat) : State × Option Race :=
  let s0 := s.takeField (lineOf w) x
  let race := s0.raceWith w x
  let y := s0.ownerOf w
  let s1 := if s0.regOf w != .u && s0.regOf w != .p && y != x then s0.revoke y w else s0
  (((s1.registerAs w x .o ctx).enterOpen x (lineOf w)).endExact w, race)

/-- A push entry turns an owner's O and OL words in a line into R (05 R136). -/
def State.pushLine (s : State) (owner l : Nat) : State :=
  (s.openWords l owner).foldl (fun s w =>
    let b := s.bankWord w
    { s.setBank w { b with st := .r, viaOl := b.st == .ol } with held := s.held.erase (copyKey owner w) }) s

/-- Every open line of an owner pushed and its list cleared, with those that its releases have still to push: a release
performed whole (05 R136; 06 R152). -/
def State.pushAll (s : State) (owner : Nat) : State :=
  let unsent := s.releases.flatMap (fun (e : Nat × Release) => if e.2.owner == owner then e.2.pushes else [])
  let s1 := (s.openLines.get [] owner ++ unsent).foldl (fun s l => s.pushLine owner l) s
  { s1 with openLines := s1.openLines.erase owner }

/-- A word in O is written back by its owner and stays registered: it becomes OL, and its owner's next write of it is a
request again (05 R130, R132, R137). -/
def State.writeOl (s : State) (w : Nat) : State :=
  let b := s.bankWord w
  let s1 := (s.setMem w (s.current w)).setBank w { b with st := .ol }
  { s1 with held := s1.held.erase (copyKey (s.ownerOf w) w) }

/-- A section cache replacing a line writes its O words back: they become OL (05 R137). Its R words' data are written
back too, for the bank to serve, and it holds none of them any longer, but for a write that it has still to register.
(DEDUCED, notes/assumptions/11.md.) -/
def State.sectionReplace (s : State) (owner l : Nat) : State :=
  let s1 := (s.wordsOf l owner).foldl (fun s w =>
    if s.registering owner w then s
    else match s.regOf w with
      | .o => s.writeOl w
      | .r => (s.setMem w (s.current w)).setBank w { s.bankWord w with viaOl := true }
      | _ => s) s
  { s1 with copies := s1.copies.drop (fun k => k / 2 ^ 64 == owner && lineOf (k % 2 ^ 64) == l
      && !s1.registering owner (k % 2 ^ 64)) }

/-- An owner is lost: what only it held becomes P, the rest U, with the value that the cache holds; its fields are
emptied (05 R145). -/
def State.loseLine (s : State) (owner l : Nat) : State :=
  let s1 := (s.wordsOf l owner).foldl (fun s w =>
    let b := s.bankWord w
    if b.st == .o || (b.st == .r && !b.viaOl && !b.cached) then s.poisonWord w else s.toU w (s.memWord w)) s
  s1.dropOwner l owner

/-- Every line of a lost owner, with what it holds and asks for (05 R145). DESIGN CHOICE (notes/assumptions/11.md): its
registration requests that are still on their way are lost with it, and the words they were for stay as they are. -/
def State.loseOwner (s : State) (owner : Nat) : State :=
  let s0 := { s with regReqs := s.regReqs.filter (fun e => e.2.owner != owner) }
  let s1 := s0.lines.foldl (fun s e => s.loseLine owner e.1) s0
  { s1 with openLines := s1.openLines.erase owner,
            copies := s1.copies.drop (fun k => k / 2 ^ 64 == owner),
            held := s1.held.drop (fun k => k / 2 ^ 64 == owner),
            forwards := s1.forwards.filter (fun e => e.2.owner != owner) }

/-! ### Clean words -/

/-- Caches that hold clean words: L1 of a core, the section cache of a slice, a conductor core (06 R163; 08 R199). -/
def l1Cache (core : Nat) : Nat := 0x1000 + core
def sectionCache (slice : Nat) : Nat := slice
def conductorCache (c : Nat) : Nat := 0x060 + c

/-- A line of a cache. -/
def State.cleanLine (s : State) (cache l : Nat) : CleanLine := s.clean.get {} (copyKey cache l)

/-- A line of a cache kept, unlisted once it holds no clean word. -/
def State.setClean (s : State) (cache l : Nat) (c : CleanLine) : State :=
  { s with clean := if c.words.isEmpty then s.clean.erase (copyKey cache l) else s.clean.set (copyKey cache l) c }

def State.cleanOf (s : State) (cache w : Nat) : Option CleanWord :=
  let c := s.cleanLine cache (lineOf w)
  (c.words.find (w % 32)).map (fun v => ⟨v, c.region, c.part, c.ctx⟩)

/-- Lines that a cache holds: an L1 what the scratchpads of its core's clusters leave of 4 MiB, in steps of 256 KiB, a
section cache 16 MiB (01 R14, R18; 13 R332); a conductor core's, of which no figure is given, is not bounded.
(DESIGN CHOICE, notes/assumptions/51.md.) -/
def State.cacheLines (s : State) (cache : Nat) : Option Nat :=
  if 0x1000 ≤ cache then
    let used := (s.clusters.filter (fun e => e.2.core == cache - 0x1000)).foldl (fun n e =>
      n + (e.2.scratch + 2 ^ 18 - 1) / 2 ^ 18 * 2 ^ 18) 0
    some ((2 ^ 22 - used) / 128)
  else if cache < 0x020 then some (2 ^ 24 / 128)
  else none

/-- The set of a cache that a line lies in, which is not architectural (05 R126).
(DESIGN CHOICE, notes/assumptions/51.md.) -/
def setOf (l : Nat) : Nat := Config.way 0 l

/-- A line of a section cache is not to be replaced before another: an stnt has marked another of its set (07 R177). -/
def State.notFirst (s : State) (cache l : Nat) : Bool :=
  !s.firstOut.isEmpty && !s.firstOut.get false (copyKey cache l)
    && s.firstOut.any (fun e => e.1 / 2 ^ 64 == cache && setOf (e.1 % 2 ^ 64) == setOf l)

/-- The lines that a cache holds: those of its clean words, and a section cache's of the words that it owns. -/
def State.heldLines (s : State) (cache : Nat) : List Nat :=
  ((s.clean.keys.filter (fun k => k / 2 ^ 64 == cache)).map (· % 2 ^ 64)
    ++ (if cache < 0x020 then (s.copies.keys.filter (fun k => k / 2 ^ 64 == cache)).map (fun k => lineOf (k % 2 ^ 64))
      else [])).eraseDups

/-- The lines that a full cache may give up: those with no request or forward on its way, one that an stnt has marked
before the others of its set (07 R177). -/
def State.canGive (s : State) (cache : Nat) : List Nat :=
  (s.heldLines cache).filter (fun l => !s.notFirst cache l && (s.forwards.find l).isNone
    && !s.regReqs.any (fun e => e.2.owner == cache && lineOf e.2.word == l))

/-- A cache that has a size is not full of other lines. -/
def State.notFull (s : State) (cache l : Nat) : Bool :=
  (s.cacheLines cache).all (fun cap => s.clean.length + s.copies.length < cap
    || (s.heldLines cache).contains l || (s.heldLines cache).length < cap)

/-- A cache can take a line. -/
def State.hasRoom (s : State) (cache l : Nat) : Bool := s.notFull cache l || !(s.canGive cache).isEmpty

/-- A cache gives a line up: a section cache's own words are written back, and its clean words go (05 R137). -/
def State.giveUp (s : State) (cache l : Nat) : State :=
  let s1 := if cache < 0x020 then s.sectionReplace cache l else s
  { s1 with clean := s1.clean.erase (copyKey cache l), firstOut := s1.firstOut.erase (copyKey cache l) }

/-- Room is made in a cache for a line: where it is full, another line goes.
(DESIGN CHOICE, notes/assumptions/51.md.) -/
def State.makeRoom (s : State) (cache l : Nat) : State :=
  let can := s.canGive cache
  if s.notFull cache l || can.isEmpty then s else s.giveUp cache (can.getD (Config.way s.tick l % can.length) 0)

/-- A clean word put into a cache's line, which takes the tags of the context that fills it and drops what has others
(06 R163); a cache with no room for it takes none (13 R332). -/
def State.install (s : State) (cache w : Nat) (c : CleanWord) : State :=
  if !s.hasRoom cache (lineOf w) then s
  else
    let s1 := s.makeRoom cache (lineOf w)
    let l := s1.cleanLine cache (lineOf w)
    let same := l.region == c.region && l.part == c.part && l.ctx == c.ctx
    s1.setClean cache (lineOf w) ⟨c.region, c.part, c.ctx, (if same then l.words else []).set (w % 32) c.val⟩

/-- The other words of a line come with a fill, those that the source holds and the line lacks (06 R163). -/
def State.installRest (s : State) (cache w : Nat) (source : Nat → Option Word) : State :=
  let c := s.cleanLine cache (lineOf w)
  if c.words.isEmpty then s
  else
  let got := (List.range 32).filterMap (fun i =>
    if (c.words.find i).isSome then none else (source (lineOf w * 32 + i)).map (fun v => (i, v)))
  s.setClean cache (lineOf w) { c with words := got.foldl (fun m e => m.set e.1 e.2) c.words }

/-- A word of a cache's line dropped. -/
def State.dropClean (s : State) (cache w : Nat) : State :=
  let c := s.cleanLine cache (lineOf w)
  s.setClean cache (lineOf w) { c with words := c.words.erase (w % 32) }

/-- A line of a cache dropped. -/
def State.dropCleanLine (s : State) (cache l : Nat) : State := { s with clean := s.clean.erase (copyKey cache l) }

/-- A mask has the bit of a region index. -/
def maskHas (m i : Nat) : Bool := bitN m i

/-- The flash match of an acquire by a context: clean words it filled under an index of the mask, and, with bit 0,
those of other contexts (06 R164). -/
def acquireDrops (part ctx mask : Nat) (c : CleanWord) : Bool :=
  if c.part == part && c.ctx == ctx then maskHas mask c.region else maskHas mask 0

/-- The lines of a cache whose tags a test picks, dropped (06 R164). -/
def State.dropWhere (s : State) (cache : Nat) (p : CleanWord → Bool) : State :=
  { s with clean := s.clean.filter (fun e => !(e.1 / 2 ^ 64 == cache && p ⟨0, e.2.region, e.2.part, e.2.ctx⟩)) }

/-- An index's region of an address under a context: the lowest entry that covers it, else 0 (06 R163). -/
def regionOf (c : Context) (va : Nat) : Nat :=
  match c.regions.find? (fun e => e.2.len != 0 && e.2.base ≤ va && va < e.2.base + e.2.len) with
  | some e => e.1
  | none => 0

/-! ### Registers of a partition, and rings -/

/-- The reset value of a partition register, by selector or by 0x100 + page offset (04 R107; 05 R142; 08 R220;
14 R380; 15 R394; 16 R409). -/
def regReset (sel : Nat) : DWord :=
  match sel with
  | 0x02 | 0x09 | 0x0E | 0x14 | 0x18 | 0x140 | 0x180 | 0x1A0 => 4
  | 0x05 => 256
  | 0x0C => 1
  | 0x21 => 500
  | 0x198 => 32
  | _ => 0

def Part.reg (p : Part) (sel : Nat) : DWord := p.regs.get (regReset sel) sel

def Part.setReg (p : Part) (sel : Nat) (v : DWord) : Part := { p with regs := p.regs.put (regReset sel) sel v }

def State.preg (s : State) (p sel : Nat) : Nat := ((s.part p).reg sel).toNat

def State.setPreg (s : State) (p sel : Nat) (v : DWord) : State := s.updPart p (fun q => q.setReg sel v)

/-- A ring: its registers, its record stride, its overflow bit, and where the sequence number stands
(04 R121, R122). -/
structure Ring where
  base : Nat
  head : Nat
  tail : Nat
  drop : Option Nat
  ovfReg : Nat
  ovfBit : Nat
  stride : Nat

def notifyRing : Ring := ⟨0x02, 0x03, 0x04, some 0x06, 0x05, 12, 32⟩
def raceRing : Ring := ⟨0x09, 0x0A, 0x0B, some 0x0D, 0x0C, 2, 32⟩
def replayRing : Ring := ⟨0x14, 0x15, 0x16, some 0x17, 0x1C, 0, 1024⟩
def poisonRing : Ring := ⟨0x18, 0x19, 0x1A, some 0x1B, 0x1C, 1, 32⟩
def logRing : Ring := ⟨0x140, 0x148, 0x150, none, 0x158, 3, 128⟩
def sampleRing : Ring := ⟨0x180, 0x188, 0x190, none, 0x198, 6, 32⟩
def counterRing : Ring := ⟨0x1A0, 0x1A8, 0x1B0, none, 0x1B8, 1, 256⟩

/-- The sequence number of record i: i + 1 modulo 2^32, 0 replaced by 1 (04 R121). -/
def seqOf (i : Nat) : Nat := if (i + 1) % 2 ^ 32 == 0 then 1 else (i + 1) % 2 ^ 32

/-- The clock of a block in kHz: the nominal 1.6 GHz until the block sets another (00 R4; 16 R411). -/
def State.clockOf (s : State) (block : Nat) : Nat := max 1 (s.clocks.get 1600000 block).toNat

/-- Ticks that `n` clk of a block take, whole ticks (00 R4; 16 R411). (DESIGN CHOICE, notes/assumptions/9.md.) -/
def State.clkTicks (s : State) (block n : Nat) : Nat := (n * 1000000 + s.clockOf block - 1) / s.clockOf block

/-- The block that a core or an agent runs on: its compute die, or the belfry (01 R11). -/
def dieOf (core : Nat) : Nat := if core < 256 then core / 32 else 8

/-- A 64-bit value as its two words. -/
def words64 (x : Nat) : List Word := [BitVec.ofNat 32 x, BitVec.ofNat 32 (x / 2 ^ 32)]

/-- Device memory of a partition: its window under 04 R97. -/
def Part.slices (p : Part) : Nat := 2 ^ p.logn

/-- The length of a partition's window (04 R97). (DESIGN CHOICE, notes/assumptions/1.md.) -/
def windowLen (oneT : Bool) (p : Part) : Nat :=
  if oneT && 2 ≤ p.logn then p.slices * (48 * 2 ^ 30) else p.slices * (64 * 2 ^ 30)

/-- The window in a 1 TiB part of one or two slices holds the groups' own size (04 R97, 01 R17). -/
def windowLenAt (oneT : Bool) (first : Nat) (p : Part) : Nat :=
  if oneT && p.logn < 2 && 2 ≤ first % 4 then p.slices * (32 * 2 ^ 30) else windowLen oneT p

/-- A device-physical byte address lies in a partition's window (04 R97, R99). -/
def State.inWindow (s : State) (p a : Nat) : Bool :=
  p * 2 ^ 36 ≤ a && a < p * 2 ^ 36 + windowLenAt s.product1T p (s.part p)

/-- The bytes of a slice's channel group (01 R17). -/
def groupBytes (oneT : Bool) (slice : Nat) : Nat := if oneT && 2 ≤ slice % 4 then 32 * 2 ^ 30 else 64 * 2 ^ 30

/-- Where a device-physical address of a partition lies: its channel group and its address inside it, in granules of
4 KiB (04 R97). -/
def channelPlace (oneT : Bool) (first logn a : Nat) : Nat × Nat :=
  let n := 2 ^ logn
  let slices := (List.range n).map (first + ·)
  let cmin := slices.foldl (fun m g => min m (groupBytes oneT g)) (64 * 2 ^ 30)
  let o := a - first * 2 ^ 36
  if o < n * cmin then (first + o / 2 ^ 12 % n, o / 2 ^ (12 + logn) * 2 ^ 12 + o % 2 ^ 12)
  else
    let o2 := o - n * cmin
    let big := slices.filter (fun g => cmin < groupBytes oneT g)
    (big.getD (o2 / 2 ^ 12 % big.length) first, cmin + o2 / 2 ^ 12 / big.length * 2 ^ 12 + o2 % 2 ^ 12)

/-! ### Banks and ways of the last-level cache (05 R124, R126, R127) -/

/-- The bank groups that an XLLCMAP value names (05 R125). -/
def bankGroups (map : Nat) : List Nat := (List.range 4).filter (bitN map)

/-- The bank that serves a device-physical address or a host bus address under GROUPS (05 R126). -/
def bankOf (map a : Nat) : Nat :=
  let gs := bankGroups map
  16 * gs.getD ((bitsN a 20 19 ^^^ bitsN a 22 21) % gs.length) 0 + (bitsN a 10 7 ^^^ bitsN a 14 11 ^^^ bitsN a 18 15)

/-- The bank of a carve-out offset in a unit of its grant (05 R127). -/
def carveBank (unit o : Nat) : Nat := 16 * (unit / 16) + bitsN o 10 7

/-- The line that a way's entry stands for: an exact-sum entry lies in the bank of its word's line (07 R191). -/
def plainLine (l : Nat) : Nat := if 2 ^ 66 ≤ l then lineOf (l - 2 ^ 66) else l

/-- The partition of a line that the last-level cache may fill or replace: device lines by window, host lines by copy;
an exact-sum entry of a carve-out word is of the partition that its unit is granted to (07 R191). -/
def State.partOfLine (s : State) (l : Nat) : Option Nat :=
  let k := 128 * plainLine l
  if k < carveBase then (s.parts.find? (fun (e : Nat × Part) => s.inWindow e.1 k)).map (·.1)
  else if k < hostCopyBase then
    if l < 2 ^ 66 then none
    else (s.parts.find? (fun (e : Nat × Part) => bitN (e.2.reg 0x08).toNat ((k - carveBase) / 2 ^ 26))).map (·.1)
  else if k < hostBase then some ((k - hostCopyBase) / 2 ^ 52)
  else none

/-- The bank that serves a line, for its partition (05 R126, R127). -/
def State.bankOfLine (s : State) (l : Nat) : Nat :=
  let k := 128 * plainLine l
  if carveBase ≤ k && k < hostCopyBase then carveBank ((k - carveBase) / 2 ^ 26) ((k - carveBase) % 2 ^ 26)
  else bankOf (s.preg ((s.partOfLine l).getD 0) 0x07) (k % 2 ^ 52)

/-- Lines that one way of a bank holds: 64 MiB in 16 ways of 128-byte lines (05 R124). -/
def wayLines : Nat := 32768

/-- The lines that a way unit holds in a bank (05 R124). -/
def State.linesIn (s : State) (unit bank : Nat) : List Nat :=
  (s.ways.keysOf (· == unit)).filter (fun l => s.bankOfLine l == bank)

/-- The way units of a partition in a bank (05 R124, R125): 16 g + w for each way of the bank's group. -/
def State.unitsAt (s : State) (p bank : Nat) : List Nat :=
  let map := s.preg p 0x07
  if bitN map (bank / 16) then ((List.range 16).filter (fun w => bitN map (4 + w))).map (16 * (bank / 16) + ·) else []

/-- Way units of a partition that have room in a bank; all of them while the bank holds fewer lines than one way. -/
def State.roomAt (s : State) (p bank : Nat) : List Nat :=
  if (s.ways.keys.filter (fun l => s.bankOfLine l == bank)).length < wayLines then s.unitsAt p bank
  else (s.unitsAt p bank).filter (fun u => (s.linesIn u bank).length < wayLines)

/-- One of several candidates, the only one where there is one (05 R126). (DESIGN CHOICE, notes/assumptions/51.md.) -/
def State.anyWay (s : State) (l : Nat) (can : List Nat) : Nat :=
  can.getD (if can.length ≤ 1 then 0 else Config.way s.tick l % can.length) 0

/-- A line is put into one of some way units; with none, it stands as it was (05 R126). -/
def State.putWay (s : State) (l : Nat) (room : List Nat) : State :=
  if room.isEmpty then s else { s with ways := s.ways.set l (s.anyWay l room) }

/-- A line is put into a way of its partition that has room for it in its bank; where none has, it stands as it was
(05 R126). (DESIGN CHOICE, notes/assumptions/51.md.) -/
def State.fillWay (s : State) (l : Nat) : State :=
  match s.partOfLine l with
  | none => s
  | some p => if (s.ways.find l).isSome then s else s.putWay l (s.roomAt p (s.bankOfLine l))

/-- A request of a context's agent reaches the bank of a line: where the last-level cache does not hold the line, it is a
miss, event 10 (16 R406). -/
def State.countMiss (s : State) (p ctx l : Nat) : State :=
  if (s.partOfLine l).isSome && (s.ways.find l).isNone then s.countEvent p ctx 10 1 else s

/-- Exact-sum entries that a bank holds of its own (07 R191). -/
def bankEntries : Nat := 4096

/-- The exact-sum entries of a bank (07 R191). -/
def State.entriesIn (s : State) (bank : Nat) : Nat :=
  (s.exact.keys.filter (fun w => w < 2 ^ 70 && s.bankOfLine (lineOf w) == bank)).length

/-- A line replaced in the last-level cache: both owners have written back, and a dirty host line goes to the host
(05 R137; 15 R390). -/
def State.replaceLine (s : State) (l : Nat) : State :=
  let b := s.lines.get {} l
  let s0 := (((s.writeBackLine l b.own0).writeBackLine l b.own1).dropOwner l b.own0).dropOwner l b.own1
  let s1 := { s0 with ways := s0.ways.erase l }
  match s1.hostLines.find l with
  | none => s1
  | some dirty =>
    let src := 32 * l
    let dst := (hostBase + (128 * l - hostCopyBase) % 2 ^ 52) / 4
    { s1 with hostLines := s1.hostLines.erase l,
              mem := if dirty then (List.range 32).foldl (fun m i => m.setWord (dst + i) (m.word (src + i))) s1.mem
                else s1.mem }

/-- Lines of a bank's ways that a fill of `l` may replace: its partition's, with no forward outstanding (05 R126, R131). -/
def State.replaceable (s : State) (p l : Nat) : List Nat :=
  let bank := s.bankOfLine l
  ((s.unitsAt p bank).flatMap (fun u => s.linesIn u bank)).filter (fun x =>
    x != l && x < 2 ^ 66 && (s.forwards.find x).isNone)

/-- A line that must lie in the cache is filled, in place of another of its partition in its bank where every way is
full (05 R126, R137). (DESIGN CHOICE, notes/assumptions/51.md.) -/
def State.needWay (s : State) (l : Nat) : State :=
  let s1 := s.fillWay l
  if (s1.ways.find l).isSome then s1
  else match s.partOfLine l with
    | none => s
    | some p =>
      let can := s.replaceable p l
      if can.isEmpty then s else (s.replaceLine (s.anyWay l can)).fillWay l

end Sys2Proof.Machine
end

