-- ==== Sys2Proof/Machine/Translate.lean ====
section
/-! DEFINITION. Addresses and translation: locations, the two stages of tables, TLBs and the walk cache
(04 R98 to R117). -/

namespace Sys2Proof.Machine

/-- Fault codes (14 R347). -/
def fcIllegalInstruction : Nat := 0x01
def fcIllegalPair : Nat := 0x02
def fcPrivilege : Nat := 0x03
def fcMisalignedTarget : Nat := 0x04
def fcMisalignedAccess : Nat := 0x05
def fcNotMapped : Nat := 0x06
def fcProtection : Nat := 0x07
def fcPoison : Nat := 0x08
def fcRace : Nat := 0x09
def fcExtNotHeld : Nat := 0x0A
def fcLoopDiverge : Nat := 0x0B
def fcLoopDepth : Nat := 0x0C
def fcQueueMisuse : Nat := 0x0D
def fcEngineCommand : Nat := 0x0E
def fcAccNotOwned : Nat := 0x0F
def fcWidthMisuse : Nat := 0x10
def fcSoftwareTrap : Nat := 0x11
def fcScratchBounds : Nat := 0x12
def fcNotPlaced : Nat := 0x13
def fcIllegalUnit : Nat := 0x14
def fcWatchdog : Nat := 0x15

/-- A translation's failure: fault code and the DETAIL of 14 R348. -/
structure XErr where
  code : Nat
  detail : Nat
  deriving DecidableEq, Repr

/-- DETAIL from its fields (14 R348). -/
def detailOf (reason : Nat) (stage2 : Bool) (level object : Nat) : Nat :=
  reason + (if stage2 then 16 else 0) + level * 32 + object * 128

/-- The fault code of a reason (04 R116). -/
def reasonCode (r : Nat) : Nat :=
  if r ≤ 3 then fcNotMapped else if r == 9 then fcPoison else fcProtection

def xerr (reason : Nat) (stage2 : Bool := false) (level : Nat := 0) (object : Nat := 0) : XErr :=
  ⟨reasonCode reason, detailOf reason stage2 level object⟩

/-- The size of a partition's carve-out grant in bytes (05 R127). -/
def State.grantSize (s : State) (p : Nat) : Nat := (grantUnits (s.preg p 0x08)).length * 2 ^ 26

/-- The byte key of a carve-out offset, which lies within the grant (05 R127). -/
def State.carveKey (s : State) (p o : Nat) : Nat :=
  carveBase + ((grantUnits (s.preg p 0x08)).getD (o / 2 ^ 26) 0) * 2 ^ 26 + o % 2 ^ 26

/-- The index of an address at a level (04 R101). -/
def levelShift (l : Nat) : Nat := 46 - 10 * l
def levelIndex (a l : Nat) : Nat := a / 2 ^ levelShift l % 1024

/-- Fields of word 0 of an entry (04 R102). -/
def peV (w : Nat) : Bool := bitN w 0
def peLoc (w : Nat) : Nat := bitsN w 6 5
def pePol (w : Nat) : Nat := bitsN w 9 8
def peLeaf (w : Nat) : Bool := bitN w 10
def peAddr (w : Nat) : Nat := bitsN w 51 14 * 2 ^ 14

/-- A valid entry is malformed (04 R104, R108). DESIGN CHOICE (notes/assumptions/77.md): R108 says that second-stage
table pages lie in device-physical memory, and a second-stage table pointer with LOC = 1 is malformed. -/
def malformed (w0 w1 level : Nat) (stage2 : Bool) : Bool :=
  let fmt := bitN w1 0
  let fcode := bitsN w1 6 1
  bitsN w0 13 11 != 0 || bitsN w0 63 52 != 0 || bitsN w1 11 9 != 0 || peLoc w0 == 3
    || (peLeaf w0 && level == 0) || (!peLeaf w0 && level == 3)
    || (if peLeaf w0 then
          (peAddr w0 % 2 ^ levelShift level != 0)
          || pePol w0 == 3 || (pePol w0 == 2 && peLoc w0 != 2)
          || (!fmt && (fcode != 0 || bitsN w1 8 7 != 0 || bitsN w1 63 24 != 0))
          || (fmt && !fcodeOk fcode)
          || (stage2 && (peLoc w0 != 0 || fmt || bitN w0 7))
        else
          w1 != 0 || peLoc w0 == 2 || bitsN w0 4 1 != 0 || bitsN w0 9 7 != 0 || (stage2 && peLoc w0 != 0))

/-- An entry as read at the bank: its two words, or that one of its words is poisoned (04 R112, R116).
(DESIGN CHOICE, notes/assumptions/12.md; DEDUCED, notes/assumptions/27.md.) -/
def State.readEntry (s : State) (key : Nat) : Option (Nat × Nat) :=
  let ws := (List.range 4).map (key / 4 + ·)
  if ws.any (fun w => s.regOf w == .p) then none
  else
    let v (i : Nat) : Nat := (s.current (key / 4 + i)).toNat
    some (v 0 + v 1 * 2 ^ 32, v 2 + v 3 * 2 ^ 32)

/-- What a walk reads and keeps: the words it read, and the non-leaf entries for the walk cache. -/
structure WalkLog where
  reads : List Nat := []
  keeps : List (Nat × WalkEntry) := []

/-- A walk that fails: its error, and what it has read and keeps. -/
structure WalkFail where
  e : XErr
  log : WalkLog

/-- The walk cache's key (04 R110). -/
def walkKey (part : Nat) (stage2 : Bool) (ctx level a : Nat) : Nat :=
  (((part * 2 + if stage2 then 1 else 0) * 64 + ctx) * 4 + level) * 2 ^ 40 + a / 2 ^ levelShift level

/-- A second-stage leaf: word 0 and its level. -/
abbrev Leaf2 := Nat × Nat

/-- The second-stage walk from a table over the levels left (04 R108). -/
def State.walk2 (s : State) (p a tbl : Nat) (log : WalkLog) : List Nat → Except WalkFail (Leaf2 × WalkLog)
  | [] => .error ⟨xerr 3 true 3, log⟩
  | l :: ls =>
    match s.walkCache.find (walkKey p true 0 l a) with
    | some e => s.walk2 p a (peAddr e.word.toNat) log ls
    | none =>
      let key := tbl + 16 * levelIndex a l
      if !s.inWindow p key then .error ⟨xerr 7 true l, log⟩
      else
        let log := { log with reads := key :: log.reads }
        match s.readEntry key with
        | none => .error ⟨xerr 9 true l, log⟩
        | some (w0, w1) =>
          if !peV w0 then .error ⟨xerr 2 true l, log⟩
          else if malformed w0 w1 l true then .error ⟨xerr 3 true l, log⟩
          else if peLeaf w0 then .ok ((w0, l), log)
          else s.walk2 p a (peAddr w0)
            { log with keeps := (walkKey p true 0 l a, ⟨p, true, 0, l, a / 2 ^ levelShift l, BitVec.ofNat 64 w0⟩)
                :: log.keeps } ls

/-- The second-stage leaf that maps everything to itself, when the stage is disabled (04 R108). -/
def identity2 : Leaf2 := (0x40E, 0)

/-- A guest-physical address through the second stage: its device-physical address and the leaf (04 R108). DESIGN CHOICE
(notes/assumptions/77.md): RD, WR and WB of the second stage are not checked for the Q9's own accesses, which are no
access under R109 (tables, rings and records); scale arrays and data are checked where their leaf is used. -/
def State.gpaWalk (s : State) (p a : Nat) (log : WalkLog) : Except WalkFail (Nat × Leaf2 × WalkLog) :=
  let root := s.preg p 0x01
  if !bitN root 0 then
    if s.inWindow p a then .ok (a, identity2, log) else .error ⟨xerr 7, log⟩
  else
    match s.walk2 p a (bitsN root 51 14 * 2 ^ 14) log [0, 1, 2, 3] with
    | .error f => .error f
    | .ok ((w0, l), log) =>
      let d := peAddr w0 + a % 2 ^ levelShift l
      if s.inWindow p d then .ok (d, (w0, l), log) else .error ⟨xerr 7 true l, log⟩

/-- A guest-physical address through the second stage, on its own (04 R108). -/
def State.gpa (s : State) (p a : Nat) : Except XErr (Nat × Leaf2 × WalkLog) :=
  match s.gpaWalk p a {} with
  | .ok r => .ok r
  | .error f => .error f.e

/-- The byte key of an address a first-stage table or scale array lies at, in location 0 or 1 (04 R99, R105). -/
def State.tableKey (s : State) (p loc a : Nat) (log : WalkLog) : Except WalkFail (Nat × WalkLog) :=
  if loc == 0 then
    match s.gpaWalk p a log with
    | .ok (d, _, log) => .ok (d, log)
    | .error f => .error f
  else if a < s.grantSize p then .ok (s.carveKey p a, log) else .error ⟨xerr 8, log⟩

/-- A translation error placed at a first-stage level: a second-stage error keeps its own (04 R116). -/
def atLevel (e : XErr) (l object : Nat) : XErr :=
  if bitN e.detail 4 then ⟨e.code, e.detail + object * 128⟩ else ⟨e.code, e.detail % 32 + l * 32 + object * 128⟩

/-- A walk's error placed at a first-stage level. -/
def WalkFail.at_ (f : WalkFail) (l object : Nat) : WalkFail := { f with e := atLevel f.e l object }

/-- The first-stage walk (04 R101 to R104): the leaf's words, its level, and its entry's key and address. DESIGN CHOICE
(notes/assumptions/34.md): the address of an entry whose table lies in the carve-out, which a notification record gives
as a guest-physical address (04 R121), is its carve-out offset. -/
def State.walk1 (s : State) (p ctx a loc tbl : Nat) (log : WalkLog) :
    List Nat → Except WalkFail (Nat × Nat × Nat × Nat × Nat × WalkLog)
  | [] => .error ⟨xerr 3 false 3, log⟩
  | l :: ls =>
    match s.walkCache.find (walkKey p false ctx l a) with
    | some e => s.walk1 p ctx a (peLoc e.word.toNat) (peAddr e.word.toNat) log ls
    | none =>
      let at_ := tbl + 16 * levelIndex a l
      match s.tableKey p loc at_ log with
      | .error f => .error (f.at_ l 0)
      | .ok (key, log) =>
        let log := { log with reads := key :: log.reads }
        match s.readEntry key with
        | none => .error ⟨xerr 9 false l, log⟩
        | some (w0, w1) =>
          if !peV w0 then .error ⟨xerr 2 false l, log⟩
          else if malformed w0 w1 l false then .error ⟨xerr 3 false l, log⟩
          else if peLeaf w0 then .ok (w0, w1, l, key, at_, log)
          else s.walk1 p ctx a (peLoc w0) (peAddr w0)
            { log with keeps := (walkKey p false ctx l a,
                ⟨p, false, ctx, l, a / 2 ^ levelShift l, BitVec.ofNat 64 w0⟩) :: log.keeps } ls

/-- The root of a context: location and address (04 R106). -/
def State.ctxRoot (s : State) (p ctx : Nat) (log : WalkLog) : Except WalkFail (Nat × Nat × WalkLog) :=
  let at_ := bitsN (s.preg p 0x00) 51 10 * 2 ^ 10 + 16 * ctx
  match s.gpaWalk p at_ log with
  | .error f => .error (f.at_ 0 1)
  | .ok (key, _, log) =>
    let log := { log with reads := key :: log.reads }
    match s.readEntry key with
    | none => .error ⟨xerr 9 false 0 1, log⟩
    | some (w0, w1) =>
      if !bitN w0 0 then .error ⟨xerr 2 false 0 1, log⟩
      else if w1 != 0 || bitsN w0 4 1 != 0 || bitsN w0 13 7 != 0 || bitsN w0 63 52 != 0 || 2 ≤ peLoc w0
      then .error ⟨xerr 3 false 0 1, log⟩
      else .ok (peLoc w0, peAddr w0, log)

/-- A whole walk of the page that holds `a`: its leaf, for the smaller of the two stages' page sizes (04 R101 to R109).
The frame of a formatted page need not translate: its zero blocks are backed by nothing (04 R105). -/
def State.walkPage (s : State) (p ctx a : Nat) : Except WalkFail (Leaf × WalkLog) :=
  if bitsN (s.preg p 0x07) 3 0 == 0 then
    .error ⟨⟨fcProtection, detailOf Config.noGroupReason.toNat false 0 0⟩, {}⟩
  else
  match s.ctxRoot p ctx {} with
  | .error f => .error f
  | .ok (loc, tbl, log) =>
    match s.walk1 p ctx a loc tbl log [0, 1, 2, 3] with
    | .error f => .error f
    | .ok (w0, w1, l, entry, entryAt, log) =>
      let leaf : Leaf :=
        { rd := bitN w0 1, wr := bitN w0 2, ex := bitN w0 3, wb := bitN w0 4, loc := peLoc w0, ce := bitN w0 7,
          pol := pePol w0, frame := peAddr w0, level := l, span := l, fmt := bitN w1 0, fcode := bitsN w1 6 1,
          geom := bitsN w1 8 7, scale := bitsN w1 63 24 * 2 ^ 12, entry := entry, entryAt := entryAt }
      if leaf.loc == 0 then
        let at_ := a / 2 ^ 16 * 2 ^ 16
        match s.gpaWalk p (peAddr w0 + at_ % 2 ^ levelShift l) log with
        | .error f =>
          let x := f.at_ l 0
          if leaf.fmt then .ok ({ leaf with span := 3, lost := some (x.e.code, x.e.detail) }, x.log) else .error x
        | .ok (d, (w2, l2), log) =>
          let span := max l l2
          .ok ({ leaf with frame := d - at_ % 2 ^ levelShift span, span := span, rd2 := bitN w2 1, wr2 := bitN w2 2,
                           ex2 := bitN w2 3, wb := leaf.wb || bitN w2 4, pol := max leaf.pol (pePol w2),
                           level2 := l2 }, log)
      else .ok (leaf, log)

/-- A non-leaf entry kept in the walk cache: 128 for each slice of its partition, one of its own replaced beyond them
(04 R110). -/
def State.keepWalk (s : State) (k : Nat) (e : WalkEntry) : State :=
  let own := s.walkCache.keysOf (fun x => x.part == e.part)
  if own.contains k || own.length < 128 * (s.part e.part).slices then { s with walkCache := s.walkCache.set k e }
  else { s with walkCache := (s.walkCache.erase (own.getD (Config.choice s.free % own.length) 0)).set k e,
                free := s.free + 1 }

/-- The walker's reads of released words are forwarded to the cache: the words become U (04 R112, 05 R132). -/
def State.walkEffects (s : State) (log : WalkLog) : State :=
  let words := log.reads.flatMap (fun k => (List.range 4).map (k / 4 + ·))
  let s1 := words.foldl (fun s w => if s.regOf w == .r then s.writeBack w else s) s
  log.keeps.foldl (fun s e => s.keepWalk e.1 e.2) s1

/-- What an access needs of its page (04 R116). -/
structure Need where
  rd : Bool := false
  wr : Bool := false
  ex : Bool := false
  deriving DecidableEq, Repr

/-- A permission error of a leaf, in reason order; what reads and writes is short of RD only where it has WR (04 R109,
R116). -/
def Leaf.denies (l : Leaf) (n : Need) : Option XErr :=
  let e (reason : Nat) (first : Bool) : XErr := xerr reason first (if first then l.level2 else l.level)
  if n.wr && !(l.wr && l.wr2) then some (e 5 l.wr)
  else if n.rd && !(l.rd && l.rd2) then some (e 4 l.rd)
  else if n.ex && !(l.ex && l.ex2) then some (e 6 l.ex)
  else none

/-- The TLB of an agent's core (04 R110): its L1, and its section's L2. -/
def l1Tlb (core : Nat) : Nat := core
def l2Tlb (slice : Nat) : Nat := 512 + slice

/-- The key of a translation in a TLB. -/
def tlbKey (tlb part ctx page : Nat) : Nat := ((tlb * 32 + part) * 64 + ctx) * 2 ^ 48 + page

/-- Where an access goes: its byte key, its page's policy and write-block, and its leaf. -/
structure Place where
  key : Nat
  pol : Nat := 0
  wb : Bool := false
  region : Nat := 0
  leaf : Leaf := {}
  deriving DecidableEq, Repr

/-- What a translation gives. -/
inductive XRes where
  | place (p : Place)
  | miss (page : Nat)
  | fault (e : XErr)
  deriving DecidableEq, Repr

/-- The counter of a counted page, for a request of a context (04 R119). (DEDUCED, notes/assumptions/34.md.) -/
def countOn (p ctx va : Nat) (l : Leaf) : Option CountInc :=
  if l.loc == 2 && l.ce then
    some { part := p, ctx := ctx, entry := l.entry, entryAt := l.entryAt,
           page := va / 2 ^ levelShift l.level * 2 ^ levelShift l.level, size := 3 - l.level }
  else none

/-- A counted request is due its increment, which is applied within 4 us of it (04 R119). -/
def State.countDue (s : State) (c : Option CountInc) (line : Nat) : State :=
  match c with
  | some c => { s with counts := s.counts ++ [{ c with tick := s.tick, line := line }] }
  | none => s

/-- Of the requests that one word or one beat has made since there were `n`, those of one line are one (17 R422). -/
def State.oncePerLine (s : State) (n : Nat) : State :=
  let new := (s.counts.drop n).foldl (fun (m : List CountInc) c =>
    if m.any (fun x => x.entry == c.entry && x.line == c.line) then m else m ++ [c]) []
  { s with counts := s.counts.take n ++ new }

/-- The place of an address under a leaf, with the window and grant checks of 04 R99. -/
def State.placeAt (s : State) (p ctx a : Nat) (leaf : Leaf) : XRes :=
  let at_ := leaf.frame + a % 2 ^ levelShift leaf.span
  let region := regionOf (s.context p ctx) a
  if let some (code, detail) := leaf.lost then .fault ⟨code, detail⟩
  else if leaf.loc == 0 then
    if s.inWindow p at_ then .place ⟨at_, leaf.pol, leaf.wb, region, leaf⟩
    else .fault (if bitN (s.preg p 0x01) 0 then xerr 7 true leaf.level2 else xerr 7 false leaf.level)
  else if leaf.loc == 1 then
    if at_ < s.grantSize p then .place ⟨s.carveKey p at_, leaf.pol, leaf.wb, region, leaf⟩
    else .fault (xerr 8 false leaf.level)
  else if leaf.pol == 2 then .place ⟨hostBase + at_ % 2 ^ 52, 2, leaf.wb, region, leaf⟩
  else .place ⟨hostCopyKey p at_, leaf.pol, leaf.wb, region, leaf⟩

/-- The first 64 KiB page of the page of a level that holds a 64 KiB page. -/
def spanPage (level page : Nat) : Nat := page / 2 ^ (levelShift level - 16) * 2 ^ (levelShift level - 16)

/-- The translation of a page that a TLB holds, of any page size (04 R109, R110). -/
def State.tlbHas (s : State) (tlb part ctx page : Nat) : Option TlbEntry :=
  [3, 2, 1].findSome? (fun l =>
    match s.tlb.find (tlbKey tlb part ctx (spanPage l page)) with
    | some e => if e.leaf.span == l then some e else none
    | none => none)

/-- The translation of a page that the issuing agent's TLBs hold (04 R110). -/
def State.tlbFind (s : State) (page : Nat) : Option TlbEntry :=
  let m := s.me
  match s.tlbHas (l1Tlb m.core) m.part m.ctx page with
  | some e => some e
  | none => if m.isWarp then s.tlbHas (l2Tlb m.slice) m.part m.ctx page else none

/-- A translation by the issuing agent's TLBs, for what the access needs (04 R98, R110, R116). -/
def State.xlate (s : State) (va : DWord) (n : Need) : XRes :=
  let a := va.toNat
  if 2 ^ 56 ≤ a then .fault (xerr 1)
  else
    let page := a / 2 ^ 16
    let m := s.me
    match s.tlbFind page with
    | some e =>
      match e.leaf.denies n with
      | some x => .fault x
      | none => s.placeAt m.part m.ctx a e.leaf
    | none =>
      match m.xfaults.find? (fun f => f.page == page) with
      | some f => .fault ⟨f.code, f.detail⟩
      | none => .miss page

/-- What a translation of a context gives an engine or the Q9 itself, whose walks State.walked runs (04 R111, R112).
(DESIGN CHOICE, notes/assumptions/17.md.) -/
def State.xlateNow (s : State) (p ctx : Nat) (va : DWord) (n : Need) : Except XErr Place :=
  let a := va.toNat
  if 2 ^ 56 ≤ a then .error (xerr 1)
  else match s.walkPage p ctx a with
    | .error f => .error f.e
    | .ok (leaf, _) =>
      match leaf.denies n with
      | some x => .error x
      | none => match s.placeAt p ctx a leaf with
        | .place q => .ok q
        | .fault e => .error e
        | .miss _ => .error (xerr 2)

/-- A walk has a requester of a core: it takes an entry of the core's miss table (04 R111). -/
def Walk.ofCore (k : Walk) (core : Nat) : Bool := k.agents.any (fun id => Agent.core { kind := kindOf id } == core)

/-- The walks that a partition's walkers run: the first to arrive, eight for each of its slices (04 R112). -/
def State.walking (s : State) (p : Nat) : List Nat := (s.walks.keysOf (fun k => k.part == p)).take (8 * (s.part p).slices)

/-- Entries of a core's miss table (04 R110). -/
def missEntries : Nat := 512

/-- A missing translation is requested: the miss joins the walk of its page where there is one; one that would take an
entry of a full miss table requests nothing (04 R110, R111). (DESIGN CHOICE, notes/assumptions/17.md.) -/
def State.requestWalk (s : State) (page : Nat) : State × Option Nat :=
  let m := s.me
  let full := missEntries ≤ (s.walks.keysOf (·.ofCore m.core)).length
  match s.walks.find? (fun e => e.2.part == m.part && e.2.ctx == m.ctx && e.2.page == page) with
  | some (w, k) =>
    if full && !k.ofCore m.core then (s, none)
    else ({ s with walks := s.walks.set w { k with agents := m.id :: k.agents.filter (· != m.id) } }, some w)
  | none =>
    if full then (s, none)
    else
      ({ s with walks := s.walks.set s.nextId { part := m.part, ctx := m.ctx, page := page, core := m.core, agents := [m.id] }, nextId := s.nextId + 1 },
        some s.nextId)

/-- A host line the partition's cache holds no copy of is filled from the host (05 R126, 15 R390). -/
def State.touchHost (s : State) (w : Nat) : State :=
  let k := 4 * w
  if k < hostCopyBase || hostBase ≤ k then s
  else if (s.hostLines.find (lineOf w)).isSome then s
  else
    let bus := (k - hostCopyBase) % 2 ^ 52 / 128 * 128
    let src := (hostBase + bus) / 4
    let dst := lineOf w * 32
    ({ s with hostLines := s.hostLines.set (lineOf w) false,
              mem := (List.range 32).foldl (fun m i => m.setWord (dst + i) (m.word (src + i))) s.mem }).fillWay (lineOf w)

end Sys2Proof.Machine
end

