-- ==== Sys2Proof/Machine/Ops.lean ====
section
/-! DEFINITION. The named operations every meaning uses: writing through the two stages, the rings and records the Q9
appends, taking a fault and returning from one (14 R347 to R361), the stop line (14 R351 to R355), and the checks and
the retirement of a guarded word (00 R7; 02 R38, R39; 10 R251). -/

namespace Sys2Proof.Machine

/-! ### Writes the Q9 itself makes -/

/-- A word written by the Q9 itself, at the bank, once an outstanding forward of its line is answered (05 R131); watches
fire (07 R196). -/
def State.putAt (s : State) (w : Nat) (v : Word) : State := (s.settleForward (lineOf w)).bankWrite w v

/-- Words written at a device-physical address by the Q9 itself. -/
def State.putWords (s : State) (d : Nat) (ws : List Word) : State :=
  (List.range ws.length).foldl (fun s i => s.putAt (d / 4 + i) (ws.getD i 0)) s

/-- Words written at a guest-physical address within one page of the second stage; nothing where it does not translate
(04 R108). -/
def State.putPage (s : State) (p a : Nat) (ws : List Word) : State :=
  match s.gpa p a with
  | .error _ => s
  | .ok (d, _, log) => (s.walkEffects log).putWords d ws

/-- Words written at a guest-physical address of a partition, page by page. -/
def State.putGpa (s : State) (p a : Nat) (ws : List Word) : State :=
  let first := (65536 - a % 65536) / 4
  if ws.length ≤ first then s.putPage p a ws
  else (List.range (1 + (ws.length - first + 16383) / 16384)).foldl (fun s i =>
    if i == 0 then s.putPage p a (ws.take first)
    else s.putPage p (a + 4 * first + 65536 * (i - 1)) ((ws.drop (first + 16384 * (i - 1))).take 16384)) s

/-- A word read at a guest-physical address; 0 where it does not translate. -/
def State.getWord (s : State) (p a : Nat) : Word :=
  match s.gpa p a with
  | .error _ => 0
  | .ok (d, _, _) => s.current (d / 4)

/-- Words read at a guest-physical address, each where it lies. -/
def State.getGpa (s : State) (p a n : Nat) : List Word := (List.range n).map (fun i => s.getWord p (a + 4 * i))

/-- A record appended to a ring: `mk` builds its words around the sequence number. A full ring drops it, sets its
overflow bit and counts it (04 R121, R122). The index it took, if any, beside the state. -/
def State.append (s : State) (p : Nat) (r : Ring) (mk : Nat → List Word) : State × Option Nat :=
  let base := s.preg p r.base
  let head := s.preg p r.head
  let tail := s.preg p r.tail
  let size := 2 ^ bitsN base 3 0
  if (head + 2 ^ 32 - tail) % 2 ^ 32 == size then
    let s1 := s.setPreg p r.ovfReg (BitVec.ofNat 64 (s.preg p r.ovfReg ||| 2 ^ r.ovfBit))
    (match r.drop with
      | some d => s1.setPreg p d (BitVec.ofNat 64 ((s1.preg p d + 1) % 2 ^ 32))
      | none => s1, none)
  else
    let at_ := bitsN base 51 12 * 2 ^ 12 + r.stride * (head % size)
    ((s.putGpa p at_ (mk (seqOf head))).setPreg p r.head (BitVec.ofNat 64 ((head + 1) % 2 ^ 32)), some head)

def wordN (x : Nat) : Word := BitVec.ofNat 32 x

/-- The tick as a record holds it (16 R405). -/
def State.tickWords (s : State) : List Word := words64 s.tick

/-- A poison-map record (14 R376). (DEDUCED, notes/assumptions/47.md; DEDUCED, notes/assumptions/62.md.) -/
def State.poisonRecord (s : State) (p : Nat) (addr : DWord) (kind ctx who : Nat) (what : Nat) : State :=
  (s.append p poisonRing (fun q => s.tickWords ++ words64 addr.toNat
    ++ [wordN (kind + ctx * 256 + who * 65536)] ++ words64 what ++ [wordN q])).1

/-- A correctable error of a kind counted, saturating (16 R409). -/
def State.countCorrectable (s : State) (p kind : Nat) : State :=
  let r := 0x1C0 + 4 * (kind % 8)
  s.setPreg p r (BitVec.ofNat 64 (min (2 ^ 32 - 1) (s.preg p r + 1)))

/-- Who made an access that lost or caught a race, as a race record names it (05 R141).
(DEDUCED, notes/assumptions/62.md.) -/
def issuerCode (core : Nat) (agent : Nat) : Nat :=
  if core < 256 then core else 0x10000 + (agent - 8192)

/-! ### Interrupts to the host (15 R395) -/

def State.fireVf (s : State) (p : Nat) (ctx : Option Nat) (vector : Nat) : State :=
  { s with hostOut := s.hostOut ++ (s.vfs.filter (fun e => e.2.en && !e.2.off && e.2.first == p &&
      (if vector == 0 then some e.2.ctx == ctx else e.2.sup))).map (fun e => .vfVector e.1 vector) }

def State.firePf (s : State) : State := { s with hostOut := s.hostOut ++ [.pfVector] }

/-! ### Stop records (14 R353, R354) -/

/-- The slot of an engine in its partition's stop area (14 R353). -/
def stopSlot (p n : Nat) (e : EngineId) (copies : List Nat) : Nat :=
  match e with
  | .warp c sl => 1 + 32 * (c - 8 * p) + sl
  | .matrix c => 1 + 256 * n + (c - 8 * p)
  | .conductor t => 1 + 264 * n + (t - 8 * p)
  | .copy k => 1 + 272 * n + copies.idxOf k
  | .walker _ w => 1 + 272 * n + 64 + w

/-- The copy engines that a partition is granted, in ascending order (15 R385, R386). -/
def Part.engines (q : Part) : List Nat := (List.range 64).filter (fun e => bitN q.cegrp (e / 2))

/-- The copy engines of a partition, one of a removed group among them until its current command completes (15 R386). -/
def State.copyEngines (s : State) (p : Nat) : List Nat :=
  (List.range 64).filter (fun e => bitN (s.part p).cegrp (e / 2)
    || s.cmds.anyV (fun c => c.part == p && c.running == some e))

/-- Kind and number of an engine as a record gives them (14 R354). -/
def engineKind : EngineId → Nat × Nat
  | .warp c _ => (0, c)
  | .matrix c => (1, c)
  | .conductor t => (2, t)
  | .copy k => (3, k)
  | .walker _ w => (4, w)

/-- A 64-byte slot of the stop area written: at XSTBASE, or from address 0 of the partition's window where software
has not set it (14 R353, R380). -/
def State.putStop (s : State) (p slot : Nat) (ws : List Word) : State :=
  let b := bitsN (s.preg p 0x12) 51 12 * 2 ^ 12
  if b == 0 then s.putWords (p * 2 ^ 36 + 64 * slot) ws
  else s.putGpa p (b + 64 * slot) ws

/-- A stop record of an engine (14 R354).
(DESIGN CHOICE, notes/assumptions/31.md; DEDUCED, notes/assumptions/66.md.) -/
def State.stopRecord (s : State) (p : Nat) (e : EngineId) (tick : Nat) (pc addr : DWord) (num info : Word)
    (grid ctx reason skid replays : Nat) : State :=
  let q := s.part p
  let (kind, number) := engineKind e
  s.putStop p (stopSlot p q.slices e (s.copyEngines p))
    (words64 tick ++ words64 pc.toNat ++ words64 addr.toNat ++ [num, info, wordN grid,
      wordN (ctx + kind * 2 ^ 8 + reason * 2 ^ 16 + skid * 2 ^ 24), wordN (number + replays * 2 ^ 16)]
      ++ List.replicate 5 0)

/-- The roll-call summary in slot 0 (14 R355). -/
def State.summary (s : State) (p : Nat) (pc addr : DWord) (info num : Word) (grid ctx reason acks : Nat) : State :=
  s.putStop p 0 (s.tickWords ++ words64 pc.toNat ++ words64 addr.toNat ++ [info, num, wordN grid,
    wordN (ctx + reason * 2 ^ 8 + acks * 2 ^ 16)] ++ List.replicate 6 0)

/-- The next stop number, kept in XSTNUM (14 R353). -/
def State.nextStop (s : State) (p : Nat) : State × Word :=
  let n := seqOf (s.preg p 0x13)
  (s.setPreg p 0x13 (BitVec.ofNat 64 n), wordN n)

/-! ### Faults -/

/-- %trapinfo from its fields (14 R348). -/
def trapInfo (code lane detail : Nat) (late : Bool) : Word :=
  wordN (code + lane % 64 * 2 ^ 8 + (if late then 2 ^ 14 else 0) + detail % 2 ^ 16 * 2 ^ 16)

/-- Every engine of a partition that a stop reaches (14 R352, R353). -/
def State.enginesOf (s : State) (p : Nat) : List EngineId :=
  let q := s.part p
  let n := q.slices
  (s.agents.filterMap (fun a => match a.kind with
      | .warp c sl => if a.part == p then some (EngineId.warp c sl) else none
      | _ => none))
    ++ (List.range (8 * n)).map (fun c => .matrix (8 * p + c))
    ++ (List.range (8 * n)).map (fun t => .conductor (8 * p + t))
    ++ (s.copyEngines p).map .copy ++ (List.range (8 * n)).map (fun w => .walker p w)

/-- A conductor thread that runs. -/
def Agent.runs (a : Agent) : Bool := !a.isWarp && a.kind != .management && bitN a.xqctl.toNat 9

/-- A user conductor thread, in its trap handler too, which it leaves for user level (14 R361, R366, R367). -/
def Agent.userThread (a : Agent) : Bool :=
  !a.isWarp && (a.level == .user || (a.level == .supervisor && bitN a.xtstat.toNat 33 && !bitN a.xtstat.toNat 32))

/-- A fault charged to a grid asserts its partition's stop line, or joins the stop in progress (14 R351, R355). -/
def State.chargeFault (s : State) (p : Nat) (r : FaultRec) : State :=
  let (s1, stop) := match (s.part p).stop with
    | some st => (s, st)
    | none =>
      let (s1, num) := s.nextStop p
      (s1, { num := num, reason := 0 })
  let first := match stop.first with
    | some f =>
      let q := s.part p
      let slot (e : EngineId) : Nat := stopSlot p q.slices e (s.copyEngines p)
      if r.tick < f.tick || (r.tick == f.tick && slot r.engine < slot f.engine) then r else f
    | none => r
  let charged := if stop.charged.any (fun e => e.1 == r.grid) then stop.charged else stop.charged ++ [(r.grid, r.code)]
  s1.updPart p (fun q => { q with
    stop := some { stop with first := some first, faults := stop.faults ++ [r], charged := charged },
    grids := match q.grids.find r.grid with
      | some g => q.grids.set r.grid { g with fault := match g.fault with
          | some f => some f
          | none => some r }
      | none => q.grids })

/-- A conductor thread stops: RUN reads 0, its record and a summary are written under a new stop number, and the
host's vectors fire (14 R361, 15 R395). (DESIGN CHOICE, notes/assumptions/30.md.) -/
def State.stopThread (s : State) (id : Nat) (info : Word) (pc addr : DWord) (reason : Nat) : State :=
  match s.agent id with
  | none => s
  | some a =>
    let a1 := { a with trapinfo := info, xqctl := a.xqctl &&& ~~~0x200, parks := [],
                       threads := a.threads.map (fun t => { t with st := .exited }) }
    let s1 := s.setAgent a1
    match a.kind with
    | .conductor t =>
      let (s2, num) := s1.nextStop a.part
      let s3 := s2.stopRecord a.part (.conductor t) s.tick pc addr num info 0 a.ctx reason 0 0
      let s4 := s3.summary a.part pc addr info num 0 a.ctx reason 1
      let s5 := if a.userThread then s4.fireVf a.part (some a.ctx) 0 else s4
      s5.fireVf a.part none 1
    | _ => s1

/-- XTSTAT from its fields (14 R380). -/
def xtstatOf (info : Word) (supervisor intrap : Bool) : DWord :=
  BitVec.ofNat 64 (info.toNat + (if supervisor then 2 ^ 32 else 0) + (if intrap then 2 ^ 33 else 0))

/-- A thread sent to an address that is its meeting address is held there (11 R278). -/
def Thread.sent (base pc : DWord) (t : Thread) : Thread :=
  { t with pc := pc, st := if meetAddr base t.meet == some pc then .atMeet else .runnable }

/-- A fault of a conductor thread: a supervisor trap of a user thread where XCTVEC.EN is 1, else the thread stops
(14 R361). -/
def State.threadFault (s : State) (a : Agent) (info : Word) (pc addr : DWord) : State :=
  let vec := s.preg a.part 0x20
  if a.level == .user && bitN vec 0 && !bitN a.xtstat.toNat 33 then
    let b := ({ a with
      level := .supervisor, trapinfo := info, xtepc := pc, xtaddr := addr, xtstat := xtstatOf info false true,
      parks := [], xfaults := [],
      threads := a.threads.map (Thread.sent a.codeBase (BitVec.ofNat 64 (bitsN vec 55 3 * 8))) }).settle settleFuel
    (s.setAgent b.1).countEvent a.part a.ctx 5 b.2
  else s.stopThread a.id info pc addr 0

/-- TAKING A FAULT of the issuing agent's word: the word does not retire. A warp's fault is charged to its grid; a
conductor thread's is handled under 14 R361. (DESIGN CHOICE, notes/assumptions/30.md.) -/
def State.takeFault (s : State) (code lane detail : Nat) (addr : DWord) : State :=
  let a := s.me
  let info := trapInfo code lane detail false
  match a.kind with
  | .warp c sl =>
    let a1 := { a with trapinfo := info, halted := .stop, xfaults := [],
                       parks := a.parks.filter (fun p => p.pc != s.issuePc) }
    ({ s with me := a1 }).chargeFault a.part ⟨code, info, s.issuePc, addr, a.grid, a.ctx, s.tick, .warp c sl, 0⟩
  | _ => s.threadFault a info s.issuePc addr

/-- A fault with no lane, detail or address of its own. -/
def State.faultHere (s : State) (code : Nat) (lane : Nat := 0) : State := s.takeFault code lane 0 0

/-- A late fault, charged after its word has retired to a grid, or to the conductor thread that made the access, with the
address of the word that is charged (14 R348, R349; 07 R174). A race is charged to a thread once the word that it is in
has retired, for it resumes after that word (05 R140). -/
def State.lateFault (s : State) (p grid ctx agent : Nat) (code detail : Nat) (pc addr : DWord)
    (engine : EngineId) (lane : Nat := 0) (reason : Nat := 0) : State :=
  let info := trapInfo code lane detail true
  if grid != 0 then
    (s.updAgent agent (fun a => if a.isWarp && a.grid == grid then { a with trapinfo := info } else a)).chargeFault p
      ⟨code, info, pc, addr, grid, ctx, s.tick, engine, reason⟩
  else match s.agent agent with
    | some a =>
      if a.isWarp then s
      else if code == fcRace then s.setAgent { a with late := a.late.orElse (fun _ => some ⟨info, pc, addr⟩) }
      else s.threadFault a info pc addr
    | none => s

/-- The handler address of %trapvec (14 R350). -/
def Agent.handler (a : Agent) : DWord := a.codeBase + ((a.trapvec &&& 0xFFFFFFF8).setWidth 64)

/-- RETURN FROM A CONDUCTOR TRAP: the program counter is XTEPC, the level PPL, and INTRAP is cleared (14 R361). -/
def State.trapReturn (s : State) : State :=
  let a := s.me
  { s with me := { a with
      level := if bitN a.xtstat.toNat 32 then .supervisor else .user,
      xtstat := a.xtstat &&& ~~~0x200000000,
      parks := [],
      threads := a.threads.map (Thread.sent a.codeBase a.xtepc) } }.settle

/-- THE ENTRY OF A TRAP HANDLER for lanes of the issuing agent: the link in v(B−2):(B−1), the program counter at the
handler, %trapinfo written (14 R358, R359). Other threads stand. -/
def State.enterHandler (s : State) (lanes : List Nat) (link : Nat → DWord) (info : Word) : State :=
  let a := s.me
  let s1 := s.setRegs (lanes.flatMap (fun l =>
    [(l, a.regB - 2, lo32 (link l)), (l, a.regB - 1, hi32 (link l))]))
  s1.updMe (fun x => { x with
    trapinfo := info,
    threads := mapLanes (fun l t => if lanes.contains l then t.sent a.codeBase a.handler else t) x.threads })

/-- SOFTWARE_TRAP of the lanes that pass a trap word's guard: with %trapvec.SE they enter the handler and SE is
cleared, the rest of the group going on (14 R358); else it is a fault (11 R293). -/
def State.softwareTrap (s : State) (act : List Nat) (code : Nat) : State :=
  if bitN s.me.trapvec.toNat 1 then
    let rest := s.group.filter (fun l => !act.contains l)
    let s1 := s.enterHandler act (fun _ => s.issuePc) (trapInfo fcSoftwareTrap (act.headD 0) code false)
    let s2 := s1.updMe (fun a => { a with
      trapvec := a.trapvec &&& ~~~2#32, parks := a.parks.filter (fun p => p.pc != s.issuePc) })
    s2.moveTo rest (fun _ => s.issuePc + 8)
  else s.takeFault fcSoftwareTrap (act.headD 0) code 0

/-! ### Races (05 R140, R141) -/

/-- Who an access belongs to, for races and late faults. -/
structure Party where
  part : Nat
  ctx : Nat
  grid : Nat
  agent : Nat
  issuer : Nat                    -- the issuer code of a race record
  mode : Nat
  pc : DWord
  engine : EngineId := .walker 0 0
  lane : Nat := 0                 -- the lane of a warp's access

/-- A command of a copy engine was a party to a caught race of a word: the one that the engine runs, or the one that
landed the word (08 R209). -/
def State.racedCommand (s : State) (owner : Nat) (p : Nat → Command → Bool) : State :=
  if owner < 0x020 || 0x060 ≤ owner then s
  else { s with cmds := s.cmds.mapV (fun c => if p (owner - 0x020) c then { c with res := 2 } else c) }

/-- A caught race is counted, recorded under the mode in force, and charged in mode 2 (05 R133, R140, R141).
(DESIGN CHOICE, notes/assumptions/16.md; DEDUCED, notes/assumptions/54.md.) -/
def State.reportRace (s : State) (x : Nat) (w : Nat) (race : Race) (access : Nat) (by_ : Party) : State :=
  let s1 := ((s.countEvent by_.part by_.ctx 12 1).racedCommand x (fun e c => c.running == some e)).racedCommand race.y
    (fun e c => c.landed.find w == some e)
  if by_.mode == 0 then s1
  else
    let st := if race.wasOl then 2 else 1
    let (s2, idx) := s1.append by_.part raceRing (fun q => s.tickWords ++ words64 (s.recordAddr w).toNat
      ++ [wordN (x + race.y * 65536), wordN (access + st * 2 ^ 8 + by_.ctx * 2 ^ 16), wordN by_.issuer, wordN q])
    let s3 := s2.updPart by_.part (fun q => match q.grids.find by_.grid with
      | some g => { q with grids := q.grids.set by_.grid { g with race := true } }
      | none => q)
    if by_.mode == 2 then
      s3.lateFault by_.part by_.grid by_.ctx by_.agent fcRace
        (match idx with
          | some i => seqOf i % 2 ^ 16
          | none => 0) by_.pc (s.recordAddr w) by_.engine by_.lane
    else s3

/-- A race reported where there was one. -/
def State.reportMaybe (s : State) (x w : Nat) (race : Option Race) (access : Nat) (by_ : Party) : State :=
  match race with
  | some r => s.reportRace x w r access by_
  | none => s

/-! ### The checks of a guarded word -/

/-- A register the agent may name: below B, or of the extended set while it holds the lock (02 R38; 09 R224, R225). -/
def State.holds (s : State) (n : Nat) : Bool :=
  !s.me.isWarp || (if n < 128 then n < s.me.regB else s.holdsLock && n < 128 + s.me.regE)

/-- A register element of a lane is poisoned (14 R374). -/
def State.poisoned (s : State) (lane n : Nat) : Bool :=
  s.rfPoison.get false (rowKey s.me (s.me.base + lane) n)

/-- The registers a field names. -/
def fieldRegs (f : Field) (t : Ty) (x : BitVec 8) : List Nat := (List.range (f.span t)).map (x.toNat + ·)

/-- A guarded word: EXT_NOT_HELD of its guard and, once a lane passes, of the registers it names; POISON of an active
lane's sources, and of those that only the lowest active lane reads; then its effect on the active lanes (02 R38, R39;
10 R251). DESIGN CHOICE (notes/assumptions/22.md): a poisoned guard is no source element, and is read with no fault.
(DEDUCED, notes/assumptions/22.md.) -/
def State.guarded (s : State) (g : BitVec 8) (gn : Bool) (named sources : List Nat)
    (effect : List Nat → State) (first : List Nat := []) : State :=
  if g != 0 && !s.holds g.toNat then s.faultHere fcExtNotHeld (s.group.headD 0)
  else
    let act := s.active g gn
    if act.isEmpty then effect []
    else if !named.all s.holds then s.faultHere fcExtNotHeld (act.headD 0)
    else match act.find? (fun l => sources.any (s.poisoned l) || (some l == act.head? && first.any (s.poisoned l))) with
      | some l => s.faultHere fcPoison l
      | none => effect act

/-- The registers a W3 word names, and those it reads, under its shape (02 R38). -/
def w3Sources (h : W3Shape) (w : W3) : List Nat :=
  fieldRegs h.a w.ty w.a ++ fieldRegs h.b w.ty w.b ++ fieldRegs h.c w.ty w.c
def w3Named (h : W3Shape) (w : W3) : List Nat := fieldRegs h.d w.ty w.d ++ w3Sources h w

/-- A W3 word that acts once with the operands of the lowest active lane: SYNC, COPY's cpy, TAG, GONG, CHIME, LAUNCH and
SYSTEM, smovw but of %meet, rngseed and rngskip, trap (07 R195; 08 R204, R211, R215, R216; 09 R230, R249; 11 R293;
13 R327; 14 R381). -/
def w3Once (major fn : Nat) (w : W3) : Bool :=
  match major with
  | 0x1B | 0x21 | 0x22 | 0x23 | 0x30 | 0x38 => true
  | 0x20 => fn == 0
  | 0x0A => fn == 1 && w.a != 8
  | 0x09 => fn == 4 || fn == 5
  | 0x11 => fn == 3
  | _ => false

/-- What a W3 word reads in every active lane, and what in the lowest one alone. -/
def w3Reads (major fn : Nat) (h : W3Shape) (w : W3) : List Nat × List Nat :=
  let a := fieldRegs h.a w.ty w.a
  let b := fieldRegs h.b w.ty w.b
  let c := fieldRegs h.c w.ty w.c
  if w3Once major fn w then ([], a ++ b ++ c)
  else if major == 0x20 then (if fn == 2 then (b, a ++ c) else (a, b ++ c))
  else (a ++ b ++ c, [])

/-- A guarded W3 word of a major and fn. (DEDUCED, notes/assumptions/22.md.) -/
def State.w3 (s : State) (major fn : Nat) (w : W3) (effect : List Nat → State) : State :=
  match w3Shape major fn w with
  | some h => s.guarded w.g w.gn (w3Named h w) (w3Reads major fn h w).1 effect (w3Reads major fn h w).2
  | none => s.faultHere fcIllegalInstruction

/-- A word that acts once for its agent with the operands of the lowest active lane: no lane, no effect. -/
def State.once (s : State) (act : List Nat) (effect : Nat → State) : State :=
  match act with
  | [] => s.retire
  | x :: _ => effect x

/-- Status merged into %fexc and %iexc when the word retires (10 R252). -/
def State.merge (s : State) (fe ie : Nat) : State :=
  s.updMe (fun a => { a with fexc := a.fexc ||| BitVec.ofNat 32 fe, iexc := a.iexc ||| BitVec.ofNat 32 ie })

/-- Registers enter an active warp's register cache, the latest first, six at most (09 R233). -/
def State.cacheRegs (s : State) (ns : List Nat) : State :=
  if s.me.isWarp && s.me.sched == .active then s.updMe (fun a => { a with cache := (ns ++ a.cache.filter (fun n => !ns.contains n)).take 6 })
  else s

/-- The unit check (02 R51): a fault unless the agent may execute the word. -/
def State.warpOnly (s : State) (k : State) : State :=
  if s.me.isWarp then k else s.faultHere fcIllegalUnit (s.group.headD 0)
def State.threadOnly (s : State) (k : State) : State :=
  if s.me.isWarp then s.faultHere fcIllegalUnit (s.group.headD 0) else k

/-- The privilege check of a SYSTEM word (01 R27; 02 R51). -/
def State.privileged (s : State) (k : State) : State :=
  if s.me.isWarp || s.me.level == .user then s.faultHere fcPrivilege (s.group.headD 0) else k

end Sys2Proof.Machine
end

