-- ==== Sys2Proof/Machine/Flags.lean ====
section
/-! DEFINITION. Status and rounding of a word: what its lanes merge into %fexc and %iexc (10 R252), the mode it
rounds in (02 R43; 03 R68; 10 R253) and the draw of stochastic rounding (03 R71; 09 R247). -/

namespace Sys2Proof.Machine

/-- What a lane of a word gives: its register writes and its status bits. -/
structure LaneOut where
  writes : Writes
  fe : Nat := 0
  ie : Nat := 0
  deriving DecidableEq, Repr

/-- The OR of the status of a word's lanes (10 R252). -/
def orFe (outs : List LaneOut) : Nat := outs.foldl (fun a o => a ||| o.fe) 0
def orIe (outs : List LaneOut) : Nat := outs.foldl (fun a o => a ||| o.ie) 0

/-- The generator function (09 R247). -/
def genH (key x : DWord) : DWord :=
  let z := x ^^^ key
  let z := z ^^^ (z >>> 33)
  let z := z * 0xA3B195C4D27E6F4B
  let z := z ^^^ ((key >>> 32) ||| (key <<< 32))
  let z := z ^^^ (z >>> 29)
  let z := z * 0x8E5D2B7C41F3A967
  z ^^^ (z >>> 32)

/-- The frame position of a lane: 0 on a conductor thread (09 R229, R249). -/
def State.pos (s : State) (lane : Nat) : Nat := if s.me.isWarp then s.me.base + lane else 0

/-- What a lane draws under the agent's key and counter (03 R71, 09 R247). -/
def State.draw (s : State) (lane : Nat) : DWord :=
  genH s.me.rngKey (s.me.rngCtr + BitVec.ofNat 64 (s.pos lane * 2 ^ 40))

/-- The rounding code in force: %fpmode for code 6; a code 5 that is not admitted there is rne (10 R253). -/
def State.roundCode (s : State) (m : BitVec 3) (admitsSr : Bool) : Nat :=
  let c := if m == 6 then bitsN s.me.fpmode.toNat 2 0 else m.toNat
  if c == 5 && !admitsSr then 0 else c

/-- The word takes a draw: it rounds stochastically (03 R71). -/
def State.draws (s : State) (m : BitVec 3) (admitsSr : Bool) : Bool := s.roundCode m admitsSr == 5

/-- The mode in which an element of a lane rounds (02 R43; 03 R71). -/
def State.mode (s : State) (m : BitVec 3) (admitsSr : Bool) (lane elem : Nat) : Rnd :=
  match s.roundCode m admitsSr with
  | 1 => .rtz
  | 2 => .rup
  | 3 => .rdn
  | 4 => .rna
  | 5 => .sr ((s.draw lane).toNat / 2 ^ (32 * elem) % 2 ^ 32)
  | _ => .rne

/-- The generator's counter advances by one (03 R71; 09 R249). -/
def State.advanceRng (s : State) : State := s.updMe (fun a => { a with rngCtr := a.rngCtr + 1 })

/-- The word retires with its lanes' results: writes after reads, status merged, a draw taken where it rounds
stochastically (10 R251, R252; 03 R71). -/
def State.finish (s : State) (outs : List LaneOut) (draws : Bool := false) : State :=
  let ws := outs.flatMap (·.writes)
  let s1 := (s.setRegs ws).merge (orFe outs) (orIe outs)
  let s2 := if draws then s1.advanceRng else s1
  (s2.cacheRegs ((ws.map (fun w => w.2.1)).eraseDups.take 6)).retire

end Sys2Proof.Machine
end

