-- ==== Sys2Proof/Machine/Operands.lean ====
section
/-! DEFINITION. Operand forms: registers and pairs by type (02 R38 to R41), packed elements (03 R65), immediates
(02 R33; 10 R256), and the address of each lane of a memory word with its space (07 R169 to R172). -/

namespace Sys2Proof.Machine

/-- The three register operands of a W3 word in ty form. -/
def State.opA (s : State) (w : W3) (l : Nat) : DWord := s.operand w.ty l w.a.toNat
def State.opB (s : State) (w : W3) (l : Nat) : DWord := s.operand w.ty l w.b.toNat
def State.opC (s : State) (w : W3) (l : Nat) : DWord := s.operand w.ty l w.c.toNat

/-- One 32-bit register of a lane as a number. -/
def State.nat32 (s : State) (l n : Nat) : Nat := (s.reg l n).toNat

/-- One 32-bit register of a lane as i32. -/
def State.int32 (s : State) (l n : Nat) : Int := (s.reg l n).toInt

/-- imm32 extended to W bits: sign-extended for i32 and i64, zero-extended for the rest (02 R33, 10 R256). -/
def immExt (t : Ty) (imm : BitVec 32) : DWord := if tySigned t then imm.signExtend 64 else imm.setWidth 64

/-- One element operation over the elements of a lane's operand, with its status (03 R65). -/
def mapElems (t : Ty) (x : DWord) (f : Nat → Nat → Nat × Nat) : DWord × Nat :=
  let rs := (elems t x).mapIdx f
  (ofElems t (rs.map (·.1)), rs.foldl (fun a r => a ||| r.2) 0)

/-- The same over two operands. -/
def zipElems (t : Ty) (x y : DWord) (f : Nat → Nat → Nat → Nat × Nat) : DWord × Nat :=
  let rs := ((elems t x).zip (elems t y)).mapIdx (fun i p => f i p.1 p.2)
  (ofElems t (rs.map (·.1)), rs.foldl (fun a r => a ||| r.2) 0)

/-- The same over three operands. -/
def zip3Elems (t : Ty) (x y z : DWord) (f : Nat → Nat → Nat → Nat → Nat × Nat) : DWord × Nat :=
  let rs := ((elems t x).zip ((elems t y).zip (elems t z))).mapIdx (fun i p => f i p.1 p.2.1 p.2.2)
  (ofElems t (rs.map (·.1)), rs.foldl (fun a r => a ||| r.2) 0)

/-- The result of one lane in ty form. -/
def outOf (t : Ty) (l n : Nat) (r : DWord × Nat) : LaneOut := ⟨resultOf t l n r.1, r.2, 0⟩

/-! ### Addresses of lanes -/

/-- The address of a lane: 64 bits in spaces 0 and 3; a scratchpad address and peer in spaces 1 and 2 (07 R169). -/
structure Ea where
  space : Space
  addr : DWord := 0
  scr : Int := 0
  peer : Nat := 0
  deriving DecidableEq, Repr

/-- ea(l) of a memory word (07 R169). -/
def State.ea (s : State) (space : Space) (a : BitVec 8) (off : Int) (l : Nat) : Ea :=
  match space with
  | .g | .co => { space := space, addr := s.pair l a.toNat + BitVec.ofInt 64 off }
  | _ =>
    let v := s.nat32 l a.toNat
    { space := space, scr := (bitsN v 21 0 : Nat) + off, peer := bitsN v 26 24 }

/-- The address a fault of the lane records (14 R349). -/
def Ea.fault (e : Ea) : DWord :=
  match e.space with
  | .g | .co => e.addr
  | _ => BitVec.ofInt 64 e.scr

/-- The cluster a scratchpad address of the issuing agent lies in: its own, or the peer of its section group
(07 R171, R172). -/
def State.scratchOwner (s : State) (e : Ea) : Option Nat :=
  let c := s.cluster
  match e.space with
  | .sp => if s.me.isWarp then some s.me.cluster else none
  | _ =>
    if !s.me.isWarp || c.group.isNone then none
    else (s.clusters.find? (fun x => x.2.part == c.part && x.2.grid == c.grid && x.2.group == c.group
        && x.2.core == c.core / 8 * 8 + e.peer)).map (·.1)

/-- The key of a scratchpad byte of a cluster. -/
def scratchKey (cluster addr : Nat) : Nat := cluster * 2 ^ 22 + addr

/-- A scratchpad byte, and a 32-bit word of it. -/
def State.scratchByte (s : State) (k : Nat) : Byte := s.scratch.get 0 k
def State.scratchWord (s : State) (w : Nat) : Word := Memory.word s.scratch w
def State.setScratch (s : State) (w : Nat) (v : Word) : State :=
  { s with scratch := Memory.setWord s.scratch w v }

/-- Some byte of a scratchpad word is poisoned. -/
def State.scratchBad (s : State) (w mask : Nat) : Bool :=
  (List.range 4).any (fun i => bitN mask i && s.scratchPoison.get false (4 * w + i))

end Sys2Proof.Machine
end

