-- ==== Sys2Proof/Machine/Reduce.lean ====
section
/-! DEFINITION. What atomics and reductions compute: the ATOM table (07 R185), rounding float adds (03 R90; 07 R189)
and exact float sums (03 R91; 07 R190). -/

namespace Sys2Proof.Machine

/-- One float add of each element of a word, rounded to nearest, with its status (03 R90; 07 R189). -/
def floatAdd (t : Ty) (x y : DWord) : DWord × Nat := zipElems t x y (fun _ a b => fpAdd (fmtOf t) .rne a b)

/-- The new value of an ATOM function from the old one and the operand `b`, with `b2` the new value of acas; none where
acas writes nothing. The status is aaddf's (07 R185, R189). -/
def atomNew (fn : Nat) (t : Ty) (old b b2 : DWord) : Option DWord × Nat :=
  let op := if 11 ≤ fn then (if fn == 17 then 10 else fn - 11) else fn
  let x := trimTo t old
  let y := trimTo t b
  match op with
  | 0 => (some (wrapTo t (ival t x + ival t y)), 0)
  | 1 => (some (if ival t x ≤ ival t y then x else y), 0)
  | 2 => (some (if ival t x ≤ ival t y then y else x), 0)
  | 3 => (some (x &&& y), 0)
  | 4 => (some (x ||| y), 0)
  | 5 => (some (x ^^^ y), 0)
  | 6 => (some y, 0)
  | 7 => (if x == y then some (trimTo t b2) else none, 0)
  | 8 => (some (if uval t y ≤ uval t x then 0 else x + 1), 0)
  | 9 => (some (if uval t x == 0 || uval t y < uval t x then y else x - 1), 0)
  | _ =>
    let r := floatAdd t x y
    (some r.1, r.2)

/-! ### Exact float sums (07 R190) -/

/-- A finite value as a multiple of the type's smallest subnormal. -/
def quantumOf (f : Fmt) (neg : Bool) (man : Nat) (exp : Int) : Int := sman neg (man * 2 ^ (exp - f.qmin).toNat)

/-- The entry made for a word. -/
def ExactSum.start (v0 : Word) (t : Ty) (part grid : Nat) : ExactSum :=
  let n := (elems t (v0.setWidth 64)).length
  ⟨v0, t.code.toNat, List.replicate n 0, List.replicate n false, List.replicate n false, List.replicate n false,
    List.replicate n true, part, grid⟩

/-- An addend accepted by an entry. (DEDUCED, notes/assumptions/35.md.) -/
def ExactSum.accept (e : ExactSum) (t : Ty) (b : Word) : ExactSum :=
  let f := fmtOf t
  let bs := (elems t (b.setWidth 64)).map (decodeIeee f)
  let at_ (i : Nat) : FVal := bs.getD i (.fin false 0 0)
  { e with
    sums := e.sums.mapIdx (fun i x => match at_ i with
      | .fin n m k => x + quantumOf f n m k
      | _ => x),
    nan := e.nan.mapIdx (fun i x => x || (at_ i).isNan),
    pinf := e.pinf.mapIdx (fun i x => x || at_ i == .inf false),
    ninf := e.ninf.mapIdx (fun i x => x || at_ i == .inf true),
    allNegZero := e.allNegZero.mapIdx (fun i x => x && (at_ i).isZero && (at_ i).neg) }

/-- canon(E) of one element, with its rounding's status. (DEDUCED, notes/assumptions/35.md.) -/
def ExactSum.canonElem (e : ExactSum) (f : Fmt) (i : Nat) (v0 : FVal) : Nat × Nat :=
  let pinf := e.pinf.getD i false || v0 == .inf false
  let ninf := e.ninf.getD i false || v0 == .inf true
  if e.nan.getD i false || v0.isNan || (pinf && ninf) then (f.nanCode, 0)
  else if pinf then roundVal f .rne (.inf false)
  else if ninf then roundVal f .rne (.inf true)
  else
    let base := match v0 with
      | .fin n m k => quantumOf f n m k
      | _ => 0
    let sum := base + e.sums.getD i 0
    if sum == 0 then (f.signed (v0.isZero && v0.neg && e.allNegZero.getD i true) 0, 0)
    else roundFin f .rne (sum < 0) sum.natAbs f.qmin

/-- The word canon(E), with the status of its roundings. -/
def ExactSum.canon (e : ExactSum) (t : Ty) : Word × Nat :=
  let f := fmtOf t
  let rs := (elems t (e.v0.setWidth 64)).mapIdx (fun i x => e.canonElem f i (decodeIeee f x))
  (lo32 (ofElems t (rs.map (·.1))), rs.foldl (fun a r => a ||| r.2) 0)

/-- NV where an addend holds a signalling NaN (07 R190). -/
def signalsIn (t : Ty) (b : Word) : Nat :=
  if ((elems t (b.setWidth 64)).map (decodeIeee (fmtOf t))).any FVal.signals then stNV else 0

/-- An exact-sum entry made or changed. -/
def State.setExact (s : State) (key : Nat) (e : ExactSum) : State := { s with exact := s.exact.set key e }

/-- A new entry beyond the 4,096 of its bank takes a line of its partition's ways there (07 R191). -/
def State.roomForEntry (s : State) (key : Nat) : State :=
  if 2 ^ 70 ≤ key || (s.exact.find key).isSome || s.entriesIn (s.bankOfLine (lineOf key)) < bankEntries then s
  else s.needWay (exactLine key)

/-- An addend accepted for the word `w` that holds `old`: the state with the entry, the word's new value and the
status (07 R190). -/
def State.exactAdd (s : State) (key : Nat) (t : Ty) (old b : Word) (part grid : Nat) : State × Word × Nat :=
  let e := match s.exact.find key with
    | some e => if e.ty == t.code.toNat then e else .start old t part grid
    | none => .start old t part grid
  let e1 := e.accept t b
  let r := e1.canon t
  ((s.roomForEntry key).setExact key e1, r.1, r.2 ||| signalsIn t b)

/-- Reduction types of a command (08 R202): the type of RTY. -/
def rtyType (r : Nat) : Ty :=
  match r with
  | 0 => .i32
  | 1 => .f32
  | 2 => .f16x2
  | _ => .bf16x2

/-- red(t, s) of 08 R204 without CANON. -/
def redWord (r : Nat) (x y : Word) : Word :=
  if r == 0 then x + y else lo32 (floatAdd (rtyType r) (x.setWidth 64) (y.setWidth 64)).1

end Sys2Proof.Machine
end

