-- ==== Sys2Proof/Machine/Int.lean ====
section
/-! DEFINITION. INT and INTI (10 R254 to R257; 03 R63). -/

namespace Sys2Proof.Machine

/-- An outcome of every word: the Q9's faults are next states. -/
abbrev Out := Host.Outcome State Fault Refusal

/-- An INT word whose lanes compute a ty-form result from x, y and z, with %iexc bits (10 R255). -/
def State.intWord (s : State) (fn : Nat) (w : W3) (f : DWord → DWord → DWord → DWord × Nat) : State :=
  s.w3 0x01 fn w (fun act => s.finish (act.map (fun l =>
    let r := f (s.opA w l) (s.opB w l) (s.opC w l)
    ⟨resultOf w.ty l w.d.toNat r.1, 0, r.2⟩)))

/-- A result with no status. -/
def plain (x : DWord) : DWord × Nat := (x, 0)

def execIadd (w : W3) (s : State) : Out :=
  .next (s.intWord 0 w (fun x y _ => plain (wrapTo w.ty (ival w.ty x + ival w.ty y))))
def execIsub (w : W3) (s : State) : Out :=
  .next (s.intWord 1 w (fun x y _ => plain (wrapTo w.ty (ival w.ty x - ival w.ty y))))
def execImul (w : W3) (s : State) : Out :=
  .next (s.intWord 2 w (fun x y _ => plain (wrapTo w.ty (ival w.ty x * ival w.ty y))))
def execImulh (w : W3) (s : State) : Out :=
  .next (s.intWord 3 w (fun x y _ => plain (mulHigh w.ty x y)))
def execImad (w : W3) (s : State) : Out :=
  .next (s.intWord 4 w (fun x y z => plain (wrapTo w.ty (ival w.ty x * ival w.ty y + ival w.ty z))))
/-- The quotient under 03 R63. -/
def execIdiv (w : W3) (s : State) : Out :=
  .next (s.intWord 5 w (fun x y _ => ((divide w.ty x y).1, (divide w.ty x y).2.2)))
/-- The remainder under 03 R63. -/
def execIrem (w : W3) (s : State) : Out :=
  .next (s.intWord 6 w (fun x y _ => ((divide w.ty x y).2.1, (divide w.ty x y).2.2)))
def execImin (w : W3) (s : State) : Out :=
  .next (s.intWord 7 w (fun x y _ => plain (wrapTo w.ty (min (ival w.ty x) (ival w.ty y)))))
def execImax (w : W3) (s : State) : Out :=
  .next (s.intWord 8 w (fun x y _ => plain (wrapTo w.ty (max (ival w.ty x) (ival w.ty y)))))
def execIabs (w : W3) (s : State) : Out :=
  .next (s.intWord 9 w (fun x _ _ => plain (wrapTo w.ty (ival w.ty x).natAbs)))
def execIneg (w : W3) (s : State) : Out :=
  .next (s.intWord 10 w (fun x _ _ => plain (wrapTo w.ty (-ival w.ty x))))

/-- An INT word whose result form is not its type's (10 R255): `rt` is the form of d. -/
def State.intWordAs (s : State) (fn : Nat) (w : W3) (rt : Ty) (f : Nat → DWord) : State :=
  s.w3 0x01 fn w (fun act => s.finish (act.map (fun l => ⟨resultOf rt l w.d.toNat (f l), 0, 0⟩)))

/-- iaddc and isubb write the result and the carry or borrow to an even pair (10 R255). -/
def execIaddc (w : W3) (s : State) : Out :=
  .next (s.intWordAs 11 w .n64 (fun l => addCarry (s.opA w l) (s.opB w l) (s.opC w l)))
def execIsubb (w : W3) (s : State) : Out :=
  .next (s.intWordAs 12 w .n64 (fun l => subBorrow (s.opA w l) (s.opB w l) (s.opC w l)))
/-- sel keeps the bit pattern of the operand it takes; its predicate is one register (10 R255). -/
def execSel (w : W3) (s : State) : Out :=
  .next (s.intWordAs 13 w w.ty (fun l => if bitN (s.nat32 l w.c.toNat) 0 then s.opA w l else s.opB w l))
/-- lea adds the shifted index, extended by its type, to a 64-bit base (10 R255). -/
def execLea (w : W3) (s : State) : Out :=
  .next (s.intWordAs 14 w .n64 (fun l =>
    s.pair l w.a.toNat + ((if tySigned w.ty then (s.reg l w.b.toNat).signExtend 64
      else (s.reg l w.b.toNat).setWidth 64) <<< w.m.toNat)))
/-- icmp writes 0 or 1 to one register (10 R255, 02 R43). -/
def execIcmp (w : W3) (s : State) : Out :=
  .next (s.intWordAs 15 w .n32 (fun l => boolVal (intCond w.ty w.m.toNat (s.opA w l) (s.opB w l))))

/-- The registers a WI word names: a and d as its function has them (10 R256). -/
def wiNamed (fn : Nat) (w : WI) : List Nat :=
  fieldRegs (if fn == 10 then .one else .tyf) w.ty w.d ++ (if fn == 8 || fn == 9 then [] else fieldRegs .tyf w.ty w.a)
def wiSources (fn : Nat) (w : WI) : List Nat :=
  if fn == 8 || fn == 9 then [] else fieldRegs .tyf w.ty w.a

/-- An INTI word, unguarded: its lanes' results in the form `rt` of d (10 R257). -/
def State.wiWord (s : State) (fn : Nat) (w : WI) (rt : Ty) (f : DWord → DWord → DWord) : State :=
  s.guarded 0 false (wiNamed fn w) (wiSources fn w) (fun act => s.finish (act.map (fun l =>
    ⟨resultOf rt l w.d.toNat (f (s.operand w.ty l w.a.toNat) (immExt w.ty w.imm)), 0, 0⟩)))

def execIaddi (w : WI) (s : State) : Out :=
  .next (s.wiWord 0 w w.ty (fun x i => wrapTo w.ty (ival w.ty x + ival w.ty i)))
def execImuli (w : WI) (s : State) : Out :=
  .next (s.wiWord 1 w w.ty (fun x i => wrapTo w.ty (ival w.ty x * ival w.ty i)))
def execAndi (w : WI) (s : State) : Out := .next (s.wiWord 2 w w.ty (fun x i => x &&& i))
def execOri (w : WI) (s : State) : Out := .next (s.wiWord 3 w w.ty (fun x i => x ||| i))
def execXori (w : WI) (s : State) : Out := .next (s.wiWord 4 w w.ty (fun x i => x ^^^ i))
def execShli (w : WI) (s : State) : Out :=
  .next (s.wiWord 5 w w.ty (fun x _ => shiftLeft w.ty x w.imm.toNat))
def execShri (w : WI) (s : State) : Out :=
  .next (s.wiWord 6 w w.ty (fun x _ => shiftRight w.ty x w.imm.toNat))
def execSari (w : WI) (s : State) : Out :=
  .next (s.wiWord 7 w w.ty (fun x _ => shiftArith w.ty x w.imm.toNat))
/-- movi: the extended immediate; for f32 the bit pattern (10 R257). -/
def execMovi (w : WI) (s : State) : Out := .next (s.wiWord 8 w w.ty (fun _ i => i))
/-- movhi writes the upper word and neither reads nor writes the lower one (10 R257). -/
def execMovhi (w : WI) (s : State) : Out :=
  .next (s.guarded 0 false (wiNamed 9 w) [] (fun act =>
    s.finish (act.map (fun l => ⟨[(l, w.d.toNat + 1, w.imm)], 0, 0⟩))))

/-- icmpi's comparand: bits [28:0], sign-extended for i types (10 R257). -/
def icmpiComparand (t : Ty) (imm : BitVec 32) : DWord :=
  if tySigned t then (imm.extractLsb' 0 29).signExtend 64 else (imm.extractLsb' 0 29).setWidth 64

def execIcmpi (w : WI) (s : State) : Out :=
  .next (s.wiWord 10 w .n32 (fun x _ =>
    boolVal (intCond w.ty (w.imm.toNat / 2 ^ 29) x (icmpiComparand w.ty w.imm))))

end Sys2Proof.Machine
end

