-- ==== Sys2Proof/Machine/Access.lean ====
section
/-! DEFINITION. Accesses of memory words: the checks of each lane (07 R169 to R174), where each access lands
(06 R149; 07 R173, R183, R187), and its issue (06 R151; 07 R176, R182, R186). -/

namespace Sys2Proof.Machine

/-- The number of a lane's thread in the package: its core, frame and position, or its conductor thread. -/
def Agent.tid (a : Agent) (lane : Nat) : Nat :=
  match a.kind with
  | .warp c _ => (c * 16 + a.frame) * 64 + a.base + lane
  | .conductor t => 2 ^ 20 + t
  | .management => 2 ^ 21

/-- One 32-bit word that a lane asks for: its bytes, its data and the row its value goes to. -/
structure WordReq where
  mask : Nat := 15
  val : Word := 0
  val2 : Word := 0
  row : Option Nat := none

/-- What one lane asks for: its address, its length in bytes, what it needs of its page, and its words in order. -/
structure LaneReq where
  lane : Nat
  ea : Ea
  bytes : Nat
  need : Need
  words : List WordReq

/-- Bytes of `new` under a mask over `old`. -/
def mergeBytes (mask : Nat) (old new : Word) : Word :=
  let m : Word := BitVec.ofNat 32 ((if bitN mask 0 then 0xFF else 0) + (if bitN mask 1 then 0xFF00 else 0)
    + (if bitN mask 2 then 0xFF0000 else 0) + (if bitN mask 3 then 0xFF000000 else 0))
  (old &&& ~~~m) ||| (new &&& m)

/-- What the checks of a lane give. -/
inductive LaneCheck where
  | ok (ps : List Piece)
  | fault (code detail : Nat) (addr : DWord)
  | miss (page : Nat)
  | blocked (page : Nat) (ps : List Piece)
  deriving DecidableEq, Repr

/-- The byte mask of an access of `n` bytes at byte `b` of its word. -/
def byteMask (b n : Nat) : Nat := if 4 ≤ n then 15 else (2 ^ n - 1) * 2 ^ b

/-- The pieces of a lane from the word its address lies in. -/
def mkPieces (s : State) (r : LaneReq) (key : Nat) (byte : Nat) (scr : Bool) (pol region : Nat)
    (counter : Option CountInc) (level : Nat := 3) : List Piece :=
  r.words.mapIdx (fun i (w : WordReq) =>
    { lane := r.lane, tid := s.me.tid r.lane, key := key + i, scr := scr, pol := pol,
      mask := byteMask byte r.bytes, val := (w.val <<< (8 * byte) : Word), val2 := w.val2, row := w.row, region := region,
      addr := r.ea.fault, counter := counter, level := level })

/-- The counter of a counted page, for the issuing agent (04 R119). -/
def State.counterOf (s : State) (va : Nat) (l : Leaf) : Option CountInc := countOn s.me.part s.me.ctx va l

/-- A partition with no bank group serves no access (05 R125). (DESIGN CHOICE, notes/assumptions/29.md.) -/
def State.noGroups (s : State) (p : Nat) : Bool := bitsN (s.preg p 0x07) 3 0 == 0

/-- The fault of an access of a partition with no bank group. -/
def noGroupFault : XErr := ⟨fcProtection, detailOf Config.noGroupReason.toNat false 0 0⟩

/-- The place of a carve-out offset, which is never translated (04 R99, R100). -/
def State.carvePlace (s : State) (p o : Nat) : Except XErr Place :=
  if o < s.grantSize p then .ok { key := s.carveKey p o } else .error (xerr 8)

/-- Where a global or carve-out address lies for the issuing agent: spaces 0 and 3 (04 R98 to R100). -/
def State.locate (s : State) (space : Space) (a : DWord) (n : Need) : XRes :=
  if s.noGroups s.me.part then .fault noGroupFault
  else match space with
    | .co => (match s.carvePlace s.me.part a.toNat with
      | .ok q => .place q
      | .error e => .fault e)
    | _ => s.xlate a n

/-- Alignment, placement, bounds and location of a lane, in that order (07 R170 to R172, R174); `align` is what its
address must be a multiple of. Forms that no page with POL = 2 supports give reason 10 (07 R188). -/
def State.checkLane (s : State) (r : LaneReq) (align : Nat) (hostOk : Bool := true) : LaneCheck :=
  match r.ea.space with
  | .sp | .rsp =>
    if r.ea.scr % align != 0 then .fault fcMisalignedAccess 0 r.ea.fault
    else match s.scratchOwner r.ea, r.ea.space with
      | none, .rsp => .fault fcNotPlaced 0 r.ea.fault
      | none, _ => .fault fcScratchBounds 0 r.ea.fault
      | some c, _ =>
        if r.ea.scr < 0 || ((s.clusters.get {} c).scratch : Int) < r.ea.scr + r.bytes then
          .fault fcScratchBounds 0 r.ea.fault
        else
          let k := scratchKey c r.ea.scr.toNat
          .ok (mkPieces s r (k / 4) (k % 4) true 0 0 none)
  | space =>
    if r.ea.addr.toNat % align != 0 then .fault fcMisalignedAccess 0 r.ea.fault
    else match s.locate space r.ea.addr r.need with
      | .fault e => .fault e.code e.detail r.ea.fault
      | .miss page => .miss page
      | .place q =>
        if q.pol == 2 && !hostOk then .fault fcProtection (detailOf 10 false q.leaf.level 0) r.ea.fault
        else
          let ps := mkPieces s r (q.key / 4) (q.key % 4) false q.pol q.region
            (if space == .g then s.counterOf r.ea.addr.toNat q.leaf else none) q.leaf.level
          if q.wb && r.need.wr then .blocked (r.ea.addr.toNat / 2 ^ 16) ps else .ok ps

/-! ### Where an access lands (06 R149; 07 R183) -/

/-- The locations an access is performed at. -/
inductive Path where
  | scratch | l1 | section_ | bank | host
  deriving DecidableEq, Repr

/-- An ATOM form that returns the old value: fn 0 to 10 (07 R185). -/
def AccKind.returns : AccKind → Bool
  | .atomic fn => fn ≤ 10
  | k => k.reads

/-- The ATOM forms. -/
def AccKind.isAtomic : AccKind → Bool
  | .atomic _ => true
  | _ => false

/-- A conductor thread's access that sc 0 makes weak (07 R173). -/
def AccKind.weakOnThread : AccKind → Bool
  | .atomic _ | .chime => false
  | _ => true

/-- The path of a piece of an access. -/
def Access.path (a : Access) (p : Piece) : Path :=
  if p.scr then .scratch
  else if p.pol == 2 then .host
  else if p.pol == 1 then .bank
  else if a.canon && (a.kind == .atomic 10 || a.kind == .atomic 17) then .bank
  else if 256 ≤ a.core then (if a.scope == 0 && a.kind.weakOnThread then .section_ else .bank)
  else if a.scope ≤ 1 then .l1
  else if a.scope == 2 then .section_
  else .bank

/-- The cache of clean words beside an access's owner, and its L1 where it has one. -/
def Access.innerCache (a : Access) : Nat := if 256 ≤ a.core then conductorCache (a.core - 256) else sectionCache (a.core / 8)
def Access.l1 (a : Access) : Option Nat := if 256 ≤ a.core then none else some (l1Cache a.core)

/-- What a read finds at the owner: its own copy, else a clean word. -/
def State.innerHit (s : State) (a : Access) (w : Nat) : Option Word :=
  match s.copyOf a.owner w with
  | some v => some v
  | none => (s.cleanOf a.innerCache w).map (·.val)

/-- A store that the L1 of a core shows and its section has not accepted yet (06 R162). -/
def State.l1Store (s : State) (core w : Nat) : Option Piece :=
  s.accesses.findSome? (fun e => if e.2.core != core then none else
    e.2.pieces.find? (fun p => p.inL1 && !p.done && p.key == w && !p.scr))

/-- What a read through an L1 takes of a word that lies beyond it: the bytes that the L1 shows of a store go over it
(06 R162). -/
def State.l1Over (s : State) (a : Access) (p : Piece) (v : Word) : Word :=
  if a.path p != .l1 then v
  else match s.l1Store a.core p.key with
    | some q => mergeBytes q.mask v q.val
    | none => v

/-- An L1 holds a word: its own, or all of a store that it shows. -/
def State.l1Hit (s : State) (a : Access) (p : Piece) : Option Word :=
  match s.l1Store a.core p.key with
  | some q => if q.mask == 15 then some q.val
    else (a.l1.bind (fun c => s.cleanOf c p.key)).map (fun c => mergeBytes q.mask c.val q.val)
  | none => (a.l1.bind (fun c => s.cleanOf c p.key)).map (·.val)

/-- What a read finds in the caches its path looks at. (DESIGN CHOICE, notes/assumptions/13.md.) -/
def State.hitOf (s : State) (a : Access) (p : Piece) : Option Word :=
  match a.path p with
  | .l1 =>
    match s.l1Hit a p with
    | some v => some v
    | none => (s.innerHit a p.key).map (s.l1Over a p)
  | .section_ => s.innerHit a p.key
  | _ => none

/-- A read that its core's L1 does not serve waits for a store that the L1 shows of its word: a warp that has seen the
store reads no older value (06 R160, R162). -/
def State.l1Waits (s : State) (a : Access) (p : Piece) : Bool :=
  !p.scr && a.core < 256 && a.path p != .l1 && (s.l1Store a.core p.key).isSome

/-- The clean word an access fills, with its tags (06 R163). -/
def Access.cleanWord (a : Access) (p : Piece) (v : Word) : CleanWord := ⟨v, p.region, a.part, a.ctx⟩

/-- A word obtained at a cache or beyond is installed in a cache of clean words where the access fills it; else the
cache's own word goes, which may be older (06 R160, R163, R164; 07 R177). -/
def State.installOr (s : State) (a : Access) (p : Piece) (v : Word) (cache : Nat) (fills : Bool) : State :=
  if fills && a.kind != .ldnt then s.install cache p.key (a.cleanWord p v) else s.dropClean cache p.key

/-- What the bank gives of a line beside the word that is read: words that no owner holds (05 R132). -/
def State.bankServes (s : State) (owner w : Nat) : Option Word :=
  if s.regOf w == .u && (s.copyOf owner w).isNone then some (s.memWord w) else none

/-- A word installed with the rest of its line (06 R163). -/
def State.installLine (s : State) (a : Access) (p : Piece) (v : Word) (cache : Nat) (fills : Bool)
    (source : Nat → Option Word) : State :=
  let s1 := s.installOr a p v cache fills
  if fills && a.kind != .ldnt then s1.installRest cache p.key source else s1

/-- A word obtained beyond the L1, and beyond the section cache where `inner` says so; an L1 takes no word that its
section holds a newer copy of (06 R160). -/
def State.fill (s : State) (a : Access) (p : Piece) (v : Word) (inner : Bool) : State :=
  let s1 := if inner && (s.copyOf a.owner p.key).isNone then
      s.installLine a p v a.innerCache p.fillSec (fun w => s.bankServes a.owner w)
    else s
  match a.l1 with
  | some c => s1.installLine a p v c (p.fillL1 && a.path p == .l1 && (s1.copyOf a.owner p.key).all (· == v))
      (fun w => s1.innerHit a w)
  | none => s1

/-- The inner copies of a word that its party may not read again after an access beyond them (06 R160). -/
def State.dropInner (s : State) (a : Access) (p : Piece) : State :=
  let s1 := match a.l1 with
    | some c => s.dropClean c p.key
    | none => s
  if a.path p == .bank then s1.dropClean a.innerCache p.key else s1

/-! ### Issue -/

/-- The word is in state P where the access would read it at the bank, or a scratchpad byte is poisoned (07 R174). -/
def State.readsPoison (s : State) (a : Access) (p : Piece) : Bool :=
  if p.scr then s.scratchBad p.key p.mask
  else (s.hitOf a p).isNone && p.pol != 2 && s.regOf p.key == .p

/-- A lane's pieces are those of a zero block of lddec, as far as its scale byte can be seen (07 R181). -/
def State.zeroScale (s : State) (a : Access) (ps : List Piece) : Bool :=
  a.kind == .lddec && ps.any (fun q => q.val2 == 1 &&
    (let v := ((s.hitOf a q).getD (s.current q.key)).toNat
     bitsN v (8 * (q.val.toNat % 4) + 7) (8 * (q.val.toNat % 4)) == 0x80))

/-- The first piece of a lane whose data its access would find poisoned; a zero block's elements are not checked
(07 R174, R181). -/
def State.poisonIn (s : State) (a : Access) (ps : List Piece) : Option Piece :=
  let zero := s.zeroScale a ps
  ps.find? (fun p => s.readsPoison a p && !(zero && p.val2 != 1) && p.bad.isNone)

/-- The numbers of an agent's threads. -/
def Agent.tids (a : Agent) : List Nat := (List.range a.width).map a.tid

/-- An earlier access of the same thread to the same word is not yet performed (06 R151), or an accumulator word's of
any thread of the warp (12 R317). -/
def State.overlaps (s : State) (ps : List Piece) : Bool :=
  s.accesses.any (fun e => e.2.pieces.any (fun q => !q.done &&
    ps.any (fun p => p.key == q.key && p.scr == q.scr
      && (p.tid == q.tid || (e.2.kind == .matrix && s.me.tids.contains q.tid)))))

/-- A load's piece that its caches or a scratchpad serve obtains its value as the word issues. -/
def State.serve (s : State) (a : Access) (p : Piece) : State × Piece :=
  match a.path p with
  | .scratch => (s, { p with got := some (s.scratchWord p.key), done := true })
  | .l1 | .section_ =>
    if s.l1Waits a p then (s, p)
    else
    let l1Hit := a.path p == .l1 && (s.l1Hit a p).isSome
    let s1 := if !l1Hit && a.path p == .l1 && a.l1.isSome then s.countEvent a.part (countsIn a.agent a.ctx) 8 1 else s
    match s.hitOf a p with
    | some v => (if l1Hit then s1 else s1.fill a p v false, { p with got := some v, done := true })
    | none => (s1.countEvent a.part (countsIn a.agent a.ctx) 9 1, p)
  | _ => (s, p)

def State.serveAll (s : State) (a : Access) : List Piece → State × List Piece
  | [] => (s, [])
  | p :: ps =>
    let r := s.serve a p
    let q := r.1.serveAll a ps
    (q.1, r.2 :: q.2)

/-- The row under which a pending merge into %fexc is kept (09 R231; 10 R252). -/
def fexcRow : Nat := 2 ^ 34 + 3

/-- The register that a row holds for an agent; 256 stands for %fexc. -/
def rowReg (row : Nat) : Nat :=
  if row == fexcRow then 256 else if rowTag row == 1 then 128 + rowIx row % 128 else rowIx row % 256

/-- An access whose own roundings set status when its data return: lddec and aaddf (07 R181, R189).
(DEDUCED, notes/assumptions/73.md.) -/
def AccKind.setsStatus : AccKind → Bool
  | .lddec | .atomic 10 => true
  | _ => false

/-- An access enters flight under the next number; its registers have writes pending (09 R231). -/
def State.enterAccess (s : State) (a : Access) (extra : List Nat := []) : State × Nat :=
  let served := if a.kind.reads then s.serveAll a a.pieces else (s, a.pieces)
  let s1 := served.1
  let id := s1.nextId
  let rows := served.2.filterMap (·.row) ++ extra ++ (if a.kind.setsStatus then [fexcRow] else [])
  ({ s1 with
      nextId := id + 1,
      accesses := s1.accesses.set id { a with pieces := served.2 },
      me := { s1.me with pend := s1.me.pend ++ rows.eraseDups.map (fun r => ⟨r, a.pc, id⟩) } }, id)

/-- The access record of the word that issues. -/
def State.newAccess (s : State) (kind : AccKind) (scope : Nat) : Access :=
  { agent := s.me.id, kind := kind, scope := scope, part := s.me.part, ctx := s.me.ctx, grid := s.me.grid,
    core := s.me.core, cluster := s.me.cluster, group := s.group, pc := s.issuePc, racemode := s.me.racemode.toNat,
    canon := bitN s.me.repro.toNat 0 }

/-- The result of the lanes' checks: the first event in ascending lane order, else every piece. -/
inductive WordCheck where
  | ok (ps : List Piece)
  | fault (lane code detail : Nat) (addr : DWord)
  | miss (page : Nat)
  | blocked (page : Nat)

/-- A fault of a lane: the lane, the code, the detail and the address. -/
abbrev LaneFault := Nat × Nat × Nat × DWord

/-- What the checks of some lanes have found so far: their pieces, a page with WB = 1, the lowest lane whose data are
poisoned or whose elements lie nowhere, and whether some lane's data are poisoned. -/
structure Found where
  ps : List Piece := []
  blk : Option Nat := none
  bad : Option LaneFault := none
  poison : Bool := false

/-- The scratchpad words of a core hold 256 exact sums, of which the words in flight count those that they will make
(07 R191). -/
def State.scratchCore (s : State) (w : Nat) : Nat :=
  match s.clusters.find (w / 2 ^ 20) with
  | some c => c.core
  | none => (s.cores.find? (fun (e : Nat × Core) => e.2.left.contains (w / 2 ^ 20))).elim 0 (·.1)

/-- The key of a scratchpad word's exact-sum entry. -/
def scratchExact (w : Nat) : Nat := 2 ^ 70 + w

/-- Scratchpad exact-sum entries that a core holds (07 R191). -/
def State.scratchEntries (s : State) (core : Nat) : Nat :=
  (s.exact.filter (fun e => 2 ^ 70 ≤ e.1 && s.scratchCore (e.1 - 2 ^ 70) == core)).length

/-- The scratchpad words that aaddfs in flight will make an exact-sum entry for: they have been counted as their words
issued, so that the fault of one is precise (07 R191). -/
def State.reserved (s : State) : List Nat :=
  (s.accesses.flatMap (fun e => if e.2.canon && e.2.kind == .atomic 10 then
      (e.2.pieces.filter (fun p => !p.done && p.scr && (s.exact.find (scratchExact p.key)).isNone)).map (·.key)
    else [])).eraseDups

/-- The first of some pieces of an aaddf that would need an exact-sum entry beyond the 256 of its core, where `new` have
been counted (07 R191). -/
def State.beyondEntries (s : State) : List Nat → List Piece → Option Piece
  | _, [] => none
  | new, p :: ps =>
    if !p.scr || (s.exact.find (scratchExact p.key)).isSome || new.contains p.key then s.beyondEntries new ps
    else
      let core := s.scratchCore p.key
      if 256 ≤ s.scratchEntries core + (new.filter (fun k => s.scratchCore k == core)).length then some p
      else s.beyondEntries (p.key :: new) ps

/-- A lane's exact float adds need entries that their scratchpads do not have (07 R174, R191). -/
def State.entryFault (s : State) (a : Access) (before qs : List Piece) : Option Piece :=
  if a.canon && a.kind == .atomic 10 then
    s.beyondEntries (s.reserved ++ (before.filter (fun p => p.scr && (s.exact.find (scratchExact p.key)).isNone)).map (·.key)) qs
  else none

/-- A lane's data fault as far as it can be seen: poison, where the access takes it precisely, or an element that lies
nowhere and whose block is no zero block (07 R174, R181). -/
def State.laneData (s : State) (a : Access) (precise : Bool) (lane : Nat) (qs : List Piece) : Option LaneFault :=
  match (if precise then s.poisonIn a qs else none) with
  | some p => some (lane, fcPoison, 0, p.addr)
  | none => if s.zeroScale a qs then none
    else qs.findSome? (fun p => p.bad.map (fun b => (lane, b.1, b.2, p.addr)))

/-- The lanes' checks in ascending order (07 R174): where a lane fails checks 1 to 5, the lowest faulting lane's fault,
that of its data included; with none, a write-block parks the word (04 R118), else poison faults it. An element that lies
nowhere faults as its data come (DEDUCED, notes/assumptions/33.md). -/
def State.checkFrom (s : State) (a : Access) (precise : Bool) (check : LaneReq → LaneCheck) :
    List LaneReq → Found → WordCheck
  | [], f =>
    match f.blk, f.bad with
    | some page, _ => .blocked page
    | none, some (lane, code, detail, addr) => if f.poison then .fault lane code detail addr else .ok f.ps
    | none, none => .ok f.ps
  | r :: rs, f =>
    let stop (c d : Nat) (x : DWord) : WordCheck :=
      match f.bad with
      | some (lane, code, detail, addr) => .fault lane code detail addr
      | none => .fault r.lane c d x
    let go (qs : List Piece) (blk : Option Nat) : WordCheck :=
      match s.entryFault a f.ps qs with
      | some p => stop fcScratchBounds 0 p.addr
      | none =>
        let bad := s.laneData a precise r.lane qs
        s.checkFrom a precise check rs
          ⟨f.ps ++ qs, blk, f.bad.orElse (fun _ => bad), f.poison || bad.any (fun b => b.2.1 == fcPoison)⟩
    match check r with
    | .fault c d x => stop c d x
    | .miss page => .miss page
    | .ok qs => go qs f.blk
    | .blocked page qs => go qs (f.blk.orElse (fun _ => some page))

/-- The checks of a word's lanes, from the pieces and the write-block of those already checked. -/
def State.checkLanes (s : State) (a : Access) (precise : Bool) (check : LaneReq → LaneCheck) (rs : List LaneReq)
    (ps : List Piece) (blk : Option Nat) : WordCheck := s.checkFrom a precise check rs { ps := ps, blk := blk }

/-- What a word's checks lead to: its fault, a park for a walk, for a write-block (04 R111, R118) or behind an
earlier access of its own threads (06 R151), or its effect on its pieces. -/
def State.checked (s : State) (c : WordCheck) (effect : List Piece → State) : State :=
  match c with
  | .fault lane code detail addr => s.takeFault code lane detail addr
  | .miss page =>
    match s.requestWalk page with
    | (t, some w) => t.park (.walk w)
    | (t, none) => t.park .retry
  | .blocked page => s.park (.writeBlock page)
  | .ok ps => if s.overlaps ps then s.park .retry else effect ps

/-- A conductor thread waits in a load, and every agent in an ldacq (06 R153; 11 R279; 13 R324). -/
def State.loadHolds (s : State) (kind : AccKind) : Bool :=
  kind.returns && (kind == .ldacq || !s.me.isWarp)

/-- A word's access enters flight, and the word retires or waits for its data.
(DESIGN CHOICE, notes/assumptions/37.md.) -/
def State.launchAccess (s : State) (a : Access) (extra : List Nat := []) : State :=
  let holds := s.loadHolds a.kind
  let r := s.enterAccess { a with holds := holds } extra
  if a.pieces.isEmpty then s.retire
  else if holds then r.1.park (.op r.2)
  else r.1.retire

/-- A host line that a piece lies in is filled from the host before it is used (05 R126; 15 R390).
(DESIGN CHOICE, notes/assumptions/13.md.) -/
def State.touchPieces (s : State) (ps : List Piece) : State :=
  ps.foldl (fun s p => if p.scr then s else s.touchHost p.key) s

end Sys2Proof.Machine
end

