-- ==== Sys2Proof/Machine/Release.lean ====
section
/-! DEFINITION. Releases and acquires (06 R152, R154, R164; 05 R136), the waking of parked words, and the
completion of accesses. -/

namespace Sys2Proof.Machine

/-- The scope at which a thread carries out a scope code: codes 0 to 3 of a conductor thread at package scope
(01 R25). -/
def Agent.scope (a : Agent) (n : Nat) : Nat := if a.isWarp then n else max n 4

/-- Parked words whose wait a test holds of are ready to execute. -/
def Agent.wake (a : Agent) (f : Wait → Bool) : Agent :=
  { a with parks := a.parks.map (fun p => if f p.wait then { p with done := true } else p) }

def State.wake (s : State) (f : Wait → Bool) : State :=
  { s with me := s.me.wake f, others := s.others.map (fun e => (e.1, e.2.wake f)) }

/-- Something done as another agent's word at `pc`, whose turn it is not. -/
def State.during (s : State) (id : Nat) (pc : DWord) (f : State → State) : State :=
  if s.me.id = id then { f { s with issuePc := pc } with issuePc := s.issuePc }
  else match s.agent id with
    | none => s
    | some _ =>
      let r := f (s.focus id pc)
      { r.focus s.me.id s.issuePc with issuePc := s.issuePc }

/-- Earlier reads of the group have not obtained their values. (DEDUCED, notes/assumptions/36.md.) -/
def State.readsPending (s : State) : Bool :=
  let tids := s.group.map s.me.tid
  s.accesses.any (fun e => e.2.kind.returns && e.2.pieces.any (fun p => !p.done && tids.contains p.tid))

/-! ### Acquire (06 R152, R164) -/

/-- Fills requested before an acquire are not installed where it would drop them (06 R164). -/
def noFill (l1 : Bool) (inner : Bool) (test : CleanWord → Bool) (p : Piece) (a : Access) : Piece :=
  let hit := test ⟨0, p.region, a.part, a.ctx⟩
  if p.done || !hit then p
  else { p with fillL1 := p.fillL1 && !l1, fillSec := p.fillSec && !inner }

/-- The caches of a core and of its section flash-matched: the clean words a test picks are dropped. -/
def State.flash (s : State) (core : Nat) (test : CleanWord → Bool) (l1 inner : Bool) : State :=
  let s1 := if l1 then s.dropWhere (l1Cache core) test else s
  let s2 := if inner then s1.dropWhere (sectionCache (core / 8)) test else s1
  { s2 with accesses := s2.accesses.mapV (fun a => { a with pieces := a.pieces.map (fun p =>
      noFill (l1 && a.core == core) (inner && a.core < 256 && a.core / 8 == core / 8) test p a) }) }

/-- A conductor core's clean words matched. -/
def State.flashThread (s : State) (c : Nat) (test : CleanWord → Bool) : State :=
  let s1 := s.dropWhere (conductorCache c) test
  { s1 with accesses := s1.accesses.mapV (fun a => { a with pieces := a.pieces.map (fun p =>
      noFill false (a.core == 256 + c) test p a) }) }

/-- acquire(S, M) of the issuing agent (06 R152, R164); a conductor thread also discards its fetched words
(02 R31). -/
def State.acquire (s : State) (scope mask : Nat) : State :=
  let test := acquireDrops s.me.part s.me.ctx mask
  match s.me.kind with
  | .warp c _ => if scope == 0 then s else s.flash c test true (decide (2 ≤ scope))
  | .conductor t => (s.flashThread (t / 8) test).updMe (fun a => { a with fetched := [] })
  | .management => s.updMe (fun a => { a with fetched := [] })

/-! ### Release (05 R136; 06 R152) -/

/-- Every write of an access has been performed at its core's L1, or beyond it (06 R152, R162). -/
def Access.shown (a : Access) : Bool := a.pieces.all (fun p => p.done || p.inL1)

/-- The accesses a release of the issuing agent waits for: its own threads' at warp scope, before a split too (06 R150),
those of its core's writes above; at warp and cluster scope those that the L1 has yet to show (01 R23; 06 R152). -/
def State.releaseWaits (s : State) (scope : Nat) : List Nat :=
  s.accesses.keysOf (fun a => !a.kind.reads && !(scope ≤ 1 && a.shown) &&
    (if scope == 0 then a.agent == s.me.id || a.pieces.any (fun p => s.me.tids.contains p.tid)
     else a.core == s.me.core))

/-- Nothing of an owner is open or on its way. -/
def State.ownerQuiet (s : State) (owner : Nat) : Bool :=
  (s.openLines.get [] owner).isEmpty && !s.regReqs.any (fun e => e.2.owner == owner)
    && !s.releases.any (fun e => e.2.owner == owner && (e.2.acks != 0 || !e.2.pushes.isEmpty))

/-- A release begins: the number it waits under, or none where it is complete at once. One at system scope waits for
the acknowledgements of the host port and of the partition's fabric ports (01 R23; 06 R152). -/
def State.startRelease (s : State) (scope : Nat) : State × Option Nat :=
  let waits := s.releaseWaits scope
  if waits.isEmpty && (scope ≤ 2 || (scope ≤ 4 && s.ownerQuiet s.me.owner)) then (s, none)
  else
    ({ s with releases := s.releases.set s.nextId { agent := s.me.id, scope := scope, owner := s.me.owner,
                                                     part := s.me.part, waits := waits },
              nextId := s.nextId + 1 }, some s.nextId)

/-- An earlier release of the same owner has not sent all its pushes: the lines it took are still open (06 R152). -/
def State.earlierUnsent (s : State) (r owner : Nat) : Bool :=
  s.releases.any (fun e => decide (e.1 < r) && e.2.owner == owner && e.2.taken && !e.2.pushes.isEmpty)

/-- A release is complete for what waits on it: at die scope once its pushes are sent, and those of lines that earlier
releases took (06 R152). -/
def State.releaseDone (s : State) (r : Nat) : Bool :=
  match s.releases.find r with
  | none => true
  | some x => x.scope == 3 && x.taken && x.pushes.isEmpty && !s.earlierUnsent r x.owner

/-- The acknowledgements of ports that a release waits for: at system scope the host port's and one of each fabric port
that the partition names (01 R23; 06 R152; 15 R385). -/
def State.portAcks (s : State) (r : Release) : Nat :=
  if r.scope == 5 then 1 + ((List.range 256).filter (bitN (s.part r.part).fport)).length else 0

/-- A grid's launch boundary: its code is memory as it stands now (02 R31; 06 R157). -/
def State.boundary (s : State) (g : Grid) : Grid := { g with code := some s.memNow, codeLines := s.hostLines.keys }

/-- What waits on a release goes on, and a grid whose launch it is has come to its boundary; the release is dropped once
every acknowledgement has arrived. -/
def State.endRelease (s : State) (r : Nat) : State :=
  let s1 := s.wake (fun w => w == .release r)
  let s2 := { s1 with
    cmds := s1.cmds.mapV (fun c => { c with forks := c.forks.filter (· != r) }),
    parts := s1.parts.mapV (fun q => { q with grids := q.grids.mapV (fun g =>
      if g.link == some r && g.code.isNone then s1.boundary g else g) }) }
  match s2.releases.find r with
  | some x => if x.acks == 0 then { s2 with releases := s2.releases.erase r } else s2
  | none => s2

/-- Releases up to a scope wait for an access no longer, and those below die scope with nothing left to wait for are
complete. -/
def State.waitsNoMore (s : State) (id scope : Nat) : State :=
  let s1 := { s with releases := s.releases.mapV (fun r =>
    if r.scope ≤ scope then { r with waits := r.waits.filter (· != id) } else r) }
  (s1.releases.keysOf (fun r => r.scope ≤ 2 && r.waits.isEmpty)).foldl State.endRelease s1

/-- An access has been performed: releases wait for it no longer. -/
def State.performedAccess (s : State) (id : Nat) : State := s.waitsNoMore id 5

/-- An L1 shows every write of an access: releases of warp and cluster scope wait for it no longer (01 R23; 06 R152). -/
def State.shownAccess (s : State) (id : Nat) : State := s.waitsNoMore id 1

/-- A release of the issuing word that has not begun: it waits for its group's earlier reads, then for the release. -/
def State.beginRelease (s : State) (scope : Nat) (effect : State → State) : State :=
  if s.readsPending then s.park .retry
  else match s.startRelease scope with
    | (s1, none) => effect s1
    | (s1, some r) => s1.park (.release r)

/-- A park that waits for a release. -/
def Park.isRelease (p : Park) : Bool :=
  match p.wait with
  | .release _ => true
  | _ => false

/-- A word that releases and then has its effect, once its release is complete (06 R152); threads that have joined its
group since begin a release of their own (11 R275). -/
def State.releasing (s : State) (scope : Nat) (effect : State → State) : State :=
  match s.parked with
  | some p =>
    if p.done && p.isRelease && s.group.all p.lanes.contains then effect s else s.beginRelease scope effect
  | none => s.beginRelease scope effect

end Sys2Proof.Machine
end

