-- ==== Sys2Proof/Machine/Walk.lean ====
section
/-! DEFINITION. Walks as they complete: what an engine may not do, the installation of translations, and the walks that
engines and the Q9 itself make, which share walkers with all others (04 R110 to R112). -/

namespace Sys2Proof.Machine

/-- The slice an engine sits in, beyond every slice for one on the belfry that no slice holds. -/
def engineSlice : EngineId → Nat
  | .warp c _ | .matrix c => c / 8
  | .conductor t => t / 8
  | .copy _ | .walker _ _ => 32

/-- An engine that may not proceed: it has reached its stop point, or its slice has stopped (14 R352, R374). -/
def Part.holds (q : Part) (e : EngineId) : Bool :=
  q.deadSlices.contains (engineSlice e) || (match q.stop with
    | some st => st.reached.contains e
    | none => false)

/-- A translation installed in a TLB, in place of one of its entries where it is full (04 R110). -/
def State.installTlb (s : State) (tlb cap : Nat) (e : TlbEntry) : State :=
  let k := tlbKey tlb e.part e.ctx e.page
  let own := (s.tlb.pick (fun i _ => i / 2 ^ 59 == tlb)).keys
  let s1 := if own.length < cap || own.contains k then s
    else { s with tlb := s.tlb.erase (own.getD (Config.choice s.free % own.length) 0), free := s.free + 1 }
  { s1 with tlb := s1.tlb.set k e }

/-- What a walk found goes to the TLBs of an agent that waited for it: its core's, and its section's. -/
def State.deliverLeaf (s : State) (w : Walk) (leaf : Leaf) (id : Nat) : State :=
  match s.agent id with
  | none => s
  | some a =>
    let e : TlbEntry := ⟨w.part, w.ctx, spanPage leaf.span w.page, leaf⟩
    let s1 := s.installTlb (l1Tlb a.core) 256 e
    if a.isWarp then s1.installTlb (l2Tlb a.slice) 8192 e else s1

/-- The fault that a walk found goes to an agent that waited for it (04 R111, R116). -/
def State.deliverFault (s : State) (page : Nat) (e : XErr) (id : Nat) : State :=
  s.updAgent id (fun a => { a with
    xfaults := ⟨page, e.code, e.detail⟩ :: a.xfaults.filter (fun f => f.page != page) })

/-- What a walk has read and keeps, whether or not it fails. -/
def walkLog (r : Except WalkFail (Leaf × WalkLog)) : WalkLog :=
  match r with
  | .ok (_, log) => log
  | .error f => f.log

/-- A line that a walk of a page reads is held by a forward (05 R131). -/
def State.walkHeld (s : State) (p ctx page : Nat) : Bool :=
  !s.forwards.isEmpty && (walkLog (s.walkPage p ctx (page * 65536))).reads.any (fun k =>
    (s.forwards.find (lineOf (k / 4))).isSome)

/-- The result of a walk. -/
def walkResult (r : Except WalkFail (Leaf × WalkLog)) : WalkResult :=
  match r with
  | .ok (leaf, _) => .leaf leaf
  | .error f => .fault f.e.code f.e.detail

/-- A walk reads its tables and has its result, once (04 R112). -/
def State.readWalk (s : State) (w : Nat) : State :=
  match s.walks.find w with
  | none => s
  | some k =>
    if k.found.isSome then s
    else
      let r := s.walkPage k.part k.ctx (k.page * 65536)
      (({ s with walks := s.walks.set w { k with found := some (walkResult r) } }).countEvent k.part k.ctx 15 1).walkEffects
        (walkLog r)

/-- A walk's result is delivered: its requesters receive it, fault included, together, and go on (04 R111, R112, R116). -/
def State.deliverWalk (s : State) (w : Nat) : State :=
  match s.walks.find w with
  | none => s
  | some k =>
    let s1 := { s with walks := s.walks.erase w }
    let s2 : State := match k.found with
      | some (.leaf leaf) => k.agents.foldl (fun (t : State) id => t.deliverLeaf k leaf id) s1
      | some (.fault code detail) => k.agents.foldl (fun (t : State) id => t.deliverFault k.page ⟨code, detail⟩ id) s1
      | none => s1
    s2.wake (fun x => x == .walk w)

/-- A walk completes: it reads its tables, where it has not, and delivers its result. -/
def State.finishWalk (s : State) (w : Nat) : State := (s.readWalk w).deliverWalk w

/-- A walk still has to read a line that a forward holds. -/
def State.walkStuck (s : State) (k : Walk) : Bool := k.found.isNone && s.walkHeld k.part k.ctx k.page

/-- The walk of a page that is pending (04 R111). -/
def State.walkOf (s : State) (p ctx page : Nat) : Option Nat :=
  (s.walks.find? (fun (e : Nat × Walk) => e.2.part == p && e.2.ctx == ctx && e.2.page == page)).map (·.1)

/-- A walk that an engine or the Q9 makes can run: no forward holds a line that it reads, and one of its partition's
walkers runs it already or is free (04 R112; 05 R131). -/
def State.walkGoes (s : State) (p ctx page : Nat) : Bool :=
  !s.walkHeld p ctx page && (match s.walkOf p ctx page with
    | some w => (s.walking p).contains w
    | none => (s.walks.keysOf (fun k => k.part == p)).length < 8 * (s.part p).slices)

/-- A walk that an engine or the Q9 makes: it joins the pending walk of its page, which completes for all its requesters
together, or is one of its own (04 R111, R112). -/
def State.engineWalk (s : State) (p ctx page : Nat) : State :=
  match s.walkOf p ctx page with
  | some w => s.finishWalk w
  | none => (s.countEvent p ctx 15 1).walkEffects (walkLog (s.walkPage p ctx (page * 65536)))

/-- A walk that no walker can run yet waits in its partition's queue (04 R112). -/
def State.queueWalk (s : State) (p ctx page : Nat) : State :=
  if (s.walkOf p ctx page).isSome then s
  else { s with walks := s.walks.set s.nextId { part := p, ctx := ctx, page := page, core := 288, agents := [] }, nextId := s.nextId + 1 }

/-- What an engine or the Q9 does at addresses of a context, once the walks of their pages can run; until then it waits,
its walks in the partition's queue (04 R111, R112). (DESIGN CHOICE, notes/assumptions/17.md.) -/
def State.walked (s : State) (p ctx : Nat) (addrs : List Nat) (run : State → State) (wait : State → State := id) : State :=
  let pages := ((addrs.filter (fun a => decide (a < 2 ^ 56))).map (· / 65536)).eraseDups
  if pages.all (s.walkGoes p ctx) then run (pages.foldl (fun (t : State) g => t.engineWalk p ctx g) s)
  else wait (pages.foldl (fun (t : State) g => t.queueWalk p ctx g) s)

/-- The first address of a range in each page that it meets. -/
def pageStarts (a n : Nat) : List Nat := (List.range ((a + n - 1) / 65536 - a / 65536 + 1)).map (fun i => max a ((a / 65536 + i) * 65536))

end Sys2Proof.Machine
end

