-- ==== Sys2Proof/Machine/Perform.lean ====
section
/-! DEFINITION. Accesses as they are performed: loads' data, stores draining, reads and accesses at the bank, and
registration requests (05 R130 to R139; 06 R149, R151; 07 R176, R182, R186). -/

namespace Sys2Proof.Machine

/-- A piece of an access by number: 65536 * access + index. (DESIGN CHOICE, notes/assumptions/76.md.) -/
def State.pieceOf (s : State) (req : Nat) : Option (Access × Piece) :=
  match s.accesses.find (req / 65536) with
  | some a => match a.pieces[req % 65536]? with
    | some p => some (a, p)
    | none => none
  | none => none

def State.setPiece (s : State) (req : Nat) (p : Piece) : State :=
  match s.accesses.find (req / 65536) with
  | some a => { s with accesses := s.accesses.set (req / 65536) { a with pieces := a.pieces.set (req % 65536) p } }
  | none => s

/-- Who made an access, with the lane (05 R140, R141). -/
def Access.party (a : Access) (lane : Nat) : Party :=
  { lane := lane, part := a.part, ctx := a.ctx, grid := a.grid, agent := a.agent, issuer := issuerCode a.core a.agent,
    mode := a.racemode, pc := a.pc,
    engine := match kindOf a.agent with
      | .warp c sl => .warp c sl
      | .conductor t => .conductor t
      | .management => .walker 0 0 }

/-- A late fault of an access whose word has retired (07 R174). -/
def State.accessFault (s : State) (a : Access) (code : Nat) (addr : DWord) (lane : Nat := 0) (detail : Nat := 0) : State :=
  s.lateFault a.part a.grid a.ctx a.agent code detail a.pc addr (a.party lane).engine lane

/-- An access that returns nothing and has been performed is no longer in flight. -/
def State.closeAccess (s : State) (id : Nat) : State :=
  match s.accesses.find id with
  | some a =>
    if a.pieces.all (·.done) && (!a.kind.returns || a.detached) then
      ({ s with accesses := s.accesses.erase id }).performedAccess id
    else s
  | none => s

/-- A piece has been performed. -/
def State.donePiece (s : State) (req : Nat) (p : Piece) : State :=
  (s.setPiece req { p with done := true }).closeAccess (req / 65536)

/-- The other words of an access in a line whose request has reached a bank make no request of their own (04 R119;
17 R422). -/
def State.counted (s : State) (id : Nat) (p : Piece) : State :=
  if p.counter.isNone then s
  else { s with accesses := s.accesses.modify id (fun a => { a with pieces := a.pieces.map (fun q =>
    if lineOf q.key == lineOf p.key && !q.scr then { q with counter := none } else q) }) }

/-- A request of an access reaches the bank: its page's counter is due an increment (04 R119), and its line is filled into
a way that has room (05 R126; 16 R406). -/
def State.reach (s : State) (a : Access) (id : Nat) (p : Piece) : State :=
  ((((s.counted id p).countDue p.counter (lineOf p.key)).touchHost p.key).countMiss a.part (countsIn a.agent a.ctx)
    (lineOf p.key)).fillWay (lineOf p.key)

/-- A forward is outstanding for the word's line (05 R131). -/
def State.lineHeld (s : State) (w : Nat) : Bool := (s.forwards.find (lineOf w)).isSome

/-- A read by an owner's cache takes its place in bank order (05 R132, R133): the value where the bank serves it, or
none where it asks the owner, whose data stand as they are then. A read that a race would leave registered frees a field
of the line first, which can force the other owner out with no race (05 R134). A race is reported with the access code
given. -/
def State.bankReadWord (s : State) (x w req : Nat) (by_ : Party) (access : Nat) (registers : Bool) :
    State × Option Word :=
  let b := s.bankWord w
  let y := s.ownerOf w
  let v := s.current w
  match b.st with
  | .u | .p => (s, some v)
  | .r =>
    if y == x then (s, some v)
    else if b.viaOl then (s.toU w v, some v)
    else (({ s with forwards := s.forwards.set (lineOf w) ⟨w, y, req, v⟩ }).countEvent by_.part by_.ctx 11 1, none)
  | .o | .ol =>
    if y == x then (s, some v)
    else
      let s0 := if registers then s.takeField (lineOf w) x else s
      if s0.regOf w == .u then (s0, some v)
      else
        let s1 := s0.toU w v
        let s2 := if registers then (s1.registerAs w x .r).setCopy x w v else s1
        (s2.reportRace x w ⟨y, b.st == .ol⟩ access by_, some v)

/-- An owner holds a word as its own latest write: registered in O, or with the request for it on its way (05 R130). -/
def State.holdsWord (s : State) (owner w : Nat) : Bool := s.held.get false (copyKey owner w)

/-- A piece needs the word's current value from the bank: a load that no cache served or whose data have come, an atomic
whose owner does not have the word, and a sub-word write, once its L1 shows it, of a word that its owner has not in O: a
word in R may change at the bank before its request (05 R130, R132; 07 R187). (DEDUCED, notes/assumptions/15.md.) -/
def State.needsRead (s : State) (a : Access) (p : Piece) : Bool :=
  !p.done && !p.scr && (a.path p == .l1 || a.path p == .section_) &&
  match a.kind with
  | .atomic _ => p.got.isNone && (s.hitOf a p).isNone
  | .load | .ldnt | .ldacq | .lddec => true
  | _ => p.mask != 15 && (a.path p != .l1 || p.inL1) && !s.holdsWord a.owner p.key

/-- The scale byte of a lane of lddec is known not to be a zero block's, or there is none (07 R181). -/
def Access.scaleReady (a : Access) (p : Piece) : Bool :=
  a.kind != .lddec || p.val2 == 1 || a.pieces.all (fun q => q.lane != p.lane || q.val2 != 1 || q.done)

/-- The scale byte of a lane of lddec, none on a page with FMT = 0. -/
def Access.scaleByte (a : Access) (lane : Nat) : Option Nat :=
  match a.pieces.find? (fun q => q.lane == lane && q.val2 == 1) with
  | some q => q.got.map (fun v => bitsN v.toNat (8 * (q.val.toNat % 4) + 7) (8 * (q.val.toNat % 4)))
  | none => none

/-- An element piece of a zero block: its bytes are not fetched (07 R181). -/
def Access.zeroBlock (a : Access) (p : Piece) : Bool :=
  a.kind == .lddec && p.val2 != 1 && a.scaleByte p.lane == some 0x80

/-- The words an atomic takes: its piece, and the next one where its type is a pair (07 R187). -/
def Access.partner (a : Access) (req : Nat) : Option Piece :=
  if a.wide then a.pieces[req % 65536 + 1]? else none

/-- Some word of an access has been performed. -/
def Access.begun (a : Access) : Bool := a.pieces.any (·.done)

/-- An atomic's fault as one of its words is performed (07 R174). Where it returns a value and none of its words has been
performed, it is precise, and none of them is (06 R151); else it is charged late, and the word stays as it is.
(DEDUCED, notes/assumptions/14.md.) -/
def State.atomFault (s : State) (req : Nat) (a : Access) (p : Piece) (q : Option Piece) (code detail : Nat) : State :=
  if a.kind.returns && !a.begun then
    let stop (i : Nat) (y : Piece) : Piece :=
      { y with done := true, bad := if i == req % 65536 then some (code, detail) else y.bad }
    ({ s with accesses := s.accesses.modify (req / 65536) (fun x => { x with pieces := x.pieces.mapIdx stop }) }).closeAccess
      (req / 65536)
  else
    let s1 := match q with
      | some x => s.setPiece (req + 1) { x with done := true }
      | none => s
    (s1.donePiece req p).accessFault a code p.addr p.lane detail

/-- An atomic that finds poison (07 R174). -/
def State.atomPoison (s : State) (req : Nat) (a : Access) (p : Piece) (q : Option Piece) : State :=
  s.atomFault req a p q fcPoison 0

/-- A word of an atomic that returns a value and has not begun is poisoned: it faults before it performs any
(06 R151; 07 R174). -/
def State.atomBad (s : State) (a : Access) : Option (Nat × Piece) :=
  if a.kind.returns && a.kind.isAtomic && !a.begun then
    (a.pieces.mapIdx (fun i p => (i, p))).find? (fun e => e.2.got.isNone && s.readsPoison a e.2)
  else none

/-- A write is accepted by its owner, which makes room for its line: its copy holds the value, and its core's L1 shows it
(05 R130; 06 R149). -/
def State.accept (s : State) (a : Access) (w : Nat) (v : Word) (p : Piece) : State :=
  let s1 := (s.makeRoom a.owner (lineOf w)).setCopy a.owner w v
  let s2 := match a.l1 with
    | some c => (match s1.cleanOf c w with
      | some old => s1.install c w { old with val := v }
      | none => if a.path p == Path.l1 && a.kind.isAtomic then s1.install c w (a.cleanWord p v) else s1)
    | none => s1
  let s3 := s2.dropClean a.innerCache w
  if a.kind == .stnt && a.owner < 0x020 then { s3 with firstOut := s3.firstOut.set (copyKey a.owner (lineOf w)) true } else s3

/-- A write of a port's HEAD forks as an engine's command does: a release begins of what its core has written before it
(06 R156; 15 R404). -/
def State.noteHead (s : State) (id : Nat) (a : Access) (w : Nat) : State :=
  let p := a.part
  let base := bitsN (s.preg p 0x23) 51 6 * 2 ^ 6
  if base == 0 then s
  else
    let ports := (List.range 256).filter (bitN (s.part p).fport)
    let head (k : Nat) : Bool := match s.gpa p (base + 64 * k + 16) with
      | .ok (d, _, _) => d / 4 == w
      | .error _ => false
    match (List.range ports.length).find? head with
    | some k =>
      let waits := (s.accesses.pick (fun i x => decide (i < id) && x.core == a.core && !x.kind.reads)).keys
      let port := ports.getD k 0
      ({ s with releases := s.releases.set s.nextId { agent := a.agent, scope := 4, owner := a.owner, part := p, waits := waits },
                nextId := s.nextId + 1 }).updPart p (fun q =>
        { q with portBy := q.portBy.set port (s.nextId :: q.portBy.get [] port) })
    | none => s

/-- A write accepted by its owner, through the L1; the first write of a word not held in O sends a registration
request, and what the owner has released of the word stays what others see until then (05 R130; 06 R149, R162).
(DEDUCED, notes/assumptions/15.md.) -/
def State.ownerWrite (s : State) (id : Nat) (a : Access) (w : Nat) (v : Word) (p : Piece) : State :=
  let prev := if s.regOf w == .r && s.ownerOf w == a.owner then s.copyOf a.owner w else none
  let s3 := (s.accept a w v p).noteHead id a w
  if s3.holdsWord a.owner w then s3
  else
    ({ s3 with
      held := s3.held.set (copyKey a.owner w) true,
      regReqs := s3.regReqs.set s3.nextId
        { owner := a.owner, word := w, part := a.part, ctx := a.ctx, grid := a.grid, issuer := issuerCode a.core a.agent,
          racemode := a.racemode, pc := a.pc, agent := a.agent, lane := p.lane, prev := prev, counter := p.counter },
      nextId := s3.nextId + 1 }).counted id p

/-- Earlier reads of the piece's thread have not obtained their values (06 R151). -/
def State.readsBefore (s : State) (id : Nat) (p : Piece) : Bool :=
  !(s.accesses.pick (fun k a => decide (k < id) && a.kind.returns
    && a.pieces.any (fun x => !x.done && x.tid == p.tid))).isEmpty

/-- Earlier pieces of the access write the same word and are not performed: lanes ascend (06 R148). -/
def Access.laneOrder (a : Access) (i : Nat) (p : Piece) : Bool :=
  (a.pieces.take i).any (fun x => !x.done && x.key == p.key && x.scr == p.scr)

/-- Another store of the core's L1 to the word has still to be accepted by the section (06 R162). -/
def State.l1Before (s : State) (a : Access) (p : Piece) : Bool :=
  !p.inL1 && !p.scr && a.core < 256 && (s.l1Store a.core p.key).isSome

/-- A write may be performed: its release is complete, what precedes it is done, and its section has room for its line. -/
def State.mayWrite (s : State) (req : Nat) (a : Access) (p : Piece) : Bool :=
  !p.done && !a.kind.reads && !(a.wide && req % 2 == 1) && !a.laneOrder (req % 65536) p && !s.readsBefore (req / 65536) p
    && !s.l1Before a p && ((a.path p != .l1 && a.path p != .section_) || s.hasRoom a.owner (lineOf p.key)) &&
    (match a.after with
      | some r => s.releaseDone r
      | none => true)

/-- Registration requests that an owner has sent are on their way. -/
def State.sending (s : State) (owner : Nat) : Bool := s.regReqs.anyV (fun r => r.owner == owner)

/-- A sub-word write whose owner does not hold the word takes its place in bank order whole: the bytes it does not write
are those that the bank gives, and the word is registered (05 R130, R132). (DEDUCED, notes/assumptions/15.md.) -/
def State.mergeAtBank (s : State) (req : Nat) (a : Access) (p : Piece) (old : Word) : State :=
  let g := s.register p.key a.owner a.ctx
  let s1 := (g.1.accept a p.key (mergeBytes p.mask old p.val) p).reportMaybe a.owner p.key g.2 1 (a.party p.lane)
  let s2 := ({ s1 with held := s1.held.set (copyKey a.owner p.key) true }).fireWatches p.key
  (s2.noteHead (req / 65536) a p.key).donePiece req p

/-- A sub-word write may take its place in bank order. -/
def State.mergeReady (s : State) (req : Nat) (a : Access) (p : Piece) : Bool :=
  a.kind.reads || a.kind.isAtomic || (s.mayWrite req a p && !s.sending a.owner)

/-- The access code that a race of a read at the bank records: a sub-word write's is a write (05 R141). -/
def AccKind.readCode (k : AccKind) : Nat := if k.reads || k.isAtomic then 0 else 1

/-- A load's data have come: it installs them where it fills caches, and what its L1 shows goes over them. -/
def State.loadGot (s : State) (req : Nat) (a : Access) (p : Piece) (v : Word) : State :=
  (s.fill a p v true).donePiece req { p with got := some (s.l1Over a p v) }

/-- A load that waits for its turn at the bank is done where its data have come meanwhile, or where a cache that it looks
at has the word now. (DESIGN CHOICE, notes/assumptions/13.md.) -/
def State.servedSince (s : State) (a : Access) (p : Piece) : Option Word :=
  if !a.kind.reads then none
  else match p.got with
    | some v => some (s.l1Over a p v)
    | none => s.hitOf a p

/-- A read at the bank for an owner's cache (BANK_READ). -/
def State.bankRead (s : State) (req : Nat) : State :=
  match s.pieceOf req with
  | none => s
  | some (a, p0) =>
    if !s.needsRead a p0 || !a.scaleReady p0 || s.l1Waits a p0 || !s.mergeReady req a p0 then s
    else if a.zeroBlock p0 then s.donePiece req p0
    else match s.servedSince a p0 with
    | some v => s.donePiece req { p0 with got := some v }
    | none =>
    if s.lineHeld p0.key then s
    else
      let s1 := s.reach a (req / 65536) p0
      let p := { p0 with counter := none }
      if s1.regOf p.key == .p then
        match a.kind with
        | .load | .ldnt | .ldacq | .lddec => s1.donePiece req { p with poison := true }
        | .atomic _ =>
          let b := if a.wide then req - req % 2 else req
          match s1.pieceOf b with
          | some (_, q) => s1.atomPoison b a q (a.partner b)
          | none => s1
        | _ => (s1.donePiece req p).accessFault a fcPoison p.addr p.lane
      else
        let reader := a.kind.reads || a.kind.isAtomic
        let s2 := if reader then s1 else s1.takeField (lineOf p.key) a.owner
        let r := s2.bankReadWord a.owner p.key req (a.party p.lane) a.kind.readCode reader
        match r.2 with
        | none => r.1
        | some v =>
          if a.kind.reads then r.1.loadGot req a p v
          else if a.kind.isAtomic then r.1.setPiece req { p with got := some v }
          else r.1.mergeAtBank req a p v

/-- The word a forward was for is still released by the owner that it asked. -/
def State.forwarded (s : State) (f : Forward) : Bool := s.regOf f.word == .r && s.ownerOf f.word == f.owner

/-- A forward reply: the bank gives the word to the reader and to the cache, where nothing has changed it since; where
something has, a load still gets the word as it stood at its place in bank order, and a write reads again
(05 R131, R132, R135). -/
def State.forwardReply (s : State) (line : Nat) : State :=
  match s.forwards.find line with
  | none => s
  | some f =>
    let s0 := { s with forwards := s.forwards.erase line }
    let (s1, v) := if s.forwarded f then (s0.toU f.word (s.current f.word), s.current f.word) else (s0, f.val)
    match s1.pieceOf f.req with
    | none => s1
    | some (a, p) =>
      if p.key != f.word || p.done then s1
      else if a.kind.reads then s1.loadGot f.req a p v
      else if !s.forwarded f then s1
      else if a.kind.isAtomic then s1.setPiece f.req { p with got := some v }
      else s1.mergeAtBank f.req a p v

/-! ### Writes -/

/-- A write or an atomic of a scratchpad word, performed there at once (06 R166). -/
def State.scratchWrite (s : State) (w : Nat) (v : Word) : State :=
  let s1 := s.setScratch w v
  { s1 with exact := s1.exact.erase (scratchExact w),
            scratchPoison := (List.range 4).foldl (fun m i => m.erase (4 * w + i)) s1.scratchPoison }

/-- An atomic's type. -/
def Access.atomTy (a : Access) : Ty := (Ty.ofNum a.ty).getD .i32

/-- The operand of an atomic piece as its type takes it. -/
def opnd (p : Piece) (q : Option Piece) (f : Piece → Word) : DWord :=
  match q with
  | some x => pair64 (f p) (f x)
  | none => (f p).setWidth 64

/-- An atomic's result on the words it took: the words to write, if any, and the status. -/
def Access.compute (a : Access) (fn : Nat) (p : Piece) (q : Option Piece) (old : DWord) : Option DWord × Nat :=
  atomNew fn a.atomTy old (opnd p q (·.val)) (opnd p q (·.val2))

/-- An atomic's piece or pair performed: the old words it returns, and its status. -/
def State.atomDone (s : State) (req : Nat) (p : Piece) (q : Option Piece) (old : DWord) (fe : Nat) : State :=
  let s1 := match s.accesses.find (req / 65536) with
    | some a => { s with accesses := s.accesses.set (req / 65536) { a with fe := a.fe ||| fe } }
    | none => s
  match q with
  | some x => (s1.setPiece (req + 1) { x with got := some (hi32 old), done := true }).donePiece req
      { p with got := some (lo32 old) }
  | none => s1.donePiece req { p with got := some (lo32 old) }

/-- An atomic at a scratchpad (07 R187, R190, R191). -/
def State.scratchAtom (s : State) (req fn : Nat) (a : Access) (p : Piece) : State :=
  let q := a.partner req
  if s.scratchBad p.key 15 || (match q with
      | some x => s.scratchBad x.key 15
      | none => false) then s.atomPoison req a p q
  else
    let old := match q with
      | some x => pair64 (s.scratchWord p.key) (s.scratchWord x.key)
      | none => (s.scratchWord p.key).setWidth 64
    if a.canon && (fn == 10 || fn == 17) then
      if (s.exact.find (scratchExact p.key)).isNone
          && 256 ≤ s.scratchEntries (s.scratchCore p.key) + (if fn == 10 then 0 else
            (s.reserved.filter (fun k => k != p.key && s.scratchCore k == s.scratchCore p.key)).length) then
        if fn == 10 then s.donePiece req { p with bad := some (fcScratchBounds, 0) }
        else (s.donePiece req p).accessFault a fcScratchBounds p.addr p.lane
      else
        let r := s.exactAdd (scratchExact p.key) a.atomTy (lo32 old) p.val a.part a.grid
        (r.1.setScratch p.key r.2.1).atomDone req p q old (if fn == 10 then r.2.2 else 0)
    else
      let r := a.compute fn p q old
      let s1 := match r.1, q with
        | some v, some x => (s.scratchWrite p.key (lo32 v)).scratchWrite x.key (hi32 v)
        | some v, none => s.scratchWrite p.key (lo32 v)
        | none, _ => s
      s1.atomDone req p q old (if fn == 10 then r.2 else 0)

/-- An atomic at its L1 or section cache (07 R187): its words are those the owner's caches hold, or that the bank gave.
(DEDUCED, notes/assumptions/14.md.) -/
def State.localAtom (s : State) (req fn : Nat) (a : Access) (p : Piece) : State :=
  let q := a.partner req
  let have_ (x : Piece) : Option Word := (s.hitOf a x).orElse (fun _ => x.got)
  match have_ p, q.map have_ with
  | some lo, none =>
    let old : DWord := lo.setWidth 64
    let r := a.compute fn p q old
    let s1 := match r.1 with
      | some v => s.ownerWrite (req / 65536) a p.key (lo32 v) p
      | none => s
    s1.atomDone req p q old (if fn == 10 then r.2 else 0)
  | some lo, some (some hi) =>
    let old := pair64 lo hi
    let r := a.compute fn p q old
    let s1 := match r.1, q with
      | some v, some x => (s.ownerWrite (req / 65536) a p.key (lo32 v) p).ownerWrite (req / 65536) a x.key (hi32 v)
          { x with counter := if lineOf x.key == lineOf p.key then none else x.counter }
      | _, _ => s
    s1.atomDone req p q old (if fn == 10 then r.2 else 0)
  | _, _ => s

/-- A word that msave writes in state P: a word, of which its core and its owner keep nothing, an earlier write that is
still to be registered included, or the bytes of a scratchpad word (12 R311). -/
def State.writePoison (s : State) (a : Access) (p : Piece) : State :=
  if p.scr then
    { s with scratchPoison := (List.range 4).foldl (fun m i => m.set (4 * p.key + i) true) s.scratchPoison }
  else
    let s1 := { s with regReqs := s.regReqs.filter (fun e => !(e.2.owner == a.owner && e.2.word == p.key)) }
    let s2 := s1.poisonWord p.key
    let s3 := { s2 with copies := s2.copies.erase (copyKey a.owner p.key), held := s2.held.erase (copyKey a.owner p.key) }
    (match a.l1 with
      | some c => s3.dropClean c p.key
      | none => s3).dropClean a.innerCache p.key

/-- A sub-word write of a word that its owner has in O, or is about to have, goes over its copy; another is performed at
the bank (05 R130). -/
def State.mergeCopy (s : State) (req : Nat) (a : Access) (p : Piece) : State :=
  match s.copyOf a.owner p.key with
  | some old =>
    if s.holdsWord a.owner p.key then
      (s.ownerWrite (req / 65536) a p.key (mergeBytes p.mask old p.val) p).donePiece req p
    else s
  | none => s

/-- The first stage of a weak write: the L1 shows it to the warps of its core, and a release of warp or cluster scope
waits for it no longer (06 R152, R162). -/
def State.showInL1 (s : State) (req : Nat) (a : Access) (p : Piece) : State :=
  let s1 := s.setPiece req { p with inL1 := true }
  let s2 := match a.l1 with
    | some c => (match s1.cleanOf c p.key with
      | some old => s1.install c p.key { old with val := mergeBytes p.mask old.val p.val }
      | none => s1)
    | none => s1
  if (s2.accesses.find (req / 65536)).any Access.shown then s2.shownAccess (req / 65536) else s2

/-- A retired store or a local atomic is performed at its location; a store through an L1 in two stages (STORE_DRAIN;
06 R162; 07 R182, R186). -/
def State.storeDrain (s : State) (req : Nat) : State :=
  match s.pieceOf req with
  | none => s
  | some (a, p) =>
    if !s.mayWrite req a p then s
    else if p.poison && a.path p != .bank && a.path p != .host then (s.writePoison a p).donePiece req p
    else match a.kind, a.path p with
      | .atomic fn, .scratch =>
        (match s.atomBad a with
          | some (i, q) => s.atomPoison (req - req % 65536 + i) a q none
          | none => s.scratchAtom req fn a p)
      | .atomic fn, .l1 | .atomic fn, .section_ =>
        (match s.atomBad a with
          | some (i, q) => s.atomPoison (req - req % 65536 + i) a q none
          | none => s.localAtom req fn a p)
      | _, .scratch =>
        if p.mask != 15 && s.scratchBad p.key 15 then (s.donePiece req p).accessFault a fcPoison p.addr p.lane
        else (s.scratchWrite p.key (mergeBytes p.mask (s.scratchWord p.key) p.val)).donePiece req p
      | _, .l1 | _, .section_ =>
        if a.path p == .l1 && !p.inL1 then s.showInL1 req a p
        else if p.mask == 15 then (s.ownerWrite (req / 65536) a p.key p.val p).donePiece req p
        else s.mergeCopy req a p
      | _, _ => s

/-! ### At the bank (05 R139) and at the host -/

/-- A word taken by an access performed at the bank, with the race it caught (05 R133, R139). -/
def State.takeAt (s : State) (x w : Nat) (access : Nat) (by_ : Party) : State × Word :=
  let race := s.raceWith w x
  let r := s.bankTake w
  (r.1.reportMaybe x w race access by_, r.2)

/-- An atomic at the bank on its word or pair (07 R187, R190). -/
def State.bankAtom (s : State) (req fn : Nat) (a : Access) (p : Piece) : State :=
  let q := a.partner req
  if s.regOf p.key == .p || (match q with
      | some x => s.regOf x.key == .p
      | none => false) then s.atomPoison req a p q
  else
    let r := s.takeAt a.owner p.key 2 (a.party p.lane)
    let r2 := match q with
      | some x =>
        let t := r.1.takeAt a.owner x.key 2 (a.party x.lane)
        (t.1, pair64 r.2 t.2)
      | none => (r.1, r.2.setWidth 64)
    let s1 := match q with
      | some x => (r2.1.dropInner a p).dropInner a x
      | none => r2.1.dropInner a p
    if a.canon && (fn == 10 || fn == 17) then
      let e := s1.exactAdd p.key a.atomTy (lo32 r2.2) p.val a.part a.grid
      (((e.1.setMem p.key e.2.1).fireWatches p.key).noteHead (req / 65536) a p.key).atomDone req p q r2.2
        (if fn == 10 then e.2.2 else 0)
    else
      let c := a.compute fn p q r2.2
      let s2 := match c.1, q with
        | some v, some x => (((s1.bankWrite p.key (lo32 v)).bankWrite x.key (hi32 v)).noteHead (req / 65536) a p.key).noteHead
            (req / 65536) a x.key
        | some v, none => (s1.bankWrite p.key (lo32 v)).noteHead (req / 65536) a p.key
        | none, _ => s1
      s2.atomDone req p q r2.2 (if fn == 10 then c.2 else 0)

/-- An AtomicOp that the host does not complete: PROTECTION with reason 10, precise where the atomic returns a value
(07 R174, R188). -/
def State.hostError (s : State) (req : Nat) (a : Access) (p : Piece) (q : Option Piece) : State :=
  s.atomFault req a p q fcProtection (detailOf 10 false 0 0)

/-- An atomic that the host performs as a PCI Express AtomicOp, where the host completes it (07 R188); of an atomic that
returns values, the first that is performed says so for all its lanes, for a faulted word has written nothing (06 R151).
(DESIGN CHOICE, notes/assumptions/78.md.) -/
def State.hostAtom (s : State) (req fn : Nat) (a : Access) (p : Piece) : State :=
  let q := a.partner req
  if !(a.kind.returns && a.begun) && Config.atomicOpFails s.free then s.takeFree.hostError req a p q
  else
  let old := match q with
    | some x => pair64 (s.memWord p.key) (s.memWord x.key)
    | none => (s.memWord p.key).setWidth 64
  let c := a.compute fn p q old
  let s1 := match c.1, q with
    | some v, some x => (s.hostPut p.key (lo32 v)).hostPut x.key (hi32 v)
    | some v, none => s.hostPut p.key (lo32 v)
    | none, _ => s
  s1.takeFree.atomDone req p q old 0

/-- A piece that is performed at the bank or at the host may be, as the bank stands: its owner's registration of the word
has arrived, no forward holds its line, and nothing that precedes it is outstanding (05 R130, R131; 06 R151). -/
def State.bankReady (s : State) (req : Nat) (a : Access) (p : Piece) : Bool :=
  let free (x : Piece) : Bool := !s.registering a.owner x.key && (a.path x != .bank || !s.lineHeld x.key)
  free p && (a.partner req).all free && (if a.kind.reads then !s.l1Waits a p else s.mayWrite req a p)

/-- An access performed at the bank or at the host (05 R139). -/
def State.bankPiece (s : State) (req : Nat) : State :=
  match s.pieceOf req with
  | none => s
  | some (a, p) =>
    if p.done || !a.scaleReady p then s
    else if a.zeroBlock p then s.donePiece req p
    else if !s.bankReady req a p then s
    else match a.path p, a.kind with
      | .host, .atomic fn =>
        (match s.atomBad a with
          | some (i, q) => s.atomPoison (req - req % 65536 + i) a q none
          | none => s.hostAtom req fn a p)
      | .host, k =>
        if k.reads then s.donePiece req { p with got := some (s.memWord p.key) }
        else (s.hostPut p.key (mergeBytes p.mask (s.memWord p.key) p.val)).donePiece req p
      | .bank, .atomic fn =>
        (match s.atomBad a with
          | some (i, q) => s.atomPoison (req - req % 65536 + i) a q none
          | none => (s.reach a (req / 65536) p).bankAtom req fn a p)
      | .bank, k =>
        let s1 := s.reach a (req / 65536) p
        if k.reads then
          if s1.regOf p.key == .p then s1.donePiece req { p with poison := true }
          else
            let r := s1.takeAt a.owner p.key 0 (a.party p.lane)
            (r.1.dropInner a p).donePiece req { p with got := some r.2 }
        else if p.poison then (s1.writePoison a p).donePiece req p
        else if s1.regOf p.key == .p && p.mask != 15 then (s1.donePiece req p).accessFault a fcPoison p.addr p.lane
        else
          let r := s1.takeAt a.owner p.key 1 (a.party p.lane)
          (((r.1.bankWrite p.key (mergeBytes p.mask r.2 p.val)).noteHead (req / 65536) a p.key).dropInner a p).donePiece req p
      | _, _ => s

/-- The four pieces of an aligned 16-byte store at package or system scope, which is one access for walkers (04 R114;
06 R148). -/
def Access.quad (a : Access) (p : Piece) : Bool :=
  (a.kind == .store || a.kind == .stnt || a.kind == .strel) && a.width == 16 && (a.scope == 4 || a.scope == 5) && !p.scr

/-- A read performed whole within its word's own step, at the location its scope gives (06 R149; 07 R196; 08 R216;
12 R312). (DESIGN CHOICE, notes/assumptions/16.md.) -/
def State.obtain (s : State) (a : Access) (p : Piece) : State × Word :=
  match a.path p with
  | .scratch => (s, s.scratchWord p.key)
  | .host => (s, s.memWord p.key)
  | .bank =>
    let t := (s.reach a 0 p).takeAt a.owner p.key 0 (a.party p.lane)
    (t.1.dropInner a p, t.2)
  | _ =>
    match s.hitOf a p with
    | some v => (s, v)
    | none =>
      let v := s.current p.key
      let t := (s.reach a 0 p).bankReadWord a.owner p.key 0 (a.party p.lane) 0 true
      let t1 := match t.2 with
        | some _ => t.1
        | none => ({ t.1 with forwards := t.1.forwards.erase (lineOf p.key) }).toU p.key v
      (t1.fill a p v true, s.l1Over a p v)

/-- Such a read has to wait: a forward holds its line, its core's L1 shows a store that lies before it, or its owner's
registration of the word is on its way. -/
def State.obtainWaits (s : State) (a : Access) (p : Piece) : Bool :=
  !p.scr && (s.lineHeld p.key || s.l1Waits a p || (a.path p == .bank && s.registering a.owner p.key))

/-- A registration request takes its place in bank order (REGISTRATION_REQUEST; 05 R132, R133). -/
def State.applyReg (s : State) (req : Nat) : State :=
  match s.regReqs.find req with
  | none => s
  | some r =>
    if s.lineHeld r.word || !(s.regReqs.pick (fun k q => decide (k < req) && q.owner == r.owner)).isEmpty then s
    else
      let s1 := ((({ s with regReqs := s.regReqs.erase req }).countDue r.counter (lineOf r.word)).countMiss r.part (countsIn r.agent r.ctx)
        (lineOf r.word)).needWay (lineOf r.word)
      let g := s1.register r.word r.owner r.ctx
      (g.1.reportMaybe r.owner r.word g.2 1
        { part := r.part, ctx := r.ctx, grid := r.grid, agent := r.agent, issuer := r.issuer, mode := r.racemode,
          pc := r.pc, lane := r.lane, engine := match kindOf r.agent with
            | .warp c sl => .warp c sl
            | .conductor t => .conductor t
            | .management => .walker 0 0 }).fireWatches r.word

/-! ### Data return (07 R176, R180, R186) -/

/-- The bytes a piece takes, from its word. -/
def Piece.bytes (p : Piece) (v : Word) : Word :=
  let sh := if bitN p.mask 0 then 0 else if bitN p.mask 1 then 8 else if bitN p.mask 2 then 16 else 24
  let n := popCount p.mask 4
  if p.mask == 15 then v else (v >>> sh) &&& BitVec.ofNat 32 (2 ^ (8 * n) - 1)

/-- The element bytes of a lane of lddec, ascending. -/
def Access.elementBytes (a : Access) (lane : Nat) : List Nat :=
  (a.pieces.filter (fun p => p.lane == lane && p.val2 != 1)).flatMap (fun p =>
    let v := (p.got.getD 0).toNat
    ((List.range 4).filter (fun i => bitN p.mask i)).map (fun i => bitsN v (8 * i + 7) (8 * i)))

/-- What a lane of lddec writes, with its status (07 R180, R181). (DEDUCED, notes/assumptions/33.md.) -/
def Access.decoded (a : Access) (lane : Nat) (row : Nat → Nat) (fcode : Nat) : List (Nat × Word) × Nat :=
  let k := (a.scaleByte lane).getD 0
  let y (f : Fmt) : List (Nat × Nat) := (a.elementBytes lane).map (fun b => roundVal f .rne (readScaled fcode b k))
  let fe (rs : List (Nat × Nat)) : Nat := rs.foldl (fun x r => x ||| r.2) 0
  if a.shape ≤ 1 then
    let rs := y (if a.shape == 0 then fmtF16 else fmtBf16)
    ([(row 0, BitVec.ofNat 32 ((rs.getD 0 (0, 0)).1 + (rs.getD 1 (0, 0)).1 * 2 ^ 16))], fe rs)
  else
    let rs := y fmtF32
    (rs.mapIdx (fun i r => (row i, BitVec.ofNat 32 r.1)), fe rs)

/-- The lanes of an access. -/
def Access.lanes (a : Access) : List Nat := (a.pieces.map (·.lane)).eraseDups

/-- What an access writes into rows, and its status. -/
def Access.results (a : Access) (rows : Nat → Nat → Nat) : List (Nat × Word) × Nat :=
  if a.kind == .lddec then
    let rs := a.lanes.map (fun l =>
      let f := ((a.pieces.find? (fun p => p.lane == l && p.val2 != 1)).elim 0 (·.val.toNat))
      a.decoded l (rows l) f)
    (rs.flatMap (·.1), rs.foldl (fun x r => x ||| r.2) 0)
  else
    (a.pieces.filterMap (fun p => match p.row, p.got with
      | some r, some v => some (r, p.bytes v)
      | _, _ => none), a.fe)

/-- The first lane whose data fault: poison, or what its data raise (07 R174, R181, R191). -/
def Access.dataFault (a : Access) : Option (Piece × Nat × Nat) :=
  (a.pieces.filter (fun p => !a.zeroBlock p)).findSome? (fun p =>
    if p.poison then some (p, fcPoison, 0) else p.bad.map (fun b => (p, b.1, b.2)))

/-- The pending writes of an access end. -/
def Agent.land (a : Agent) (id : Nat) : Agent :=
  { a with pend := a.pend.filter (fun p => p.req != id), parks := a.parks.filter (fun p => p.wait != .reg id) }

/-- Data arrives and the word's registers take them (LOAD_DATA_RETURN; 09 R231): a word that finds poison faults and
has written nothing; one that waited for its data retires, an ldacq after its acquire (06 R153). -/
def State.dataReturn (s : State) (id : Nat) : State :=
  match s.accesses.find id with
  | none => s
  | some a =>
    if !a.kind.returns || !a.pieces.all (·.done) then s
    else
      let s1 := (({ s with accesses := s.accesses.erase id }).performedAccess id).updAgent a.agent (·.land id)
      if a.detached then s1
      else s1.during a.agent a.pc (fun t =>
        match a.dataFault with
        | some (p, code, detail) => t.takeFault code p.lane detail p.addr
        | none =>
          let r := a.results (fun l i => rowKey t.me (t.me.base + l) (a.dest + i))
          let t1 := { t with rf := r.1.foldl (fun m (e : Nat × Word) => m.put 0 e.1 e.2) t.rf,
                             rfPoison := r.1.foldl (fun m (e : Nat × Word) => m.erase e.1) t.rfPoison }
          let t2 := t1.merge r.2 0
          let t3 := if a.kind == .ldacq then t2.acquire (t2.me.scope a.scope) 0xFFFF else t2
          let rs := ((a.pieces.filterMap (·.row)).map rowReg).eraseDups
          let t4 := t3.cacheRegs rs
          if a.holds then t4.retireLanes a.group else t4)

/-- BANK_ACCESS: a piece performed at the bank or at the host, with the rest of its lane's 16 bytes, all or none, where
they are one access (04 R114); an atomic that its thread waits for returns at once, for its word retires as it is performed (06 R151). -/
def State.bankAccess (s : State) (req : Nat) : State :=
  match s.pieceOf req with
  | none => s
  | some (a, p) =>
    let i := req % 65536
    let ix := if a.quad p then (List.range a.pieces.length).filter (fun j => (a.pieces.getD j p).lane == p.lane) else [i]
    let ready (j : Nat) : Bool := (a.pieces[j]?).all (fun q => q.done || s.bankReady (req - i + j) a q)
    let t := if a.quad p && !ix.all ready then s else ix.foldl (fun t j => t.bankPiece (req - i + j)) s
    if a.holds && a.kind.isAtomic then t.dataReturn (req / 65536) else t

end Sys2Proof.Machine
end

