-- ==== Sys2Proof/Machine/Load.lean ====
section
/-! DEFINITION. LOAD (07 R175 to R181): ld, ldacq, lddec, ldnt and pref. -/

namespace Sys2Proof.Machine

/-- The registers of a data group (02 R44). -/
def groupRegs (d : BitVec 8) (sz : Nat) : List Nat := (List.range ((sizeField sz).span .i32)).map (d.toNat + ·)

/-- The registers of an address field by space (02 R34). -/
def addrRegs (space : Space) (a : BitVec 8) : List Nat :=
  match space with
  | .g | .co => [a.toNat, a.toNat + 1]
  | _ => [a.toNat]

/-- The bytes of an access size (02 R44). -/
def sizeBytes (sz : Nat) : Nat := 2 ^ sz

/-- What a load asks for in a lane: one word for each register of its data group. -/
def State.loadReq (s : State) (w : WM) (l : Nat) : LaneReq :=
  { lane := l, ea := s.ea w.sp w.a w.off.toInt l, bytes := sizeBytes w.sz.toNat, need := { rd := true },
    words := (groupRegs w.d w.sz.toNat).map (fun n => { row := some (rowKey s.me (s.me.base + l) n) }) }

/-- A load of the active lanes (07 R176). (DESIGN CHOICE, notes/assumptions/37.md.) -/
def State.loadWord (s : State) (w : WM) (kind : AccKind) : State :=
  s.guarded w.g w.gn (groupRegs w.d w.sz.toNat ++ addrRegs w.sp w.a) (addrRegs w.sp w.a) (fun act =>
    let a := { s.newAccess kind w.sc.code.toNat with width := sizeBytes w.sz.toNat }
    s.checked (s.checkLanes a true (fun r => s.checkLane r r.bytes) (act.map (s.loadReq w)) [] none)
      (fun ps => (s.touchPieces ps).launchAccess { a with pieces := ps }))

def execLd (w : WM) (s : State) : Out := .next (s.loadWord w .load)
def execLdacq (w : WM) (s : State) : Out := .next (s.loadWord w .ldacq)
def execLdnt (w : WM) (s : State) : Out := .next (s.loadWord w .ldnt)

/-! ### lddec (07 R179 to R181) -/

/-- Elements of a decode shape, and the registers of its result (07 R179). -/
def shapeElems (sz : Nat) : Nat :=
  match sz with
  | 0 | 1 | 3 => 2
  | 2 => 1
  | 4 => 4
  | _ => 8

/-- The pieces of a lane's elements. -/
def elementPieces (s : State) (r : LaneReq) (addr : Nat) (q : Place) (code : Nat) (counter : Option CountInc) :
    List Piece :=
  (List.range ((r.bytes + 3) / 4)).map (fun i =>
    { lane := r.lane, tid := s.me.tid r.lane, key := q.key / 4 + i, pol := q.pol, mask := byteMask (addr % 4) r.bytes,
      val := BitVec.ofNat 32 code, region := q.region, addr := r.ea.addr, counter := counter, level := q.leaf.level })

/-- The piece of a lane's scale byte, a request of its page's own (07 R180; 17 R422). -/
def scalePiece (s : State) (r : LaneReq) (sp : Place) (counter : Option CountInc) : Piece :=
  { lane := r.lane, tid := s.me.tid r.lane, key := sp.key / 4, pol := sp.pol, mask := 2 ^ (sp.key % 4),
    val := BitVec.ofNat 32 (sp.key % 4), val2 := 1, addr := r.ea.addr, counter := if sp.pol == 2 then none else counter,
    level := sp.leaf.level }

/-- The key of elements that lie nowhere: no byte of the machine. -/
def nowhere : Nat := 2 ^ 100

/-- The place of the scale byte of the element at an address of a formatted page (04 R105). -/
def State.scalePlace (s : State) (p va : Nat) (leaf : Leaf) : Except XErr Place :=
  let size := 2 ^ levelShift leaf.level
  let at_ := leaf.scale + va % size / blockSize leaf.geom
  let fail (e : XErr) : XErr := atLevel e leaf.level 2
  if leaf.loc == 0 then
    match s.gpa p at_ with
    | .ok (d, (w2, l2), _) =>
      if bitN w2 1 then .ok { key := d, pol := max leaf.pol (pePol w2), leaf := leaf }
      else .error (fail (xerr 4 true l2))
    | .error e => .error (fail e)
  else if leaf.loc == 1 then
    if at_ < s.grantSize p then .ok { key := s.carveKey p at_, pol := leaf.pol, leaf := leaf }
    else .error (fail (xerr 8))
  else if leaf.pol == 2 then .ok { key := hostBase + at_ % 2 ^ 52, pol := 2, leaf := leaf }
  else .ok { key := hostCopyKey p at_, pol := leaf.pol, leaf := leaf }

/-- The checks of one lane of lddec: its elements, and its scale byte on a formatted page. An element address outside
its location faults only where its block is not a zero block (04 R105; 07 R181). -/
def State.checkDecode (s : State) (r : LaneReq) : LaneCheck :=
  let va := r.ea.addr.toNat
  if va % r.bytes != 0 then .fault fcMisalignedAccess 0 r.ea.addr
  else match s.locate .g r.ea.addr r.need with
    | .miss page => .miss page
    | .place q =>
      if !q.leaf.fmt then .ok (elementPieces s r va q 0 (s.counterOf va q.leaf))
      else match s.scalePlace s.me.part va q.leaf with
        | .error e => .fault e.code e.detail r.ea.addr
        | .ok sp =>
          .ok (scalePiece s r sp (s.counterOf va q.leaf) :: elementPieces s r va q q.leaf.fcode (s.counterOf va q.leaf))
    | .fault e =>
      match s.tlbFind (va / 2 ^ 16) with
      | some t =>
        if t.leaf.fmt && (t.leaf.lost.isSome || e.detail % 16 == 7 || e.detail % 16 == 8) then
          match s.scalePlace s.me.part va t.leaf with
          | .error x => .fault x.code x.detail r.ea.addr
          | .ok sp =>
            .ok (scalePiece s r sp (s.counterOf va t.leaf)
              :: (elementPieces s r va { key := nowhere, leaf := t.leaf } t.leaf.fcode none).map (fun p =>
                { p with done := true, bad := some (e.code, e.detail) }))
        else .fault e.code e.detail r.ea.addr
      | none => .fault e.code e.detail r.ea.addr

def execLddec (w : WM) (s : State) : Out :=
  .next (
    let ds := groupRegs w.d w.sz.toNat
    let regs := if w.sz.toNat ≤ 2 then [w.d.toNat] else ds
    s.guarded w.g w.gn (regs ++ addrRegs .g w.a) (addrRegs .g w.a) (fun act =>
      let a := { s.newAccess .lddec w.sc.code.toNat with shape := w.sz.toNat, dest := w.d.toNat }
      let req (l : Nat) : LaneReq :=
        { lane := l, ea := s.ea .g w.a w.off.toInt l, bytes := shapeElems w.sz.toNat, need := { rd := true }, words := [] }
      s.checked (s.checkLanes a true s.checkDecode (act.map req) [] none)
        (fun ps => (s.touchPieces ps).launchAccess { a with pieces := ps }
          (act.flatMap (fun l => regs.map (rowKey s.me (s.me.base + l)))))))

/-! ### pref (07 R178) -/

/-- A prefetch does nothing at a word: it is P, or O or OL of another owner (07 R178). -/
def State.prefSkips (s : State) (a : Access) (w : Nat) : Bool :=
  let st := s.regOf w
  st == .p || ((st == .o || st == .ol) && s.ownerOf w != a.owner)

/-- A word of a prefetched line that the bank gives: words that other owners have released are forwarded. -/
def State.prefWord (s : State) (a : Access) (p : Piece) : State :=
  if s.prefSkips a p.key then s
  else
    let s1 := if s.regOf p.key == .r && s.ownerOf p.key != a.owner then s.writeBack p.key else s
    s1.fill a p (s1.current p.key) true

/-- The line of a word prefetched: into an L1 from the section cache where that has it; else its bank is reached
(07 R178). -/
def State.prefLine (s : State) (w : WM) (a : Access) (p : Piece) : State :=
  let words (f : State → Piece → State) (t : State) : State :=
    (List.range 32).foldl (fun t i => f t { p with key := lineOf p.key * 32 + i, fillL1 := w.sz.toNat == 0 }) t
  if w.sz.toNat != 2 && (s.hitOf a p).isSome then
    if w.sz.toNat == 1 then s
    else words (fun t q => match t.innerHit a q.key with
      | some v => t.fill a q v false
      | none => t) s
  else
    let s1 := (s.settleForward (lineOf p.key)).reach a 0 p
    if p.pol == 1 || w.sz.toNat == 2 then s1 else words (fun t q => t.prefWord a q) s1

/-- What a lane's prefetch translates to (07 R178). -/
def State.prefPlace (s : State) (w : WM) (l : Nat) : XRes := s.locate w.sp (s.ea w.sp w.a w.off.toInt l).addr { rd := true }

/-- One lane's prefetch: nothing where it would fault or where the word may not be read (07 R178). -/
def State.prefLane (s : State) (w : WM) (a : Access) (l : Nat) : State :=
  match s.prefPlace w l with
  | .place q =>
    let k := q.key / 4
    if q.pol == 2 || s.prefSkips a k then s
    else s.prefLine w a { key := k, region := q.region, pol := q.pol,
                          counter := if w.sp == .g then s.counterOf (s.ea w.sp w.a w.off.toInt l).addr.toNat q.leaf else none }
  | _ => s

/-- The prefetches of some lanes, in lane order, with one request for each line (17 R422). -/
def State.prefLanes (s : State) (w : WM) (a : Access) (act : List Nat) : State :=
  (act.foldl (fun (t : State) l => t.prefLane w a l) s).oncePerLine s.counts.length

/-- A pref waits for the walks of its pages, as a load does, and then retires (04 R111; 07 R178). -/
def execPref (w : WM) (s : State) : Out :=
  .next (s.guarded w.g w.gn (addrRegs w.sp w.a) (addrRegs w.sp w.a) (fun act =>
    let page (l : Nat) : Option Nat := match s.prefPlace w l with
      | .miss page => some page
      | _ => none
    match act.findSome? page with
    | some page => s.checked (.miss page) (fun _ => s)
    | none => (s.prefLanes w (s.newAccess .load 0) act).retire))

end Sys2Proof.Machine
end

