-- ==== Sys2Proof/Machine/Atom.lean ====
section
/-! DEFINITION. ATOM: atomics and reductions (07 R184 to R191). -/

namespace Sys2Proof.Machine

/-- The forms a page with POL = 2 supports: add, exchange and compare-and-swap (07 R188). -/
def hostAtomOk (fn : Nat) : Bool := fn == 0 || fn == 11 || fn == 6 || fn == 7

/-- The registers of the operand b of an ATOM word (07 R184). -/
def atomRegs (fn : Nat) (w : W3) : List Nat := fieldRegs (if fn == 7 then .tyf2 else .tyf) w.ty w.b

/-- What an atomic asks for in a lane. -/
def State.atomReq (s : State) (fn : Nat) (w : W3) (l : Nat) : LaneReq :=
  let n := if w.ty.isPair then 2 else 1
  { lane := l, ea := s.ea (Space.ofNum (w.c.toNat % 4)) w.a 0 l, bytes := 4 * n, need := { rd := true, wr := true },
    words := (List.range n).map (fun i =>
      { val := s.reg l (w.b.toNat + i), val2 := s.reg l (w.b.toNat + n + i),
        row := if fn ≤ 10 then some (rowKey s.me (s.me.base + l) (w.d.toNat + i)) else none }) }

/-- An ATOM word (07 R186). -/
def State.atomWord (s : State) (fn : Nat) (w : W3) : State :=
  let space := Space.ofNum (w.c.toNat % 4)
  let src := addrRegs space w.a ++ atomRegs fn w
  let dst := if fn ≤ 10 then fieldRegs .tyf w.ty w.d else []
  s.guarded w.g w.gn (dst ++ src) src (fun act =>
    let a := { s.newAccess (.atomic fn) w.m.toNat with
      wide := w.ty.isPair, ty := w.ty.code.toNat, width := if w.ty.isPair then 8 else 4 }
    s.checked (s.checkLanes a (decide (fn ≤ 10)) (fun r => s.checkLane r r.bytes (hostAtomOk fn))
        (act.map (s.atomReq fn w)) [] none)
      (fun ps => (s.touchPieces ps).launchAccess { a with pieces := ps }))

def execAadd (w : W3) (s : State) : Out := .next (s.atomWord 0 w)
def execAmin (w : W3) (s : State) : Out := .next (s.atomWord 1 w)
def execAmax (w : W3) (s : State) : Out := .next (s.atomWord 2 w)
def execAand (w : W3) (s : State) : Out := .next (s.atomWord 3 w)
def execAor (w : W3) (s : State) : Out := .next (s.atomWord 4 w)
def execAxor (w : W3) (s : State) : Out := .next (s.atomWord 5 w)
def execAxch (w : W3) (s : State) : Out := .next (s.atomWord 6 w)
def execAcas (w : W3) (s : State) : Out := .next (s.atomWord 7 w)
def execAinc (w : W3) (s : State) : Out := .next (s.atomWord 8 w)
def execAdec (w : W3) (s : State) : Out := .next (s.atomWord 9 w)
def execAaddf (w : W3) (s : State) : Out := .next (s.atomWord 10 w)
def execRadd (w : W3) (s : State) : Out := .next (s.atomWord 11 w)
def execRmin (w : W3) (s : State) : Out := .next (s.atomWord 12 w)
def execRmax (w : W3) (s : State) : Out := .next (s.atomWord 13 w)
def execRand (w : W3) (s : State) : Out := .next (s.atomWord 14 w)
def execRor (w : W3) (s : State) : Out := .next (s.atomWord 15 w)
def execRxor (w : W3) (s : State) : Out := .next (s.atomWord 16 w)
def execRaddf (w : W3) (s : State) : Out := .next (s.atomWord 17 w)

end Sys2Proof.Machine
end

