-- ==== Sys2Proof/Machine/Stores.lean ====
section
/-! DEFINITION. STORE (07 R175, R177, R182): st, strel and stnt. -/

namespace Sys2Proof.Machine

/-- What a store asks for in a lane: the words of its data group. -/
def State.storeReq (s : State) (w : WM) (l : Nat) : LaneReq :=
  { lane := l, ea := s.ea w.sp w.a w.off.toInt l, bytes := sizeBytes w.sz.toNat, need := { wr := true },
    words := (groupRegs w.d w.sz.toNat).map (fun n => { val := s.reg l n }) }

/-- A store of the active lanes: it retires once its checks pass (07 R182). -/
def State.storeWord (s : State) (w : WM) (kind : AccKind) (after : State → State × Option Nat) : State :=
  s.guarded w.g w.gn (groupRegs w.d w.sz.toNat ++ addrRegs w.sp w.a) (groupRegs w.d w.sz.toNat ++ addrRegs w.sp w.a)
    (fun act =>
      let a := { s.newAccess kind w.sc.code.toNat with width := sizeBytes w.sz.toNat }
      s.checked (s.checkLanes a false (fun r => s.checkLane r r.bytes) (act.map (s.storeReq w)) [] none)
        (fun ps =>
          let r := if act.isEmpty then (s, none) else after (s.touchPieces ps)
          r.1.launchAccess { a with pieces := ps, after := r.2 }))

def execSt (w : WM) (s : State) : Out := .next (s.storeWord w .store (fun t => (t, none)))

/-- strel: its writes wait for one release of the word (07 R182). -/
def execStrel (w : WM) (s : State) : Out :=
  .next (s.storeWord w .strel (fun t => t.startRelease (t.me.scope w.sc.code.toNat)))

def execStnt (w : WM) (s : State) : Out := .next (s.storeWord w .stnt (fun t => (t, none)))

end Sys2Proof.Machine
end

