-- ==== Sys2Proof/Machine/Sync.lean ====
section
/-! DEFINITION. SYNC: fence, acq, rel, region and waitm (07 R192 to R197; 06 R165). -/

namespace Sys2Proof.Machine

/-- A SYNC word: once for the warp with the operands of the lowest active lane (07 R192). -/
def State.syncWord (s : State) (fn : Nat) (w : W3) (effect : Nat → List Nat → State) : State :=
  s.w3 0x1B fn w (fun act => s.once act (fun x => effect x act))

def execFence (w : W3) (s : State) : Out :=
  .next (s.syncWord 0 w (fun _ _ =>
    let scope := s.me.scope w.m.toNat
    s.releasing scope (fun t => (t.acquire scope 0xFFFF).retire)))

/-- (DEDUCED, notes/assumptions/36.md.) -/
def execAcq (w : W3) (s : State) : Out :=
  .next (s.syncWord 1 w (fun x _ =>
    if s.readsPending then s.park .retry
    else (s.acquire (s.me.scope w.m.toNat) (s.nat32 x w.a.toNat % 2 ^ 16)).retire))

def execRel (w : W3) (s : State) : Out :=
  .next (s.syncWord 2 w (fun _ _ => s.releasing (s.me.scope w.m.toNat) (fun t => t.retire)))

/-- The clean words the issuing context filled under one index, dropped in the core's L1 and section cache
(06 R165). -/
def State.dropRegion (s : State) (i : Nat) : State :=
  let test (c : CleanWord) : Bool := c.part == s.me.part && c.ctx == s.me.ctx && c.region == i
  match s.me.kind with
  | .warp c _ => s.flash c test true true
  | .conductor t => s.flashThread (t / 8) test
  | .management => s

def execRegionInvalidate (w : W3) (s : State) : Out :=
  .next (s.syncWord 3 w (fun x _ => (s.dropRegion (s.nat32 x w.a.toNat % 16)).retire))

/-- The status of a region entry's new value (07 R195). -/
def regionStatus (i : Nat) (base len : Nat) : Nat :=
  if i == 0 then 1
  else if base % 2 ^ 16 != 0 || 2 ^ 56 ≤ base then 2
  else if 2 ^ 56 < base + len then 3
  else 0

def execRegionRewrite (w : W3) (s : State) : Out :=
  .next (s.syncWord 3 w (fun x act =>
    let i := s.nat32 x w.a.toNat % 16
    let base := (s.pair x w.b.toNat).toNat
    let len := s.nat32 x w.c.toNat * 65536
    let k := regionStatus i base len
    let s1 := s.dropRegion i
    let s2 := if k == 0 then
        s1.updContext s.me.part s.me.ctx (fun c => { c with regions := c.regions.put {} i ⟨base, len⟩ })
      else s1
    s2.finish (act.map (fun l => ⟨[(l, w.d.toNat, BitVec.ofNat 32 k)], 0, 0⟩))))

/-! ### Waiting on a word -/

/-- A park has a watch. -/
def Park.watched (k : Park) : Bool :=
  match k.wait with
  | .word _ true => true
  | _ => false

/-- Watches a partition has in use, one for each wait but the issuing word's own (07 R197).
(DESIGN CHOICE, notes/assumptions/38.md.) -/
def State.watchesUsed (s : State) (p : Nat) : Nat :=
  ((s.agents.filter (fun a => a.part == p)).map (fun a =>
    (a.parks.filter (fun k => k.watched && !(a.id == s.me.id && k.pc == s.issuePc))).length)).sum

/-- A wait on a word takes a free watch of its slice's partition; a page with POL = 2 and a full set poll (07 R197).
(DESIGN CHOICE, notes/assumptions/38.md.) -/
def State.watchFree (s : State) (pol : Nat) : Bool :=
  pol != 2 && s.watchesUsed s.me.part < 64 * (s.part s.me.part).slices

/-- One strong read of a 4-byte word of space 0 by a lane, at once, with what follows it (06 R149; 07 R196; 08 R216). -/
def State.readStrong (s : State) (lane : Nat) (addr : DWord) (scope : Nat) (k : State → Piece → Word → State) : State :=
  let r : LaneReq := { lane := lane, ea := { space := .g, addr := addr }, bytes := 4, need := { rd := true }, words := [{}] }
  let a := s.newAccess .load scope
  s.checked (s.checkLanes a true (fun q => s.checkLane q 4) [r] [] none) (fun ps =>
    match ps with
    | [] => s.retire
    | p :: _ =>
      let s1 := s.touchPieces ps
      if s1.obtainWaits a p then s.park .retry
      else
        let r := s1.obtain a p
        k r.1 p r.2)

/-- waitm: one read; the word parks until its watch fires or its limit expires (07 R196). -/
def execWaitm (w : W3) (s : State) : Out :=
  .next (s.syncWord 4 w (fun x act =>
    s.readStrong x (s.pair x w.a.toNat) 5 (fun t p v =>
      let lim := s.nat32 x w.c.toNat
      if v != s.reg x w.b.toNat || (lim != 0 && lim ≤ s.tick - s.began) then
        t.finish (act.map (fun l => ⟨[(l, w.d.toNat, v)], 0, 0⟩))
      else t.park (.word p.key (t.watchFree p.pol)) lim)))

end Sys2Proof.Machine
end

