-- ==== Sys2Proof/Machine/Chime.lean ====
section
/-! DEFINITION. CHIME (08 R216). -/

namespace Sys2Proof.Machine

/-- A CHIME word: once for the warp, with the operands of the lowest active lane (08 R216). -/
def State.chimeWord (s : State) (fn : Nat) (w : W3) (effect : Nat → State) : State :=
  s.w3 0x23 fn w (fun act => s.once act effect)

/-- A strong write of a chime word, checked as a 4-byte store is (08 R216); it drains as a store does. -/
def State.chimeWrite (s : State) (w : W3) (x : Nat) (v : Word) (after : State → State × Option Nat) : State :=
  let r : LaneReq := { lane := x, ea := { space := .g, addr := s.pair x w.a.toNat }, bytes := 4, need := { wr := true },
                       words := [{ val := v }] }
  let a := s.newAccess .chime w.m.toNat
  s.checked (s.checkLanes a false (fun q => s.checkLane q 4) [r] [] none) (fun ps =>
    let t := after (s.touchPieces ps)
    t.1.launchAccess { a with pieces := ps, after := t.2 })

def execChset (w : W3) (s : State) : Out :=
  .next (s.chimeWord 0 w (fun x => s.chimeWrite w x (s.reg x w.b.toNat) (fun t => t.startRelease (t.me.scope w.m.toNat))))

/-- chwait: reads until the word is at least the bound, then the acquire of its mask (08 R216). -/
def execChwait (w : W3) (s : State) : Out :=
  .next (s.chimeWord 1 w (fun x =>
    let scope := w.m.toNat
    s.readStrong x (s.pair x w.a.toNat) scope (fun t p v =>
      if s.reg x w.b.toNat ≤ v then
        if t.readsPending then t.park .retry
        else (t.acquire (t.me.scope scope) (s.nat32 x w.c.toNat % 2 ^ 16)).retire
      else t.park (.word p.key (t.watchFree p.pol)))))

def execChclr (w : W3) (s : State) : Out :=
  .next (s.chimeWord 2 w (fun x => s.chimeWrite w x 0 (fun t => (t, none))))

end Sys2Proof.Machine
end

