-- ==== Sys2Proof/Machine/Convert.lean ====
section
/-! DEFINITION. FCVT (10 R264 to R268). -/

namespace Sys2Proof.Machine

/-- The format code of field c (10 R264). -/
def cFormat (w : W3) : Nat := w.c.toNat % 64

/-- The source type of field b (10 R264). -/
def bType (w : W3) : Ty := (Ty.ofNum (w.b.toNat % 16)).getD .f32

/-- fcvt between register types admits stochastic rounding where neither is f64 (10 R253). -/
def cvtSr (w : W3) : Bool := w.ty != .f64 && bType w != .f64

/-- fcvt, float to float (10 R265). -/
def execFcvtFloat (w : W3) (s : State) : Out :=
  .next (s.w3 0x05 0 w (fun act => s.finish (act.map (fun l =>
    let src := elems (bType w) (s.operand (bType w) l w.a.toNat)
    let rs := src.mapIdx (fun e x => fpConvert (fmtOf (bType w)) (fmtOf w.ty) (s.mode w.m (cvtSr w) l e) x)
    outOf w.ty l w.d.toNat (ofElems w.ty (rs.map (·.1)), rs.foldl (fun a r => a ||| r.2) 0)))
    (s.draws w.m (cvtSr w))))

/-- The binary8 forms admit stochastic rounding by their register type (10 R253). -/
def cvt8Sr (w : W3) : Bool := w.ty != .f64

/-- fcvt, binary8 to float: element e from byte e (10 R265). -/
def execFcvtFromBinary8 (w : W3) (s : State) : Out :=
  .next (s.w3 0x05 0 w (fun act => s.finish (act.map (fun l =>
    let v := s.nat32 l w.a.toNat
    let rs := (List.range (if w.ty.isPacked then 2 else 1)).map (fun e =>
      roundVal (fmtOf w.ty) (s.mode w.m (cvt8Sr w) l e) (decode8 (cFormat w) (bitsN v (8 * e + 7) (8 * e))))
    outOf w.ty l w.d.toNat (ofElems w.ty (rs.map (·.1)), rs.foldl (fun a r => a ||| r.2) 0)))
    (s.draws w.m (cvt8Sr w))))

/-- fcvt, float to binary8: byte e from element e, the rest of d zero (10 R265). -/
def execFcvtToBinary8 (w : W3) (s : State) : Out :=
  .next (s.w3 0x05 0 w (fun act => s.finish (act.map (fun l =>
    let rs := (elems w.ty (s.opA w l)).mapIdx (fun e x =>
      encode8 (cFormat w) (s.mode w.m (cvt8Sr w) l e) (decodeIeee (fmtOf w.ty) x))
    outOf .n32 l w.d.toNat
      (BitVec.ofNat 64 ((rs.mapIdx (fun e r => r.1 * 2 ^ (8 * e))).foldl (· + ·) 0),
        rs.foldl (fun a r => a ||| r.2) 0)))
    (s.draws w.m (cvt8Sr w))))

/-- The range of an integer type. -/
def intLo (t : Ty) : Int := if tySigned t then -(2 ^ (tyBits t - 1)) else 0
def intHi (t : Ty) : Int := if tySigned t then 2 ^ (tyBits t - 1) - 1 else 2 ^ tyBits t - 1

/-- One lane of icvt (10 R266). -/
def icvtVal (src dst : Ty) (m : Rnd) (x : DWord) : DWord × Nat :=
  if src.isInt then
    if dst.isInt then (wrapTo dst (ival src x), 0)
    else
      let r := roundVal (fmtOf dst) m (ofInt (ival src x))
      (BitVec.ofNat 64 r.1, r.2)
  else
    let r := toIntRange m (intLo dst) (intHi dst) (decodeIeee (fmtOf src) (x.toNat % 2 ^ (fmtOf src).width))
    (wrapTo dst r.1, r.2)

/-- icvt never admits stochastic rounding (10 R253). -/
def execIcvt (w : W3) (s : State) : Out :=
  .next (s.w3 0x05 1 w (fun act => s.finish (act.map (fun l =>
    outOf w.ty l w.d.toNat (icvtVal (bType w) w.ty (s.mode w.m false l 0) (s.operand (bType w) l w.a.toNat))))))

/-- The four values a lane gives to fpack (10 R267). -/
def State.packValues (s : State) (w : W3) (l : Nat) : List FVal :=
  (List.range 4).map (fun i => decodeIeee (fmtOf w.ty) ((s.reg l (w.a.toNat + i)).toNat % 2 ^ (fmtOf w.ty).width))

/-- The four codes of a lane packed with the scale k, and their status (10 R267). -/
def packCodes (f : Nat) (m : Rnd) (k : Int) (xs : List FVal) : Nat × Nat :=
  let rs := xs.map (fun x => if k == -128 then (0, 0) else encode8 f m (scaleBy x (-k)))
  ((rs.mapIdx (fun i r => r.1 * 2 ^ (8 * i))).foldl (· + ·) 0, rs.foldl (fun a r => a ||| r.2) 0)

/-- The lanes that share a block of an fpack (10 R267). -/
def packLanes (w : W3) : Nat := blockSize (w.c.toNat / 64) / 4

/-- fpack: the lanes of a block share the canonical scale of their values; a block wider than the warp faults before a
source is read (10 R267). -/
def execFpack (w : W3) (s : State) : Out :=
  .next (if s.me.width < packLanes w then
      match w3Shape 0x05 2 w with
      | some h => s.guarded w.g w.gn (w3Named h w) [] (fun act => s.faultHere fcWidthMisuse (act.headD (s.group.headD 0)))
      | none => s.faultHere fcIllegalInstruction
    else s.w3 0x05 2 w (fun act =>
      let lanes := packLanes w
      let m := s.mode w.m false 0 0
      s.finish (act.map (fun l =>
        let xs := (act.filter (fun j => j / lanes == l / lanes)).flatMap (s.packValues w)
        let k := canonicalScale (cFormat w) m xs
        let r := packCodes (cFormat w) m k (s.packValues w l)
        ⟨[(l, w.d.toNat, BitVec.ofNat 32 r.1), (l, w.d.toNat + 1, BitVec.ofNat 32 (scaleByte k))], r.2, 0⟩))))

/-- funpack: four codes under one scale, each rounded once into ty (10 R268). -/
def execFunpack (w : W3) (s : State) : Out :=
  .next (s.w3 0x05 3 w (fun act => s.finish (act.map (fun l =>
    let codes := s.nat32 l w.a.toNat
    let k := s.nat32 l (w.a.toNat + 1) % 256
    let rs := (List.range 4).map (fun i =>
      roundVal (fmtOf w.ty) (s.mode w.m false l 0) (readScaled (cFormat w) (bitsN codes (8 * i + 7) (8 * i)) k))
    ⟨rs.mapIdx (fun i r => (l, w.d.toNat + i, BitVec.ofNat 32 r.1)), rs.foldl (fun a r => a ||| r.2) 0, 0⟩))))

end Sys2Proof.Machine
end

