-- ==== Sys2Proof/Machine/Reg.lean ====
section
/-! DEFINITION. REG: special registers and the pair lock (09 R227 to R230). -/

namespace Sys2Proof.Machine

/-- %frame, %section, %partition and %xlock from the agent's place (09 R229). -/
def State.srFrame (s : State) : Nat := if s.me.isWarp then s.me.base + s.me.frame * 64 else 0

def State.srSection (s : State) : Nat :=
  match s.me.kind with
  | .warp c _ => (c / 8 - s.me.part) + c % 8 * 2 ^ 8 + (s.cluster.group.elim 0xFFFF (· % 2 ^ 16)) * 2 ^ 16
  | .conductor t => t / 8 - s.me.part
  | .management => 0

def State.srPartition (s : State) : Nat := s.me.part + (s.part s.me.part).logn * 2 ^ 8 + s.me.ctx * 2 ^ 16

def State.srXlock (s : State) : Nat :=
  if s.me.isWarp then
    let l := s.lock s.me.core s.me.pairGroup
    (if l.holder == some s.me.slot then 1 else 0)
      + (if l.holder.isSome && l.holder != some s.me.slot then 2 else 0)
      + (if s.me.regE != 0 then 4 else 0) + s.me.pairGroup * 2 ^ 8
  else 5

/-- %tags: the cluster's bitmap, or the thread's own (08 R211). -/
def State.tagSet (s : State) : TagSet := if s.me.isWarp then s.cluster.tags else s.me.tags

def State.setTags (s : State) (t : TagSet) : State :=
  if s.me.isWarp then { s with clusters := match s.clusters.find s.me.cluster with
      | some c => s.clusters.set s.me.cluster { c with tags := t }
      | none => s.clusters }
  else s.updMe (fun a => { a with tags := t })

/-- The virtual tick of the agent's context (15 R397). -/
def State.vtick (s : State) : DWord := BitVec.ofNat 64 s.tick - (s.context s.me.part s.me.ctx).toff

/-- The value of a special register for a lane, by selector 0 to 27 (09 R228). -/
def State.special (s : State) (sel lane : Nat) : DWord :=
  let a := s.me
  let n (x : Nat) : DWord := BitVec.ofNat 64 x
  let z (x : Word) : DWord := x.setWidth 64
  match sel with
  | 0 => n (if a.isWarp then lane else 0)
  | 1 => n a.width
  | 2 => n s.srFrame
  | 3 => n (match a.kind with
      | .warp _ sl => sl
      | .conductor t => t
      | .management => 0)
  | 4 => n (if a.isWarp then s.cluster.index else 0)
  | 5 => n s.srSection
  | 6 => n (a.grid % 2 ^ 32)
  | 7 => n s.srPartition
  | 8 => z ((a.threads[lane]?).elim 0xFFFFFFFF (·.meet))
  | 9 => z a.lc0
  | 10 => z a.lc1
  | 11 => z a.lc2
  | 12 => s.tagSet.bits
  | 13 => a.rngKey
  | 14 => a.rngCtr
  | 15 => z a.repro
  | 16 => z a.fpmode
  | 17 => z a.iexc
  | 18 => z a.fexc
  | 19 => s.vtick
  | 20 => n s.srXlock
  | 21 => z a.racemode
  | 22 => z a.trapvec
  | 23 => z a.trapinfo
  | 24 => z a.shp0
  | 25 => z a.shp1
  | 26 => z a.shp2
  | 27 => z a.shp3
  | _ => 0

/-- The selectors of %shp0 to %shp3, which a warp may not name (02 R51). -/
def selShp (sel : Nat) : Bool := 24 ≤ sel && sel ≤ 27

/-- smov: each lane's own value, both words at one moment (09 R230). -/
def execSmov (w : W3) (s : State) : Out :=
  .next (if selShp w.a.toNat && s.me.isWarp then s.faultHere fcIllegalUnit (s.group.headD 0)
    else s.w3 0x0A 0 w (fun act => s.finish (act.map (fun l =>
      let sel := w.a.toNat
      let v := if 128 ≤ sel then (hi32 (s.special (sel - 128) l)).setWidth 64 else s.special sel l
      ⟨resultOf w.ty l w.d.toNat v, 0, 0⟩))))

/-- A 64-bit register with one word or both written (09 R230). -/
def writeHalf (old : DWord) (upper wide : Bool) (v : DWord) : DWord :=
  if wide then v else if upper then pair64 (lo32 old) (lo32 v) else pair64 (lo32 v) (hi32 old)

/-- A write of a special register that has one copy for the agent, under its field rules (03 R64, R67, R68;
05 R140; 14 R350). -/
def Agent.setSpecial (a : Agent) (sel : Nat) (wide : Bool) (v : DWord) : Agent :=
  let x := lo32 v
  match sel with
  | 9 => { a with lc0 := x }
  | 10 => { a with lc1 := x }
  | 11 => { a with lc2 := x }
  | 13 => { a with rngKey := writeHalf a.rngKey false wide v }
  | 14 => { a with rngCtr := writeHalf a.rngCtr false wide v }
  | 141 => { a with rngKey := writeHalf a.rngKey true wide v }
  | 142 => { a with rngCtr := writeHalf a.rngCtr true wide v }
  | 16 => { a with fpmode := if 6 ≤ x.toNat % 8 then a.fpmode else x &&& 7 }
  | 17 => { a with iexc := x &&& 3 }
  | 18 => { a with fexc := x &&& 31 }
  | 21 => { a with racemode := if x.toNat % 4 == 3 then a.racemode else x &&& 3 }
  | 22 => { a with trapvec := x &&& 0xFFFFFFFB }
  | 24 => { a with shp0 := x }
  | 25 => { a with shp1 := x }
  | 26 => { a with shp2 := x }
  | 27 => { a with shp3 := x }
  | _ => a

/-- smovw: %meet for each active lane, any other register from the lowest active lane (09 R230). -/
def execSmovw (w : W3) (s : State) : Out :=
  .next (if selShp w.a.toNat && s.me.isWarp then s.faultHere fcIllegalUnit (s.group.headD 0)
    else s.w3 0x0A 1 w (fun act => s.once act (fun x =>
      if w.a == 8 then
        (s.updMe (fun a => { a with threads := mapLanes (fun l t =>
          if act.contains l then { t with meet := s.reg l w.b.toNat } else t) a.threads })).retire
      else (s.updMe (fun a => a.setSpecial w.a.toNat (w.ty == .n64) (s.opB w x))).retire)))

/-- Register-cache entries of the extended set are emptied (09 R233). -/
def State.dropExt (s : State) : State := s.updMe (fun a => { a with cache := a.cache.filter (· < 128) })

/-- The lock of a pair group is handed to the next warp that waits for it, whose xacq may go on (09 R227). -/
def State.handLock (s : State) (core pair : Nat) : State :=
  let k := lockKey core pair
  match (s.lock core pair).waiters with
  | w :: ws =>
    ({ s with locks := s.locks.put {} k ⟨some w, ws⟩ }).updAgent (core * 32 + w) (fun a => { a with
      parks := a.parks.map (fun (p : Park) => if p.wait == Wait.lock then { p with done := true } else p) })
  | [] => { s with locks := s.locks.put {} k {} }

/-- A warp lets its pair group's lock go, or no longer waits for it (09 R227; 11 R291). -/
def State.passLock (s : State) (core pair slot : Nat) : State :=
  let l := s.lock core pair
  if l.holder == some slot then s.handLock core pair
  else { s with locks := s.locks.put {} (lockKey core pair) { l with waiters := l.waiters.filter (· != slot) } }

/-- xacq: the lock is taken, or the warp parks in order (09 R227). -/
def execXacq (w : W3) (s : State) : Out :=
  .next (s.w3 0x0A 2 w (fun act => s.once act (fun _ =>
    if !s.me.isWarp || s.me.regE == 0 then s.retire
    else
      let k := lockKey s.me.core s.me.pairGroup
      let l := s.lock s.me.core s.me.pairGroup
      if l.holder == some s.me.slot then s.dropExt.retire
      else if l.holder.isNone && (l.waiters.isEmpty || l.waiters.head? == some s.me.slot) then
        ({ s with locks := s.locks.put {} k ⟨some s.me.slot, l.waiters.filter (· != s.me.slot)⟩ }).dropExt.retire
      else
        ({ s with locks := s.locks.put {} k (if l.waiters.contains s.me.slot then l
            else { l with waiters := l.waiters ++ [s.me.slot] }) }).park .lock)))

/-- The row of a register of the extended set. -/
def extRow (row : Nat) : Bool := rowTag row == 1

/-- xrel: the lock is released to the next parked warp once the warp's writes to the extended set have landed
(09 R227). -/
def execXrel (w : W3) (s : State) : Out :=
  .next (s.w3 0x0A 3 w (fun act => s.once act (fun _ =>
    if s.me.isWarp && s.holdsLock then
      if s.me.pend.any (fun p => extRow p.row) then s.park .retry
      else
        (s.passLock s.me.core s.me.pairGroup s.me.slot).dropExt.retire
    else s.retire)))

end Sys2Proof.Machine
end

