-- ==== Sys2Proof/Machine/Copy.lean ====
section
/-! DEFINITION. COPY: cpy, gath, scat and coll as they issue (08 R199 to R204). -/

namespace Sys2Proof.Machine

/-- The form of a command address, bits [63:62] (08 R201). -/
def cmdForm (a : DWord) : Nat := bitsN a.toNat 63 62

/-- The space and address of a command address (08 R201). -/
def cmdEa (a : DWord) : Ea :=
  match cmdForm a with
  | 0 => { space := .g, addr := a }
  | 1 => { space := .co, addr := BitVec.ofNat 64 (bitsN a.toNat 55 0) }
  | 2 => { space := .sp, scr := (bitsN a.toNat 21 0 : Nat) }
  | _ => { space := .rsp, scr := (bitsN a.toNat 21 0 : Nat), peer := bitsN a.toNat 26 24 }

/-- The address breaks a bit that 08 R201 requires to be 0; form 0 is judged by R98. -/
def cmdBitsBad (a : DWord) : Bool :=
  match cmdForm a with
  | 0 => false
  | 1 => bitsN a.toNat 61 56 != 0
  | 2 => bitsN a.toNat 61 22 != 0
  | _ => bitsN a.toNat 61 27 != 0 || bitsN a.toNat 23 22 != 0

/-- A scratchpad form. -/
def cmdScratch (a : DWord) : Bool := 2 ≤ cmdForm a

/-- Control-word fields (08 R202). -/
def ctlTag (c : Word) : Nat := bitsN c.toNat 5 0
def ctlTen (c : Word) : Bool := bitN c.toNat 6
def ctlGen (c : Word) : Bool := bitN c.toNat 7
def ctlXfer (c : Word) : Bool := bitN c.toNat 8
def ctlRed (c : Word) : Bool := bitN c.toNat 9
def ctlRty (c : Word) : Nat := bitsN c.toNat 11 10
def ctlGong (c : Word) : Nat := bitsN c.toNat 31 12 * 16

/-- The length or element size a kind admits (08 R200). -/
def cmdSizeOk (k : CmdKind) (n : Nat) : Bool :=
  match k with
  | .cpy | .coll => n ≤ 2 ^ 26 && n % 4 == 0
  | _ => 4 ≤ n && n ≤ 4096 && n == 2 ^ n.log2

/-- One address a lane supplies, the bytes it touches below and above it, and whether it is a destination. -/
structure CmdAddr where
  addr : DWord
  low : Nat
  len : Nat
  dst : Bool

/-- Checks 3 to 6 of 08 R203 for one address: the fault it raises at a check, if any. -/
def State.cmdCheck (s : State) (ctl : Word) (check : Nat) (x : CmdAddr) : Option Nat :=
  let e := cmdEa x.addr
  match check with
  | 3 => if cmdBitsBad x.addr || (x.dst && cmdScratch x.addr && (ctlXfer ctl || ctlRed ctl)) then
      some fcEngineCommand else none
  | 4 => if cmdForm x.addr == 0 && bitsN x.addr.toNat 61 56 != 0 then some fcNotMapped else none
  | 5 => if x.addr.toNat % 4 != 0 then some fcMisalignedAccess else none
  | _ =>
    if !cmdScratch x.addr then none
    else match s.scratchOwner e, e.space with
      | none, .rsp => some fcNotPlaced
      | none, _ => some fcScratchBounds
      | some c, _ =>
        if ((s.clusters.get {} c).scratch : Int) < e.scr + (x.low + x.len : Nat) then some fcScratchBounds else none

/-- DETAIL of a check's fault: reason 1 for NOT_MAPPED (04 R116). -/
def cmdDetail (code : Nat) : Nat := if code == fcNotMapped then 1 else 0

/-- The first failing check of a lane's addresses: code and address (08 R203). -/
def State.cmdLane (s : State) (ctl : Word) (xs : List CmdAddr) : Option (Nat × DWord) :=
  [3, 4, 5, 6].findSome? (fun k => xs.findSome? (fun x => (s.cmdCheck ctl k x).map (fun c => (c, x.addr))))

/-- The pieces of a command (08 R204). -/
def State.cmdPieces (s : State) (k : CmdKind) (w : W3) (act : List Nat) (x n : Nat) : List CmdPiece :=
  let at_ (l : Nat) (b : BitVec 8) : DWord := s.pair l b.toNat
  let off (l : Nat) : DWord := BitVec.ofNat 64 (n * (if s.me.isWarp then l else 0))
  match k with
  | .cpy => [⟨at_ x w.a, at_ x w.b, n⟩]
  | .gath => act.map (fun l => ⟨at_ l w.a, at_ x w.b + off l, n⟩)
  | .scat => act.map (fun l => ⟨at_ x w.a + off l, at_ l w.b, n⟩)
  | _ => act.map (fun l => ⟨at_ l w.a, at_ x w.b, n⟩)

/-- The addresses a lane supplies, with what the command touches at each (08 R203). -/
def State.cmdAddrs (s : State) (k : CmdKind) (w : W3) (act : List Nat) (x n l : Nat) : List CmdAddr :=
  let top := n * (act.foldl max 0)
  let src (z : Nat) : CmdAddr := ⟨s.pair z w.a.toNat, 0, n, false⟩
  let dst (z : Nat) : CmdAddr := ⟨s.pair z w.b.toNat, 0, n, true⟩
  match k with
  | .cpy => if l == x then [src x, dst x] else []
  | .gath => src l :: (if l == x then [{ dst x with low := top }] else [])
  | .scat => (if l == x then [{ src x with low := top }] else []) ++ [dst l]
  | _ => src l :: (if l == x then [dst x] else [])

/-- The first fault of the lanes that supply addresses: lane, code and address. A gong outside the scratchpad is lane
x's, at check 6 (08 R203). -/
def State.cmdFault (s : State) (k : CmdKind) (w : W3) (act : List Nat) (x n : Nat) (ctl : Word) :
    Option (Nat × Nat × DWord) :=
  act.findSome? (fun l => match s.cmdLane ctl (s.cmdAddrs k w act x n l) with
    | some (c, a) => some (l, c, a)
    | none =>
      if l == x && ctlGen ctl && (!s.me.isWarp || s.cluster.scratch < ctlGong ctl + 16) then
        some (l, fcScratchBounds, BitVec.ofNat 64 (ctlGong ctl))
      else none)

/-- The destination mask of a command: the region of each destination page under the issuing context, bit 0 for what
no entry covers (06 R156). -/
def State.destMask (s : State) (ps : List CmdPiece) : Nat :=
  let c := s.context s.me.part s.me.ctx
  ps.foldl (fun m p =>
    match cmdForm p.dst with
    | 0 =>
      if p.len == 0 then m
      else
        let a := p.dst.toNat
        let pages := (a + p.len - 1) / 65536 - a / 65536 + 1
        (List.range pages).foldl (fun m i => m ||| 2 ^ regionOf c ((a / 65536 + i) * 65536)) m
    | 1 => m ||| 1
    | _ => m) 0

/-- Commands a core's queue holds: its slots in use (08 R199). -/
def State.slotsUsed (s : State) (core queue : Nat) : Nat :=
  (s.cmds.pick (fun _ c => c.core == core && c.queue == queue && c.kind != .mldb)).length

/-- A tag's count raised and its bit cleared (08 R211). -/
def TagSet.issue (t : TagSet) (i : Nat) : TagSet :=
  { t with bits := t.bits &&& ~~~(1#64 <<< i), counts := t.counts.set i (t.counts.get 0 i + 1) }

/-- The next place in a status queue of the issuing agent (08 R209). -/
def State.queueSeq (s : State) (q : Nat) : Nat := ((s.me.queues.getD q {}).seq + 1) % 2 ^ 16

/-- A command takes its slot, its tag and its place in the status queue, and forks under 06 R156; the word retires. -/
def State.issueCommand (s : State) (c : Command) : State :=
  let r := s.startRelease 4
  let s1 := r.1
  let id := s1.nextId
  let s2 := { s1 with nextId := id + 1, cmds := s1.cmds.set id { c with slot := s.me.slot, forks := r.2.toList } }
  let s3 := s2.updMe (fun a => { a with queues := a.queues.mapIdx (fun i q =>
    if i == c.queue then { q with seq := c.seq, entries := q.entries ++ [{ cmd := id }] } else q) })
  let s4 := if ctlTen c.ctl then s3.setTags (s3.tagSet.issue (ctlTag c.ctl)) else s3
  s4.retire

/-- A COPY word (08 R199 to R204). -/
def State.copyWord (s : State) (fn : Nat) (k : CmdKind) (w : W3) : State :=
  s.w3 0x20 fn w (fun act => s.once act (fun x =>
    let n := s.nat32 x w.c.toNat
    let ctl := s.reg x (w.c.toNat + 1)
    let q := w.d.toNat
    if 4 ≤ q then s.faultHere fcQueueMisuse x
    else if !cmdSizeOk k n then s.faultHere fcEngineCommand x
    else match s.cmdFault k w act x n ctl with
      | some (l, code, a) => s.takeFault code l (cmdDetail code) a
      | none =>
        if 128 ≤ s.slotsUsed s.me.core q || s.readsPending
            || (ctlTen ctl && 255 ≤ s.tagSet.counts.get 0 (ctlTag ctl)) then s.park .retry
        else
          let ps := s.cmdPieces k w act x n
          s.issueCommand
            { kind := k, queue := q, agent := s.me.id, core := s.me.core, part := s.me.part, ctx := s.me.ctx,
              grid := s.me.grid, cluster := s.me.cluster, pc := s.issuePc, scope := s.me.scope w.m.toNat, ctl := ctl,
              seq := s.queueSeq q, racemode := s.me.racemode.toNat, canon := bitN s.me.repro.toNat 0,
              pieces := ps, size := n, bytes := (if k == .cpy || k == .coll then n else n * act.length),
              mask := s.destMask ps }))

def execCpy (w : W3) (s : State) : Out := .next (s.copyWord 0 .cpy w)
def execGath (w : W3) (s : State) : Out := .next (s.copyWord 1 .gath w)
def execScat (w : W3) (s : State) : Out := .next (s.copyWord 2 .scat w)
def execColl (w : W3) (s : State) : Out := .next (s.copyWord 3 .coll w)

end Sys2Proof.Machine
end

