-- ==== Sys2Proof/Machine/Float.lean ====
section
/-! DEFINITION. FP (10 R260 to R263). -/

namespace Sys2Proof.Machine

/-- FP words admit stochastic rounding for every type but f64 (10 R253). -/
def fpSr (t : Ty) : Bool := t != .f64

/-- An FP word that rounds: each element in the mode of its lane and place (10 R261). -/
def State.fpRound (s : State) (fn : Nat) (w : W3) (f : Rnd → Nat → Nat → Nat → Nat × Nat) : State :=
  s.w3 0x04 fn w (fun act => s.finish (act.map (fun l =>
    outOf w.ty l w.d.toNat (zip3Elems w.ty (s.opA w l) (s.opB w l) (s.opC w l)
      (fun e x y z => f (s.mode w.m (fpSr w.ty) l e) x y z)))) (s.draws w.m (fpSr w.ty)))

def execFadd (w : W3) (s : State) : Out := .next (s.fpRound 0 w (fun m x y _ => fpAdd (fmtOf w.ty) m x y))
def execFsub (w : W3) (s : State) : Out := .next (s.fpRound 1 w (fun m x y _ => fpSub (fmtOf w.ty) m x y))
def execFmul (w : W3) (s : State) : Out := .next (s.fpRound 2 w (fun m x y _ => fpMul (fmtOf w.ty) m x y))
def execFfma (w : W3) (s : State) : Out := .next (s.fpRound 3 w (fun m x y z => fpFma (fmtOf w.ty) m x y z))
def execFrnd (w : W3) (s : State) : Out := .next (s.fpRound 10 w (fun m x _ _ => fpRnd (fmtOf w.ty) m x))

/-- fscal: one exponent, an i32, for every element (10 R260, R261). -/
def execFscal (w : W3) (s : State) : Out :=
  .next (s.w3 0x04 11 w (fun act => s.finish (act.map (fun l =>
    outOf w.ty l w.d.toNat (mapElems w.ty (s.opA w l)
      (fun e x => fpScal (fmtOf w.ty) (s.mode w.m (fpSr w.ty) l e) x (s.int32 l w.b.toNat)))))
    (s.draws w.m (fpSr w.ty))))

/-- An FP word that does not round. -/
def State.fpExact (s : State) (fn : Nat) (w : W3) (f : Nat → Nat → Nat × Nat) : State :=
  s.w3 0x04 fn w (fun act => s.finish (act.map (fun l =>
    outOf w.ty l w.d.toNat (zipElems w.ty (s.opA w l) (s.opB w l) (fun _ x y => f x y)))))

def execFmin (w : W3) (s : State) : Out := .next (s.fpExact 4 w (fun x y => fpMinMax (fmtOf w.ty) false x y))
def execFmax (w : W3) (s : State) : Out := .next (s.fpExact 5 w (fun x y => fpMinMax (fmtOf w.ty) true x y))
def execFabs (w : W3) (s : State) : Out := .next (s.fpExact 6 w (fun x _ => (fpAbs (fmtOf w.ty) x, 0)))
def execFneg (w : W3) (s : State) : Out := .next (s.fpExact 7 w (fun x _ => (fpNeg (fmtOf w.ty) x, 0)))
def execFcopys (w : W3) (s : State) : Out := .next (s.fpExact 12 w (fun x y => (fpCopys (fmtOf w.ty) x y, 0)))

/-- Per-element results of fcmp and fclass laid out in one register: element 0 at bit 0, element 1 at bit 16
(10 R262). -/
def layOut (rs : List (Nat × Nat)) : DWord × Nat :=
  (BitVec.ofNat 64 ((rs.mapIdx (fun i r => r.1 * 2 ^ (16 * i))).foldl (· + ·) 0),
    rs.foldl (fun a r => a ||| r.2) 0)

/-- fcmp of two operands under a condition (10 R262). -/
def fcmpVal (t : Ty) (cond : Nat) (x y : DWord) : DWord × Nat :=
  layOut (((elems t x).zip (elems t y)).map (fun p =>
    let r := fpCmp (fmtOf t) cond p.1 p.2
    (if r.1 then 1 else 0, r.2)))

def execFcmp (w : W3) (s : State) : Out :=
  .next (s.w3 0x04 8 w (fun act => s.finish (act.map (fun l =>
    outOf .n32 l w.d.toNat (fcmpVal w.ty w.m.toNat (s.opA w l) (s.opB w l))))))

def execFclass (w : W3) (s : State) : Out :=
  .next (s.w3 0x04 9 w (fun act => s.finish (act.map (fun l =>
    outOf .n32 l w.d.toNat (layOut ((elems w.ty (s.opA w l)).map (fun x => (fpClass (fmtOf w.ty) x, 0))))))))

end Sys2Proof.Machine
end

