-- ==== Sys2Proof/Machine/Tag.lean ====
section
/-! DEFINITION. TAG (08 R211, R212) and the joins of completion objects (06 R156). -/

namespace Sys2Proof.Machine

/-- An observer joins the operations of a completion object: an acquire of each one's scope and mask (06 R156).
(DEDUCED, notes/assumptions/32.md.) -/
def State.joinAll (s : State) (js : List Join) : State := js.foldl (fun t j => t.acquire (t.me.scope j.scope) j.mask) s

/-- The tags of a mask that a test picks. -/
def tagsOf (m : DWord) (p : Nat → Bool) : List Nat := (List.range 64).filter (fun i => bitN m.toNat i && p i)

def TagSet.isSet (t : TagSet) (i : Nat) : Bool := bitN t.bits.toNat i
def TagSet.idle (t : TagSet) (i : Nat) : Bool := t.counts.get 0 i == 0

/-- The commands whose completions set a tag's bit. -/
def TagSet.joinsOf (t : TagSet) (is : List Nat) : List Join := is.flatMap (fun i => t.joins.get [] i)

/-- A completion: the count falls, and the bit is set at 0 (08 R211). (DEDUCED, notes/assumptions/32.md.) -/
def TagSet.complete (t : TagSet) (i : Nat) (j : Join) : TagSet :=
  let n := t.counts.get 0 i - 1
  { bits := if n == 0 then t.bits ||| (1#64 <<< i) else t.bits,
    counts := t.counts.put 0 i n,
    joins := t.joins.set i (j :: t.joins.get [] i) }

/-- A TAG word: the mask of the lowest active lane (08 R212). -/
def State.tagWord (s : State) (fn : Nat) (w : W3) (effect : List Nat → DWord → State) : State :=
  s.w3 0x21 fn w (fun act => s.once act (fun x => effect act (s.pair x w.a.toNat)))

def execTagwa (w : W3) (s : State) : Out :=
  .next (s.tagWord 0 w (fun _ m =>
    let t := s.tagSet
    if (tagsOf m (fun i => !t.isSet i && !t.idle i)).isEmpty then
      (s.joinAll (t.joinsOf (tagsOf m t.isSet))).retire
    else s.park .retry))

def execTagwy (w : W3) (s : State) : Out :=
  .next (s.tagWord 1 w (fun _ m =>
    let t := s.tagSet
    let set := tagsOf m t.isSet
    if !set.isEmpty || (tagsOf m (fun i => !t.idle i)).isEmpty then (s.joinAll (t.joinsOf set)).retire
    else s.park .retry))

def execTagff (w : W3) (s : State) : Out :=
  .next (s.tagWord 2 w (fun act m =>
    let t := s.tagSet
    match tagsOf m t.isSet with
    | i :: _ => (s.joinAll (t.joinsOf [i])).finish (act.map (fun l => ⟨[(l, w.d.toNat, BitVec.ofNat 32 i)], 0, 0⟩))
    | [] => s.finish (act.map (fun l => ⟨[(l, w.d.toNat, 64)], 0, 0⟩))))

def execTagclr (w : W3) (s : State) : Out :=
  .next (s.tagWord 3 w (fun _ m =>
    let t := s.tagSet
    (s.setTags { t with bits := t.bits &&& ~~~m, joins := t.joins.drop (bitN m.toNat) }).retire))

end Sys2Proof.Machine
end

