-- ==== Sys2Proof/Machine/Gong.lean ====
section
/-! DEFINITION. GONG (08 R213 to R215). -/

namespace Sys2Proof.Machine

/-- A gong's four words (08 R213). DESIGN CHOICE (notes/assumptions/77.md): a plain store may leave reserved bits of words
1 and 3 nonzero (08 R214 calls it an ordinary access, and 00 R6 reads them as 0 where the hardware writes them); the
model keeps those of word 3, clears those of word 1 at the next arrival or completed phase, and reads its fields
past them. -/
structure GongWords where
  rem : Word
  word1 : Word
  relb : Word
  word3 : Word
  deriving DecidableEq, Repr

/-- The phase, pending arrivals and reload count. -/
def GongWords.phase (g : GongWords) : Bool := bitN g.word1.toNat 31
def GongWords.pend (g : GongWords) : Nat := g.word1.toNat % 2 ^ 16
def GongWords.rela (g : GongWords) : Nat := g.word3.toNat % 2 ^ 16

/-- Word 1 from its fields: its reserved bits read 0. -/
def gongWord1 (phase : Bool) (pend : Nat) : Word := BitVec.ofNat 32 (pend % 2 ^ 16 + if phase then 2 ^ 31 else 0)

/-- A gong read and written at its scratchpad word (06 R166). -/
def State.gong (s : State) (k : Nat) : GongWords :=
  ⟨s.scratchWord k, s.scratchWord (k + 1), s.scratchWord (k + 2), s.scratchWord (k + 3)⟩

def State.setGong (s : State) (k : Nat) (g : GongWords) : State :=
  (((s.scratchWrite k g.rem).scratchWrite (k + 1) g.word1).scratchWrite (k + 2) g.relb).scratchWrite (k + 3) g.word3

/-- The completion check made after each update (08 R214). -/
def GongWords.check (g : GongWords) : GongWords :=
  if g.pend == 0 && g.rem == 0 then { g with rem := g.relb, word1 := gongWord1 (!g.phase) g.rela } else g

/-- A completed command's bytes subtracted (08 R214). -/
def GongWords.complete (g : GongWords) (n : Nat) : GongWords := { g with rem := g.rem - BitVec.ofNat 32 n }.check

/-- An arrival (08 R214). -/
def GongWords.arrive (g : GongWords) (b : Word) : GongWords :=
  { g with rem := g.rem + b, word1 := gongWord1 g.phase (g.pend - 1) }.check

/-- The scratchpad word of a gong of the issuing agent, with the checks of 07 R174: the fault otherwise. -/
def State.gongAt (s : State) (x : Nat) (a : BitVec 8) : Except Nat Nat :=
  let at_ := bitsN (s.nat32 x a.toNat) 21 0
  if at_ % 16 != 0 then .error fcMisalignedAccess
  else if !s.me.isWarp || s.cluster.scratch < at_ + 16 then .error fcScratchBounds
  else .ok (scratchKey s.me.cluster at_ / 4)

/-- A GONG word: once for the warp, with the operands of the lowest active lane (08 R215). It waits for its own
threads' earlier stores to the gong, and what writes it for their earlier reads (06 R151). -/
def State.gongWord (s : State) (fn : Nat) (w : W3) (effect : Nat → List Nat → Nat → State) : State :=
  s.w3 0x22 fn w (fun act => s.once act (fun x =>
    match s.gongAt x w.a with
    | .error c => s.takeFault c x 0 (BitVec.ofNat 64 (bitsN (s.nat32 x w.a.toNat) 21 0))
    | .ok k =>
      let ps := (List.range 4).map (fun i => ({ lane := x, tid := s.me.tid x, key := k + i, scr := true } : Piece))
      if s.overlaps ps || (decide (fn ≤ 1) && s.readsPending) then s.park .retry
      else if fn != 0 && (List.range 4).any (fun i => s.scratchBad (k + i) 15) then
        s.takeFault fcPoison x 0 (BitVec.ofNat 64 (bitsN (s.nat32 x w.a.toNat) 21 0))
      else effect x act k))

def execGongi (w : W3) (s : State) : Out :=
  .next (s.gongWord 0 w (fun x _ k =>
    let relb := s.reg x w.b.toNat
    let rela := s.nat32 x w.c.toNat % 2 ^ 16
    let s1 := s.setGong k ⟨relb, gongWord1 false rela, relb, BitVec.ofNat 32 rela⟩
    { s1 with gongJoins := s1.gongJoins.erase k }.retire))

/-- The phase to every active lane. -/
def State.phaseTo (s : State) (d : Nat) (act : List Nat) (p : Bool) : State :=
  s.finish (act.map (fun l => ⟨[(l, d, if p then 1 else 0)], 0, 0⟩))

def execGonga (w : W3) (s : State) : Out :=
  .next (s.gongWord 1 w (fun x act k =>
    let g := s.gong k
    if g.pend == 0 then s.takeFault fcEngineCommand x 0 0
    else (s.setGong k (g.arrive (s.reg x w.b.toNat))).phaseTo w.d.toNat act g.phase))

def execGongw (w : W3) (s : State) : Out :=
  .next (s.gongWord 2 w (fun x _ k =>
    if (s.gong k).phase == bitN (s.nat32 x w.b.toNat) 0 then s.park .retry
    else (s.joinAll (s.gongJoins.get [] k)).retire))

def execGongt (w : W3) (s : State) : Out :=
  .next (s.gongWord 3 w (fun _ act k =>
    (s.joinAll (s.gongJoins.get [] k)).phaseTo w.d.toNat act (s.gong k).phase))

end Sys2Proof.Machine
end

