-- ==== Sys2Proof/Machine/Lane.lean ====
section
/-! DEFINITION. LANE (09 R241 to R246; 03 R89). -/

namespace Sys2Proof.Machine

/-- A LANE word. -/
def State.laneWord (s : State) (fn : Nat) (w : W3) (effect : List Nat → List LaneOut) (draws : Bool := false) : State :=
  s.w3 0x08 fn w (fun act => s.finish (effect act) draws)

/-- The operand of a lane of a ty-sized field. -/
def State.laneVal (s : State) (w : W3) (l : Nat) : DWord := s.operand w.ty l w.a.toNat

/-- The source lane of shfl, none outside the warp (09 R243). -/
def shflSource (m width lane idx : Nat) : Option Nat :=
  match m with
  | 0 => some (idx % width)
  | 1 => if idx ≤ lane then some (lane - idx) else none
  | 2 => if lane + idx < width then some (lane + idx) else none
  | _ => some ((lane ^^^ idx) % width)

def execShfl (w : W3) (s : State) : Out :=
  .next (s.laneWord 0 w (fun act => act.map (fun l =>
    let v := match shflSource w.m.toNat s.me.width l (s.nat32 l w.b.toNat) with
      | some j => if act.contains j then s.laneVal w j else s.laneVal w l
      | none => s.laneVal w l
    ⟨resultOf w.ty l w.d.toNat v, 0, 0⟩)))

/-- The mask of lanes (09 R241). -/
def laneMask (ls : List Nat) : Nat := ls.foldl (fun m l => m ||| 2 ^ l) 0

/-- vote's result over the active lanes' predicates (09 R244). -/
def voteResult (m : Nat) (act yes : List Nat) : Nat :=
  match m with
  | 0 => if yes.length == act.length then 1 else 0
  | 1 => if yes.isEmpty then 0 else 1
  | 2 => if yes.isEmpty || yes.length == act.length then 1 else 0
  | 3 => laneMask yes
  | _ => yes.length

def execVote (w : W3) (s : State) : Out :=
  .next (s.laneWord 1 w (fun act =>
    let yes := act.filter (fun l => bitN (s.nat32 l w.a.toNat) 0)
    let r := BitVec.ofNat 64 (voteResult w.m.toNat act yes)
    act.map (fun l => ⟨resultOf (if w.m == 3 then .n64 else .n32) l w.d.toNat r, 0, 0⟩)))

def execBcast (w : W3) (s : State) : Out :=
  .next (s.laneWord 2 w (fun act =>
    let j := s.nat32 (act.headD 0) w.b.toNat % s.me.width
    act.map (fun l => ⟨resultOf w.ty l w.d.toNat (if act.contains j then s.laneVal w j else s.laneVal w l), 0, 0⟩)))

/-- One combination of redux and scan (09 R245). -/
def combine (t : Ty) (op : Nat) (m : Rnd) (x y : DWord) : DWord × Nat :=
  if t == .f32 then
    let r := match op with
      | 0 => fpAdd fmtF32 m (uval t x) (uval t y)
      | 1 => fpMinMax fmtF32 false (uval t x) (uval t y)
      | _ => fpMinMax fmtF32 true (uval t x) (uval t y)
    (BitVec.ofNat 64 r.1, r.2)
  else match op with
    | 0 => plain (wrapTo t (ival t x + ival t y))
    | 1 => plain (wrapTo t (min (ival t x) (ival t y)))
    | 2 => plain (wrapTo t (max (ival t x) (ival t y)))
    | 3 => plain (x &&& y)
    | 4 => plain (x ||| y)
    | _ => plain (x ^^^ y)

/-- Two contributions of a node: one passes on unchanged (03 R89). -/
def joinNode (f : DWord → DWord → DWord × Nat) (x y : Option DWord) : Option DWord × Nat :=
  match x, y with
  | some a, some b => (some (f a b).1, (f a b).2)
  | some a, none => (some a, 0)
  | none, y => (y, 0)

/-- One level of the tree: positions 2i and 2i + 1 (03 R89). (DEDUCED, notes/assumptions/28.md.) -/
def treeLevel (f : DWord → DWord → DWord × Nat) : List (Option DWord) → List (Option DWord) × Nat
  | x :: y :: rest =>
    let n := joinNode f x y
    let r := treeLevel f rest
    (n.1 :: r.1, n.2 ||| r.2)
  | xs => (xs, 0)

/-- The tree over 2^k positions: its value and the status of its nodes. -/
def tree (f : DWord → DWord → DWord × Nat) (xs : List (Option DWord)) : Nat → Option DWord × Nat
  | 0 => (xs.headD none, 0)
  | k + 1 =>
    let l := treeLevel f xs
    let r := tree f l.1 k
    (r.1, l.2 ||| r.2)

/-- The contributions of positions `lo` to `lo + 2^k - 1`. -/
def State.contributions (s : State) (w : W3) (act : List Nat) (lo k : Nat) : List (Option DWord) :=
  (List.range (2 ^ k)).map (fun i => if act.contains (lo + i) then some (s.laneVal w (lo + i)) else none)

/-- The word's combination: operation in c[2:0], f32 add in the word's mode (09 R242). -/
def State.combiner (s : State) (w : W3) : DWord → DWord → DWord × Nat :=
  combine w.ty (w.c.toNat % 8) (s.mode w.m false 0 0)

def execRedux (w : W3) (s : State) : Out :=
  .next (s.laneWord 3 w (fun act =>
    let r := tree (s.combiner w) (s.contributions w act 0 s.me.width.log2) s.me.width.log2
    act.map (fun l => ⟨resultOf w.ty l w.d.toNat (r.1.getD 0), r.2, 0⟩)))

/-- The identity of an operation (09 R245). -/
def identityOf (t : Ty) (op : Nat) : DWord :=
  if t == .f32 then (match op with
    | 0 => 0
    | 1 => 0x7F800000
    | _ => 0xFF800000)
  else match op with
    | 1 => wrapTo t (if tySigned t then 2 ^ (tyBits t - 1) - 1 else -1)
    | 2 => wrapTo t (if tySigned t then -(2 ^ (tyBits t - 1)) else 0)
    | 3 => wrapTo t (-1)
    | _ => 0

/-- The prefix over positions `lo` to `n - 1`, by blocks of descending powers of two from 2^k (09 R245).
(DEDUCED, notes/assumptions/28.md.) -/
def State.prefixFrom (s : State) (w : W3) (act : List Nat) (n lo : Nat) (acc : Option DWord × Nat) :
    Nat → Option DWord × Nat
  | 0 => acc
  | k + 1 =>
    if lo + 2 ^ k ≤ n then
      let b := tree (s.combiner w) (s.contributions w act lo k) k
      let j := joinNode (s.combiner w) acc.1 b.1
      s.prefixFrom w act n (lo + 2 ^ k) (j.1, acc.2 ||| b.2 ||| j.2) k
    else s.prefixFrom w act n lo acc k

def execScan (w : W3) (s : State) : Out :=
  .next (s.laneWord 4 w (fun act => act.map (fun l =>
    let n := if bitN w.c.toNat 3 then l else l + 1
    let r := s.prefixFrom w act n 0 (none, 0) 7
    ⟨resultOf w.ty l w.d.toNat (r.1.getD (identityOf w.ty (w.c.toNat % 8))), r.2, 0⟩)))

def execMatchLanes (w : W3) (s : State) : Out :=
  .next (s.laneWord 5 w (fun act => act.map (fun l =>
    ⟨resultOf .n64 l w.d.toNat
      (BitVec.ofNat 64 (laneMask (act.filter (fun j => s.laneVal w j == s.laneVal w l)))), 0, 0⟩)))

/-- lmask's mask of a lane (09 R244). -/
def lmaskOf (m width lane : Nat) (act : List Nat) : Nat :=
  laneMask (match m with
    | 0 => [lane]
    | 1 => List.range lane
    | 2 => List.range (lane + 1)
    | 3 => (List.range width).filter (lane < ·)
    | 4 => (List.range width).filter (lane ≤ ·)
    | _ => act)

def execLmask (w : W3) (s : State) : Out :=
  .next (s.laneWord 6 w (fun act => act.map (fun l =>
    ⟨resultOf .n64 l w.d.toNat (BitVec.ofNat 64 (lmaskOf w.m.toNat s.me.width l act)), 0, 0⟩)))

end Sys2Proof.Machine
end

