-- ==== Sys2Proof/Machine/Logic.lean ====
section
/-! DEFINITION. LOGIC (10 R258, R259). -/

namespace Sys2Proof.Machine

/-- A LOGIC word whose lanes compute a ty-form result from x, y and the counts or control words in b and c. -/
def State.logicWord (s : State) (fn : Nat) (w : W3) (f : Nat → DWord → DWord → DWord) : State :=
  s.w3 0x03 fn w (fun act => s.finish (act.map (fun l =>
    ⟨resultOf w.ty l w.d.toNat (f l (s.opA w l) (s.opB w l)), 0, 0⟩)))

def execAnd (w : W3) (s : State) : Out := .next (s.logicWord 0 w (fun _ x y => x &&& y))
def execOr (w : W3) (s : State) : Out := .next (s.logicWord 1 w (fun _ x y => x ||| y))
def execXor (w : W3) (s : State) : Out := .next (s.logicWord 2 w (fun _ x y => x ^^^ y))
def execAndn (w : W3) (s : State) : Out := .next (s.logicWord 3 w (fun _ x y => x &&& ~~~y))
def execNot (w : W3) (s : State) : Out := .next (s.logicWord 4 w (fun _ x _ => bitNot w.ty x))
def execShl (w : W3) (s : State) : Out :=
  .next (s.logicWord 5 w (fun l x _ => shiftLeft w.ty x (s.nat32 l w.b.toNat)))
def execShr (w : W3) (s : State) : Out :=
  .next (s.logicWord 6 w (fun l x _ => shiftRight w.ty x (s.nat32 l w.b.toNat)))
def execSar (w : W3) (s : State) : Out :=
  .next (s.logicWord 7 w (fun l x _ => shiftArith w.ty x (s.nat32 l w.b.toNat)))
def execRol (w : W3) (s : State) : Out :=
  .next (s.logicWord 8 w (fun l x _ => rotateLeft w.ty x (s.nat32 l w.b.toNat)))
def execBfx (w : W3) (s : State) : Out :=
  .next (s.logicWord 9 w (fun l x _ => fieldExtract w.ty x (s.nat32 l w.b.toNat)))
def execBfi (w : W3) (s : State) : Out :=
  .next (s.logicWord 10 w (fun l x y => fieldInsert w.ty x y (s.nat32 l w.c.toNat)))
def execPopc (w : W3) (s : State) : Out :=
  .next (s.logicWord 11 w (fun _ x _ => BitVec.ofNat 64 (popCount (uval w.ty x) (tyBits w.ty))))
def execClz (w : W3) (s : State) : Out :=
  .next (s.logicWord 12 w (fun _ x _ => BitVec.ofNat 64 (leadingZeros (uval w.ty x) (tyBits w.ty))))
def execCtz (w : W3) (s : State) : Out :=
  .next (s.logicWord 13 w (fun _ x _ => BitVec.ofNat 64 (trailingZeros (uval w.ty x) (tyBits w.ty))))
def execBrev (w : W3) (s : State) : Out :=
  .next (s.logicWord 14 w (fun _ x _ => BitVec.ofNat 64 (reverseBits (uval w.ty x) (tyBits w.ty))))
/-- mov copies bit for bit; f16 and bf16 write zeros to bits [31:16] (10 R259, 02 R41). -/
def execMov (w : W3) (s : State) : Out := .next (s.logicWord 15 w (fun _ x _ => x))

end Sys2Proof.Machine
end

