-- ==== Sys2Proof/Decode.lean ====
section
/-! DEFINITION. The decoder, total on every 64-bit value (02 R52), and the encoder of the same formats (02 R32 to R37). -/

namespace Sys2Proof

/-- Why a word does not decode (02 R50, R52). Each but the last raises ILLEGAL_INSTRUCTION. -/
inductive DecodeFault where
  /-- bit [0] of a paired word is set -/
  | pairedBit0
  /-- a slot breaks the slot opcode table -/
  | slot
  /-- a field of the word holds a value its function does not allowed -/
  | fields
  /-- a bank rule of paired words fails: ILLEGAL_PAIR (02 R48) -/
  | banks
  deriving DecidableEq, Repr

/-- The fields of a W3 word; none where ty is a reserved code. -/
def readW3 (w : DWord) : Option W3 :=
  match Ty.ofCode (w.extractLsb' 5 4) with
  | some t => some
      { d := w.extractLsb' 49 8, a := w.extractLsb' 41 8, b := w.extractLsb' 33 8, c := w.extractLsb' 25 8,
        g := w.extractLsb' 17 8, gn := w.getLsbD 16, ty := t,
        hintA := w.getLsbD 4, hintB := w.getLsbD 3, m := w.extractLsb' 0 3 }
  | none => none

/-- The fields of a WI word. -/
def readWI (w : DWord) : Option WI :=
  match Ty.ofCode (w.extractLsb' 32 4) with
  | some t => some { d := w.extractLsb' 49 8, a := w.extractLsb' 41 8, ty := t, imm := w.extractLsb' 0 32 }
  | none => none

/-- The fields of a WM word; none where sc is 6 or 7. -/
def readWM (w : DWord) : Option WM :=
  match Scope.ofCode (w.extractLsb' 22 3) with
  | some s => some
      { d := w.extractLsb' 49 8, a := w.extractLsb' 41 8, g := w.extractLsb' 33 8, gn := w.getLsbD 32,
        sz := w.extractLsb' 25 3, sc := s, sp := Space.ofCode (w.extractLsb' 20 2), off := w.extractLsb' 0 20 }
  | none => none

/-- The fields of a WB word; none where the reserved bits [33:32] are set. -/
def readWB (w : DWord) : Option WB :=
  if w.extractLsb' 32 2 == 0 then some
    { hint := w.extractLsb' 55 2, g := w.extractLsb' 47 8, gn := w.getLsbD 46, reg := w.extractLsb' 34 8,
      off := w.extractLsb' 0 32 }
  else none

/-- Slot opcodes by number (02 R46). -/
def slotOps : List SlotOp :=
  [.nop, .iadd, .isub, .imul, .imin, .imax, .and, .or, .xor, .andn, .shl, .shr, .sar, .mov, .not, .popc, .clz,
   .iaddi, .shli, .shri, .sari, .movi, .icmp, .fadd, .fsub, .fmul, .fmin, .fmax, .fabs, .fneg, .fcmp]

/-- The number of a slot opcode. -/
def SlotOp.code : SlotOp → BitVec 7
  | .nop => 0 | .iadd => 1 | .isub => 2 | .imul => 3 | .imin => 4 | .imax => 5 | .and => 6 | .or => 7 | .xor => 8
  | .andn => 9 | .shl => 10 | .shr => 11 | .sar => 12 | .mov => 13 | .not => 14 | .popc => 15 | .clz => 16
  | .iaddi => 17 | .shli => 18 | .shri => 19 | .sari => 20 | .movi => 21 | .icmp => 22 | .fadd => 23 | .fsub => 24
  | .fmul => 25 | .fmin => 26 | .fmax => 27 | .fabs => 28 | .fneg => 29 | .fcmp => 30

/-- The type of a slot type code; 5 to 7 are reserved (02 R37). -/
def slotTy (c : BitVec 3) : Option Ty :=
  match c.toNat with
  | 0 => some .i32 | 1 => some .n32 | 2 => some .f32 | 3 => some .f16x2 | 4 => some .bf16x2
  | _ => none

/-- The slot type code of a type. -/
def slotTyCode : Ty → BitVec 3
  | .n32 => 1 | .f32 => 2 | .f16x2 => 3 | .bf16x2 => 4
  | _ => 0

/-- The fields of a 31-bit slot. -/
def readSlot (x : BitVec 31) : Option Slot :=
  match slotOps[(x.extractLsb' 24 7).toNat]?, slotTy (x.extractLsb' 5 3) with
  | some op, some t => some { op := op, d := x.extractLsb' 16 8, b := x.extractLsb' 8 8, ty := t, m := x.extractLsb' 0 5 }
  | _, _ => none

/-- The instruction of a W3 word's major, fn and fields (02 R49). -/
def ofW3 (major fn : Nat) (w : W3) : Option Instr :=
  match major with
  | 0x01 => match fn with
    | 0 => some (.iadd w)
    | 1 => some (.isub w)
    | 2 => some (.imul w)
    | 3 => some (.imulh w)
    | 4 => some (.imad w)
    | 5 => some (.idiv w)
    | 6 => some (.irem w)
    | 7 => some (.imin w)
    | 8 => some (.imax w)
    | 9 => some (.iabs w)
    | 10 => some (.ineg w)
    | 11 => some (.iaddc w)
    | 12 => some (.isubb w)
    | 13 => some (.sel w)
    | 14 => some (.lea w)
    | 15 => some (.icmp w)
    | _ => none
  | 0x03 => match fn with
    | 0 => some (.and w)
    | 1 => some (.or w)
    | 2 => some (.xor w)
    | 3 => some (.andn w)
    | 4 => some (.not w)
    | 5 => some (.shl w)
    | 6 => some (.shr w)
    | 7 => some (.sar w)
    | 8 => some (.rol w)
    | 9 => some (.bfx w)
    | 10 => some (.bfi w)
    | 11 => some (.popc w)
    | 12 => some (.clz w)
    | 13 => some (.ctz w)
    | 14 => some (.brev w)
    | 15 => some (.mov w)
    | _ => none
  | 0x04 => match fn with
    | 0 => some (.fadd w)
    | 1 => some (.fsub w)
    | 2 => some (.fmul w)
    | 3 => some (.ffma w)
    | 4 => some (.fmin w)
    | 5 => some (.fmax w)
    | 6 => some (.fabs w)
    | 7 => some (.fneg w)
    | 8 => some (.fcmp w)
    | 9 => some (.fclass w)
    | 10 => some (.frnd w)
    | 11 => some (.fscal w)
    | 12 => some (.fcopys w)
    | _ => none
  | 0x05 => match fn with
    | 0 => if w.c.toNat / 64 == 0 then some (.fcvtFloat w) else if w.c.toNat / 64 == 1 then some (.fcvtFromBinary8 w) else if w.c.toNat / 64 == 2 then some (.fcvtToBinary8 w) else none
    | 1 => some (.icvt w)
    | 2 => some (.fpack w)
    | 3 => some (.funpack w)
    | _ => none
  | 0x06 => match fn with
    | 0 => some (.frcp w)
    | 1 => some (.frsq w)
    | 2 => some (.fsqrt w)
    | 3 => some (.fex2 w)
    | 4 => some (.flg2 w)
    | 5 => some (.fsin w)
    | 6 => some (.fcos w)
    | 7 => some (.ftanh w)
    | _ => none
  | 0x08 => match fn with
    | 0 => some (.shfl w)
    | 1 => some (.vote w)
    | 2 => some (.bcast w)
    | 3 => some (.redux w)
    | 4 => some (.scan w)
    | 5 => some (.matchLanes w)
    | 6 => some (.lmask w)
    | _ => none
  | 0x09 => match fn with
    | 0 => some (.split w)
    | 1 => some (.fuse w)
    | 2 => some (.fuseq w)
    | 3 => some (.rng w)
    | 4 => some (.rngseed w)
    | 5 => some (.rngskip w)
    | _ => none
  | 0x0A => match fn with
    | 0 => some (.smov w)
    | 1 => some (.smovw w)
    | 2 => some (.xacq w)
    | 3 => some (.xrel w)
    | _ => none
  | 0x0B => match fn with
    | 0 => some (.push w)
    | 1 => some (.pop w)
    | 2 => some (.qpoll w)
    | 3 => some (.qlen w)
    | _ => none
  | 0x11 => match fn with
    | 0 => some (.nop w)
    | 1 => some (.exit w)
    | 2 => some (.tail w)
    | 3 => some (.trap w)
    | 4 => some (.yield w)
    | 5 => some (.spin w)
    | _ => none
  | 0x1A => match fn with
    | 0 => some (.aadd w)
    | 1 => some (.amin w)
    | 2 => some (.amax w)
    | 3 => some (.aand w)
    | 4 => some (.aor w)
    | 5 => some (.axor w)
    | 6 => some (.axch w)
    | 7 => some (.acas w)
    | 8 => some (.ainc w)
    | 9 => some (.adec w)
    | 10 => some (.aaddf w)
    | 11 => some (.radd w)
    | 12 => some (.rmin w)
    | 13 => some (.rmax w)
    | 14 => some (.rand w)
    | 15 => some (.ror w)
    | 16 => some (.rxor w)
    | 17 => some (.raddf w)
    | _ => none
  | 0x1B => match fn with
    | 0 => some (.fence w)
    | 1 => some (.acq w)
    | 2 => some (.rel w)
    | 3 => if w.m.toNat == 0 then some (.regionInvalidate w) else some (.regionRewrite w)
    | 4 => some (.waitm w)
    | _ => none
  | 0x20 => match fn with
    | 0 => some (.cpy w)
    | 1 => some (.gath w)
    | 2 => some (.scat w)
    | 3 => some (.coll w)
    | _ => none
  | 0x21 => match fn with
    | 0 => some (.tagwa w)
    | 1 => some (.tagwy w)
    | 2 => some (.tagff w)
    | 3 => some (.tagclr w)
    | _ => none
  | 0x22 => match fn with
    | 0 => some (.gongi w)
    | 1 => some (.gonga w)
    | 2 => some (.gongw w)
    | 3 => some (.gongt w)
    | _ => none
  | 0x23 => match fn with
    | 0 => some (.chset w)
    | 1 => some (.chwait w)
    | 2 => some (.chclr w)
    | _ => none
  | 0x28 => match fn with
    | 0 => some (.mma w)
    | 1 => some (.mzero w)
    | 2 => some (.mres w)
    | 3 => some (.mcmp w)
    | 4 => some (.msta w)
    | 5 => some (.msave w)
    | 6 => some (.mrest w)
    | 7 => some (.mldb w)
    | 8 => some (.manch w)
    | 9 => some (.mbank w)
    | _ => none
  | 0x30 => match fn with
    | 0 => some (.launch w)
    | 1 => some (.ldisp w)
    | 2 => some (.lstat w)
    | _ => none
  | 0x38 => match fn with
    | 0 => some (.csrr w)
    | 1 => some (.csrw w)
    | 2 => if w.m.toNat == 0 then some (.tlbinvRange w) else if w.m.toNat == 1 then some (.tlbinvCtx w) else if w.m.toNat == 2 then some (.tlbinvPart w) else if w.m.toNat == 3 then some (.tlbinvAll w) else none
    | 3 => if w.m.toNat == 0 then some (.haltGrid w) else if w.m.toNat == 1 then some (.haltCtx w) else none
    | 4 => if w.m.toNat == 0 then some (.resumeGrid w) else if w.m.toNat == 1 then some (.resumeCtx w) else none
    | 5 => some (.tret w)
    | 6 => some (.ctxsv w)
    | 7 => some (.ctxrs w)
    | 8 => if w.m.toNat == 0 then some (.errclr w) else if w.m.toNat == 1 then some (.errclrCo w) else none
    | 9 => some (.knell w)
    | _ => none
  | _ => none

/-- The instruction of a WI word's major, fn and fields (02 R49). -/
def ofWI (major fn : Nat) (w : WI) : Option Instr :=
  match major with
  | 0x02 => match fn with
    | 0 => some (.iaddi w)
    | 1 => some (.imuli w)
    | 2 => some (.andi w)
    | 3 => some (.ori w)
    | 4 => some (.xori w)
    | 5 => some (.shli w)
    | 6 => some (.shri w)
    | 7 => some (.sari w)
    | 8 => some (.movi w)
    | 9 => some (.movhi w)
    | 10 => some (.icmpi w)
    | _ => none
  | _ => none

/-- The instruction of a WM word's major, fn and fields (02 R49). -/
def ofWM (major fn : Nat) (w : WM) : Option Instr :=
  match major with
  | 0x18 => match fn with
    | 0 => some (.ld w)
    | 1 => some (.ldacq w)
    | 2 => some (.lddec w)
    | 3 => some (.ldnt w)
    | 4 => some (.pref w)
    | _ => none
  | 0x19 => match fn with
    | 0 => some (.st w)
    | 1 => some (.strel w)
    | 2 => some (.stnt w)
    | _ => none
  | _ => none

/-- The instruction of a WB word's major, fn and fields (02 R49). -/
def ofWB (major fn : Nat) (w : WB) : Option Instr :=
  match major with
  | 0x10 => match fn with
    | 0 => some (.bra w)
    | 1 => some (.call w)
    | 2 => some (.loop w)
    | 3 => some (.jmpr w)
    | 4 => some (.callr w)
    | 5 => some (.ret w)
    | 6 => some (.brk w)
    | 7 => some (.meet w)
    | _ => none
  | _ => none

/-- The instruction, where the fields read are admitted. -/
def allowed (ok : Bool) (i : Option Instr) : Except DecodeFault Instr :=
  match ok, i with
  | true, some i => .ok i
  | _, _ => .error .fields

/-- A paired word (02 R37, R46 to R48), checked in the order of 02 R52. -/
def decodePair (w : DWord) : Except DecodeFault Instr :=
  if w.getLsbD 0 then .error .pairedBit0
  else match readSlot (w.extractLsb' 32 31), readSlot (w.extractLsb' 1 31) with
    | some s0, some s1 =>
      if s0.ok && s1.ok then
        if (PairWord.mk s0 s1).banksOk then .ok (.pairedWord ⟨s0, s1⟩) else .error .banks
      else .error .slot
    | _, _ => .error .slot

/-- A full word of an assigned major and fn. -/
def decodeFull (w : DWord) : Except DecodeFault Instr :=
  let major := (w.extractLsb' 57 6).toNat
  match majorFmt major with
  | some .w3 =>
    match readW3 w with
    | some x => allowed (w3Ok major (w.extractLsb' 9 7).toNat x) (ofW3 major (w.extractLsb' 9 7).toNat x)
    | none => .error .fields
  | some .wi =>
    match readWI w with
    | some x => allowed (wiOk major (w.extractLsb' 36 5).toNat x) (ofWI major (w.extractLsb' 36 5).toNat x)
    | none => .error .fields
  | some .wm =>
    match readWM w with
    | some x => allowed (wmOk major (w.extractLsb' 28 4).toNat x) (ofWM major (w.extractLsb' 28 4).toNat x)
    | none => .error .fields
  | some .wb =>
    match readWB w with
    | some x => allowed (wbOk (w.extractLsb' 42 4).toNat x) (ofWB major (w.extractLsb' 42 4).toNat x)
    | none => .error .fields
  | none => .error .fields

/-- The fate of any word (02 R52), but for the unit and privilege checks, which are the executing agent's: an
instruction, the step that an unassigned word comes to (02 R50), or a fault by name. -/
def decode (w : DWord) : Except DecodeFault Instr :=
  if w.getLsbD 63 then decodePair w
  else if unassigned w then .ok .illegalInstruction
  else decodeFull w

/-- A bit as a vector of width 1. -/
def bit1 (b : Bool) : BitVec 1 := BitVec.ofBool b

/-- The W3 word of a major, fn and fields (02 R32). -/
def writeW3 (major fn : Nat) (w : W3) : DWord :=
  0#1 ++ BitVec.ofNat 6 major ++ w.d ++ w.a ++ w.b ++ w.c ++ w.g ++ bit1 w.gn ++ BitVec.ofNat 7 fn ++ w.ty.code
    ++ bit1 w.hintA ++ bit1 w.hintB ++ w.m

/-- The WI word of a major, fn and fields (02 R33). -/
def writeWI (major fn : Nat) (w : WI) : DWord :=
  0#1 ++ BitVec.ofNat 6 major ++ w.d ++ w.a ++ BitVec.ofNat 5 fn ++ w.ty.code ++ w.imm

/-- The WM word of a major, fn and fields (02 R34). -/
def writeWM (major fn : Nat) (w : WM) : DWord :=
  0#1 ++ BitVec.ofNat 6 major ++ w.d ++ w.a ++ w.g ++ bit1 w.gn ++ BitVec.ofNat 4 fn ++ w.sz ++ w.sc.code
    ++ w.sp.code ++ w.off

/-- The WB word of a major, fn and fields (02 R35). -/
def writeWB (major fn : Nat) (w : WB) : DWord :=
  0#1 ++ BitVec.ofNat 6 major ++ w.hint ++ w.g ++ bit1 w.gn ++ BitVec.ofNat 4 fn ++ w.reg ++ 0#2 ++ w.off

/-- A slot's 31 bits (02 R37). -/
def writeSlot (s : Slot) : BitVec 31 := s.op.code ++ s.d ++ s.b ++ slotTyCode s.ty ++ s.m

/-- The word of a well-formed instruction; a hardware step has none. Of the words that R50
leaves unassigned, the all-zero word (02 R61) stands for all. -/
def encode (i : Instr) : Option DWord :=
  match i.fields with
  | .w3 major fn w => some (writeW3 major fn w)
  | .wi major fn w => some (writeWI major fn w)
  | .wm major fn w => some (writeWM major fn w)
  | .wb major fn w => some (writeWB major fn w)
  | .pair p => some (1#1 ++ writeSlot p.s0 ++ writeSlot p.s1 ++ 0#1)
  | .word => some 0
  | .step => none

/-- The eight bytes of a word as memory holds them, lowest address first (00 R3, 02 R30). -/
def wordBytes (w : DWord) : List Byte := (List.range 8).map fun i => w.extractLsb' (8 * i) 8

/-- A word from its bytes, lowest address first; bytes past the list's end are 0. -/
def wordOfBytes (bs : List Byte) : DWord :=
  BitVec.ofNat 64 (bs.take 8 |>.foldr (fun b acc => b.toNat + 256 * acc) 0)

/-- The instruction the decoder reads from a word whose bits are numbered as the opcode table numbers them: the
word is laid out as memory holds it and read back from there. -/
def decodeTableWord (nbits w : Nat) : Option Instr :=
  (decode (wordOfBytes (wordBytes (BitVec.ofNat 64 (w % 2 ^ min nbits 64))))).toOption

end Sys2Proof
end

