-- ==== Sys2Proof/Machine/Branch.lean ====
section
/-! DEFINITION. BRANCH: transfers, loops and meeting addresses (11 R277, R281 to R287). -/

namespace Sys2Proof.Machine

/-- T(off) of the word that issues (11 R282). -/
def State.branchTarget (s : State) (off : BitVec 32) : DWord := s.issuePc + 8 * off.signExtend 64

/-- The word retires and each thread of its group goes to its own next address (11 R275). -/
def State.go (s : State) (next : Nat → DWord) : State :=
  let s1 := s.updMe (fun a => { a with parks := a.parks.filter (fun p => p.pc != s.issuePc) })
  s1.moveTo s.group next

/-- The group holds every non-exited thread of the agent (11 R284, R287). -/
def State.wholeGroup (s : State) : Bool :=
  s.me.threads.all (fun t => !t.live || (t.st == .runnable && t.pc == s.issuePc))

/-- An address outside a loop level's body, its end excepted (11 R287). -/
def Loop.outside (l : Loop) (t : DWord) : Bool := t < l.start || l.stop < t

/-- The word at `pc` is of the level's body (11 R284). -/
def Loop.body (l : Loop) (pc : DWord) : Bool := l.start ≤ pc && pc < l.stop

/-- The levels whose bodies the targets leave end, innermost first (11 R287). -/
def Agent.leaveLevels (a : Agent) (ts : List DWord) : Nat → Agent
  | 0 => a
  | n + 1 =>
    match a.innermost with
    | some l => if ts.all l.outside then a.endLevel.leaveLevels ts n else a
    | none => a

/-- The lanes of `act` whose targets leave the innermost body that the word is in (11 R287).
(DEDUCED, notes/assumptions/26.md.) -/
def State.leaving (s : State) (act : List Nat) (target : Nat → DWord) : List Nat :=
  match s.me.innermost with
  | some l => if l.body s.issuePc then act.filter (fun x => l.outside (target x)) else []
  | none => []

/-- Some lanes of the group go to different addresses (11 R275). -/
def divergent (xs : List DWord) : Bool := xs.any (fun x => xs.head? != some x)

/-- The registers a branch's link is written to: lane and pair (11 R282). -/
def linkWrites (act : List Nat) (reg : Nat) (v : DWord) : Writes :=
  act.flatMap (fun l => [(l, reg, lo32 v), (l, reg + 1, hi32 v)])

/-- A transfer of the active lanes: MISALIGNED_TARGET first, then the exit rule of 11 R287 (calls are exempt), then
the link pair and the move (11 R282). -/
def State.transfer (s : State) (w : WB) (act : List Nat) (target : Nat → DWord) (call : Bool) : State :=
  match act.find? (fun l => (target l) &&& 7 != 0) with
  | some l => s.takeFault fcMisalignedTarget l 0 (target l)
  | none =>
    let out := if call then [] else s.leaving act target
    if !out.isEmpty && !(s.wholeGroup && out == s.group) then s.faultHere fcLoopDiverge (out.headD 0)
    else
      let next (l : Nat) : DWord := if act.contains l then target l else s.issuePc + 8
      let s1 := if call && !act.isEmpty then
          (s.setRegs (linkWrites act w.reg.toNat (s.issuePc + 8))).cacheRegs [w.reg.toNat, w.reg.toNat + 1]
        else s
      let s2 := if out.isEmpty then s1 else s1.updMe (fun a => a.leaveLevels (act.map target) 3)
      let s3 := if w.hint == 3 && divergent (s.group.map next) then s2.countMine 4 1 else s2
      s3.go next

/-- The registers of a pair field. -/
def pairRegs (x : BitVec 8) : List Nat := [x.toNat, x.toNat + 1]

def execBra (w : WB) (s : State) : Out :=
  .next (s.guarded w.g w.gn [] [] (fun act => s.transfer w act (fun _ => s.branchTarget w.off) false))

def execCall (w : WB) (s : State) : Out :=
  .next (s.guarded w.g w.gn (pairRegs w.reg) [] (fun act =>
    s.transfer w act (fun _ => s.branchTarget w.off) true))

/-- A loop level opened with a count, or the body skipped (11 R284). -/
def execLoop (w : WB) (s : State) : Out :=
  .next (s.guarded 0 false [w.reg.toNat] [] (fun act =>
    let x := act.headD 0
    let c := s.reg x w.reg.toNat
    let n := w.hint.toNat
    let stop := s.branchTarget w.off
    let depth := s.me.loops.length
    if !s.wholeGroup then s.faultHere fcLoopDiverge x
    else if depth == 3 || n != depth then s.faultHere fcLoopDepth x
    else if (match s.me.innermost with
        | some l => !(l.start ≤ s.issuePc && stop ≤ l.stop)
        | none => false) then s.faultHere fcLoopDepth x
    else if c == 0 then (s.updMe (fun a => a.setLc n 0)).go (fun _ => stop)
    else (s.updMe (fun a => { a.setLc n c with loops := a.loops ++ [{ start := s.issuePc + 8, stop := stop }] })).go
      (fun _ => s.issuePc + 8)) [w.reg.toNat])

def execJmpr (w : WB) (s : State) : Out :=
  .next (s.guarded w.g w.gn (pairRegs w.reg) (pairRegs w.reg) (fun act =>
    s.transfer w act (fun l => s.pair l w.reg.toNat) false))

def execCallr (w : WB) (s : State) : Out :=
  .next (s.guarded w.g w.gn (pairRegs w.reg) (pairRegs w.reg) (fun act =>
    s.transfer w act (fun l => s.pair l w.reg.toNat) true))

def execRet (w : WB) (s : State) : Out :=
  .next (s.guarded w.g w.gn (pairRegs w.reg) (pairRegs w.reg) (fun act =>
    s.transfer w act (fun l => s.pair l w.reg.toNat) false))

/-- The innermost level ends where a lane passes (11 R287). (DEDUCED, notes/assumptions/26.md.) DESIGN CHOICE
(notes/assumptions/26.md): a brk outside a loop whose group lacks a thread raises LOOP_DEPTH, where R287 gives two faults
and no order. -/
def execBrk (w : WB) (s : State) : Out :=
  .next (s.guarded w.g w.gn [] [] (fun act =>
    match s.me.innermost with
    | none => s.faultHere fcLoopDepth (s.group.headD 0)
    | some l =>
      if !s.wholeGroup then s.faultHere fcLoopDiverge (s.group.headD 0)
      else if act.isEmpty then s.retire
      else (s.updMe Agent.endLevel).go (fun _ => l.stop)))

/-- Each active lane's meeting register is set to T(off), as 11 R277 encodes it (11 R283). -/
def execMeet (w : WB) (s : State) : Out :=
  .next (s.guarded w.g w.gn [] [] (fun act =>
    let v := meetValue s.me.codeBase (s.branchTarget w.off)
    (s.updMe (fun a =>
      { a with threads := mapLanes (fun l t => if act.contains l then { t with meet := v } else t) a.threads })).retire))

end Sys2Proof.Machine
end

