-- ==== Sys2Proof/Machine/Queue.lean ====
section
/-! DEFINITION. QUEUE: push, pop, qpoll and qlen (08 R207 to R209, R218 to R221). -/

namespace Sys2Proof.Machine

/-- A QUEUE word: a conductor thread's push or pop of q4 is ILLEGAL_UNIT (02 R51); q5 to q7 are QUEUE_MISUSE
(08 R207). -/
def State.queueWord (s : State) (fn : Nat) (w : W3) (effect : List Nat → Nat → State) : State :=
  let q := w.b.toNat
  if !s.me.isWarp && fn ≤ 1 && q == 4 then s.faultHere fcIllegalUnit (s.group.headD 0)
  else s.w3 0x0B fn w (fun act => s.once act (fun x =>
    if 5 ≤ q then s.faultHere fcQueueMisuse x else effect act q))

/-- One value to every active lane. -/
def State.sameTo (s : State) (d : Nat) (act : List Nat) (v : Word) : State :=
  s.finish (act.map (fun l => ⟨[(l, d, v)], 0, 0⟩))

/-- Each lane's own value. -/
def State.eachTo (s : State) (d : Nat) (act : List Nat) (f : Nat → Word) : State :=
  s.finish (act.map (fun l => ⟨[(l, d, f l)], 0, 0⟩))

/-- The pending call of a lane's frame position (08 R218). -/
def State.callOf (s : State) (l : Nat) : Option Call := s.me.calls.find? (fun c => c.pos == s.me.base + l && !c.cancelled)

/-- The call record of a push (08 R219). -/
def callRecord (tick : Nat) (pc : DWord) (core slot ctx : Nat) (reqs : List (Nat × Word)) (seq : Nat) : List Word :=
  let mask := reqs.foldl (fun m r => m ||| 2 ^ r.1) 0
  words64 tick ++ words64 pc.toNat ++ [wordN (core + slot * 2 ^ 16 + ctx * 2 ^ 24)] ++ words64 mask ++ [wordN seq]
    ++ List.replicate 8 0
    ++ (List.range 64).map (fun f => (reqs.find? (fun r => r.1 == f)).elim 0 (·.2))
    ++ List.replicate 176 0

/-- push: a call of every active lane, or a park while the ring is full (08 R218). -/
def execPush (w : W3) (s : State) : Out :=
  .next (s.queueWord 0 w (fun act q =>
    let x := act.headD 0
    let p := s.me.part
    if q ≤ 3 || !bitN (s.preg p 0x11) 0 || act.any (fun l => (s.callOf l).isSome) then s.faultHere fcQueueMisuse x
    else
      let size := 2 ^ bitsN (s.preg p 0x0E) 3 0
      let head := s.preg p 0x0F
      if (head + 2 ^ 32 - s.preg p 0x10) % 2 ^ 32 == size then s.park .retry
      else
        let at_ := bitsN (s.preg p 0x0E) 51 12 * 2 ^ 12 + 1024 * (head % size)
        let reqs := act.map (fun l => (s.me.base + l, s.reg l w.a.toNat))
        let s1 := s.putGpa p at_ (callRecord s.tick s.issuePc s.me.core s.me.slot s.me.ctx reqs (seqOf head))
        let s2 := s1.setPreg p 0x0F (BitVec.ofNat 64 ((head + 1) % 2 ^ 32))
        (s2.updMe (fun a => { a with calls := a.calls ++ reqs.map (fun r =>
          { pos := r.1, record := at_, seq := wordN (seqOf head) }) })).retire))

/-- Its word, with the LOST mark. -/
def StatusQueue.word (q : StatusQueue) (e : QueueEntry) : Word :=
  (e.word.getD 0) ||| (if q.lost then 0x8000 else 0)

/-- The queue without it. -/
def StatusQueue.take (q : StatusQueue) (e : QueueEntry) : StatusQueue :=
  { q with entries := q.entries.filter (fun x => x.cmd != e.cmd), lost := false }

/-- A queue with a status word delivered: a seventeenth drops the first in command order (08 R209). -/
def StatusQueue.deliver (q : StatusQueue) (cmd : Nat) (v : Word) (j : Join) : StatusQueue :=
  StatusQueue.trim { q with entries := q.entries.map (fun e => if e.cmd == cmd then { e with word := some v, join := j } else e) } 16

def State.setQueue (s : State) (i : Nat) (q : StatusQueue) : State :=
  s.updMe (fun a => { a with queues := a.queues.set i q })

/-- pop: the next status word with its join, or each lane's reply (08 R207, R209, R221). -/
def execPop (w : W3) (s : State) : Out :=
  .next (s.queueWord 1 w (fun act q =>
    if q == 4 then
      if act.any (fun l => match s.callOf l with
          | some c => c.reply.isNone
          | none => false) then s.park .retry
      else
        let s1 := s.updMe (fun a => { a with calls := a.calls.filter (fun c => !act.any (fun l => a.base + l == c.pos)) })
        s1.eachTo w.d.toNat act (fun l => ((s.callOf l).bind (·.reply)).getD 0)
    else
      let qu := s.me.queues.getD q {}
      match qu.first with
      | some e => ((s.setQueue q (qu.take e)).joinAll [e.join]).sameTo w.d.toNat act (qu.word e)
      | none => if qu.entries.isEmpty then s.sameTo w.d.toNat act 0 else s.park .retry))

def execQpoll (w : W3) (s : State) : Out :=
  .next (s.queueWord 2 w (fun act q =>
    if q == 4 then s.eachTo w.d.toNat act (fun l => match s.callOf l with
      | some c => if c.reply.isSome then 1 else 0
      | none => 0)
    else
      let qu := s.me.queues.getD q {}
      s.sameTo w.d.toNat act (match qu.first with
        | some e => qu.word e
        | none => 0)))

def execQlen (w : W3) (s : State) : Out :=
  .next (s.queueWord 3 w (fun act q =>
    if q == 4 then s.eachTo w.d.toNat act (fun l => if (s.callOf l).isSome then 1 else 0)
    else s.sameTo w.d.toNat act
      (BitVec.ofNat 32 (((s.me.queues.getD q {}).entries.filter (fun e => e.word.isNone)).length))))

end Sys2Proof.Machine
end

