-- ==== Sys2Proof/Machine/WarpOps.lean ====
section
/-! DEFINITION. WARP: split, fuse, fuseq and the generator (09 R236 to R240, R247 to R250). -/

namespace Sys2Proof.Machine

/-- One code written to v[d] in lanes of the issuing warp, and v[d] in its register cache (09 R233, R236). -/
def State.codeTo (s : State) (d : Nat) (lanes : List Nat) (code : Nat) : State :=
  (s.setRegs (lanes.map (fun l => (l, d, BitVec.ofNat 32 code)))).cacheRegs [d]

/-- A free slot of a cluster's grant, the lowest (09 R237). -/
def State.freeSlot (s : State) (c : Cluster) : Option Nat :=
  c.slots.find? (fun sl => (s.agent (AgentKind.warp c.core sl).id).isNone)

/-- The agent has a register write pending, or an mma in flight (09 R237). -/
def State.busy (s : State) (a : Agent) : Bool :=
  !a.pend.isEmpty || ((s.coreOf a.core).mma.any (fun m => m.agent == a.id))

/-- A half of a split warp: its threads, with meeting conditions kept (09 R237, R238). -/
def half (a : Agent) (slot lo n : Nat) : Agent :=
  { a with
      kind := (match a.kind with
        | .warp c _ => .warp c slot
        | k => k),
      width := n, base := a.base + lo, threads := (a.threads.drop lo).take n, cache := [], parks := [],
      lastLanes := (a.lastLanes.filter (fun l => decide (lo ≤ l) && decide (l < lo + n))).map (fun l => l - lo) }

/-- The issuing warp no longer waits for its pair group's lock: an xacq of it is abandoned (09 R237; 11 R279). -/
def State.dropWaiter (s : State) : State :=
  let k := lockKey s.me.core s.me.pairGroup
  let l := s.lock s.me.core s.me.pairGroup
  { s with locks := s.locks.put {} k { l with waiters := l.waiters.filter (· != s.me.slot) } }

/-- A half of a split warp in which every thread has exited lets the lock go (09 R227, R237). -/
def State.lockIfDone (s : State) : State :=
  if s.me.threads.any Thread.live then s else s.passLock s.me.core s.me.pairGroup s.me.slot

/-- split where a slot is free: L keeps the slot, commands and status queues; U takes the lowest free slot; waits of
other groups are abandoned, and the rules of meeting apply to each half alone (09 R237, R238; 08 R210; 11 R279).
(DEDUCED, notes/assumptions/74.md.) -/
def State.doSplit (s : State) (d slot : Nat) (act : List Nat) : State :=
  let s0 := (s.codeTo d act 0).dropWaiter
  let s1 := s0.updMe (fun a => { a with threads := mapLanes (fun l t =>
    if s.group.contains l then arrive a s.issuePc { t with pc := s.issuePc + 8 } else t) a.threads })
  let x := s1.me
  let n := x.width / 2
  let low := { half x x.slot 0 n with calls := x.calls.filter (fun c => c.pos < x.base + n) }
  let up := { half x slot n n with
    queues := [{}, {}, {}, {}], calls := x.calls.filter (fun c => x.base + n ≤ c.pos),
    sched := .pending, readySince := s.tick }
  let s2 := ({ s1 with me := low }).settle.lockIfDone
  let r := up.settle settleFuel
  ({ s2 with others := s2.others.set up.id r.1 }).countEvent x.part x.ctx 5 r.2

/-- Half of a warp whose threads have all exited ends at once (09 R237). -/
def State.endIfDone (s : State) (id : Nat) : State :=
  match s.agent id with
  | some a =>
    if a.isWarp && !a.threads.any Thread.live && s.me.id != id then
      { s.passLock a.core a.pairGroup a.slot with others := s.others.erase id }
    else s
  | none => s

/-- A WARP word that takes only a destination (09 R236). -/
def State.warpWord (s : State) (fn : Nat) (w : W3) (effect : List Nat → State) : State :=
  s.warpOnly (s.w3 0x09 fn w effect)

def execSplit (w : W3) (s : State) : Out :=
  .next (s.warpWord 0 w (fun act =>
    if s.me.width ≤ 16 then s.faultHere fcWidthMisuse (act.headD 0)
    else if s.busy s.me then s.park .retry
    else match s.freeSlot s.cluster with
      | none => (s.codeTo w.d.toNat act 7).retire
      | some sl => (s.doSplit w.d.toNat sl act).endIfDone (AgentKind.warp s.me.core sl).id))

/-- The partner's place: the other half of the aligned run of twice the width (09 R239). -/
def partnerBase (base width : Nat) : Nat := if base / width % 2 == 0 then base + width else base - width

/-- The warps that hold positions of the neighbouring run; a warp has ended with its last thread (09 R239; 11 R291). -/
def State.neighbours (s : State) : List Agent :=
  let x := s.me
  let b := partnerBase x.base x.width
  s.agents.filter (fun a => a.isWarp && a.threads.any Thread.live && a.id != x.id && a.core == x.core && a.frame == x.frame
    && a.base < b + x.width && b < a.base + a.width)

/-- The warp's live threads are all at `pc`. -/
def Agent.allAt (a : Agent) (pc : DWord) : Bool := a.threads.all (fun t => !t.live || t.pc == pc)

/-- A park that waits for a fuse partner. -/
def Park.fusing (p : Park) : Bool :=
  match p.wait with
  | .fuse _ => true
  | _ => false

/-- The warp waits at fuse on the word at `pc` (09 R239). -/
def Agent.fusingAt (a : Agent) (pc : DWord) : Bool :=
  a.allAt pc && a.parks.any (fun p => p.pc == pc && p.fusing && !p.done)

/-- The checks of codes 2, 1, 3 and 4 that fuse and fuseq make on X, and the partner (09 R239). -/
def State.fuseCheck (s : State) : Except Nat Agent :=
  let x := s.me
  if 64 ≤ x.width then .error 2
  else match s.neighbours with
    | [] => .error 1
    | [p] =>
      if p.width == x.width && p.base == partnerBase x.base x.width && p.cluster == x.cluster
          && p.pairGroup == x.pairGroup then
        if x.allAt s.issuePc then .ok p else .error 4
      else .error 3
    | _ => .error 3

/-- A loop level's addresses. -/
def Loop.span (l : Loop) : DWord × DWord := (l.start, l.stop)

/-- The result of joining two warps as they stand (09 R239). -/
def State.joinCode (s : State) (x p : Agent) : Nat :=
  let meets := ((x.threads ++ p.threads).filter Thread.live).map (·.meet)
  if !meets.all (fun m => meets.head? == some m) then 4
  else if x.lc0 != p.lc0 || x.lc1 != p.lc1 || x.lc2 != p.lc2 || x.loops.map Loop.span != p.loops.map Loop.span then 6
  else
    let l := s.lock x.core x.pairGroup
    if l.holder == some x.slot || l.holder == some p.slot then 5 else 0

/-- Status queues of the fused warp: the lower half's commands first, and sixteen status words at most (08 R209, R210).
(DEDUCED, notes/assumptions/74.md.) -/
def fuseQueue (a b : StatusQueue) : StatusQueue := (⟨a.entries ++ b.entries, a.lost || b.lost, a.seq⟩ : StatusQueue).trim 16

/-- The joined warp of the lower and the upper half (09 R238). -/
def joined (lo up : Agent) : Agent :=
  { lo with
    width := 2 * lo.width, threads := lo.threads ++ up.threads,
    rngCtr := if lo.rngCtr < up.rngCtr then up.rngCtr else lo.rngCtr,
    iexc := lo.iexc ||| up.iexc, fexc := lo.fexc ||| up.fexc,
    queues := (lo.queues.zip up.queues).map (fun q => fuseQueue q.1 q.2),
    calls := lo.calls ++ up.calls, pend := lo.pend ++ up.pend, parks := [], cache := [], lastLanes := [], inRow := 0 }

/-- A fuse that ends with a code: it is written in both warps' threads held at F, and both proceed (09 R239). -/
def State.fuseEnds (s : State) (d : Nat) (p : Agent) (code : Nat) : State :=
  let pc := s.issuePc
  let s1 := (s.codeTo d s.group code).retire
  let back := s1.me.id
  let s2 := s1.focus p.id pc
  let s3 := (s2.codeTo d s2.group code).retire
  { s3.focus back pc with issuePc := pc }

/-- The commands, accesses and operations of one agent belong to another (08 R210, 09 R238). -/
def State.reassign (s : State) (from_ to_ : Nat) : State :=
  { s with
    cmds := s.cmds.map (fun e => (e.1, if e.2.agent == from_ then { e.2 with agent := to_ } else e.2)),
    accesses := s.accesses.map (fun e => (e.1, if e.2.agent == from_ then { e.2 with agent := to_ } else e.2)),
    releases := s.releases.map (fun e => (e.1, if e.2.agent == from_ then { e.2 with agent := to_ } else e.2)) }

/-- The join of R238: one warp in the lower one's slot, the upper one's freed. (DEDUCED, notes/assumptions/74.md.) -/
def State.doFuse (s : State) (d : Nat) (p : Agent) : State :=
  let s1 := s.fuseEnds d p 0
  match s1.agent p.id with
  | none => s1
  | some q =>
    let x := s1.me
    let (lo, up) := if x.base < q.base then (x, q) else (q, x)
    let s2 := s1.reassign up.id lo.id
    let rest := (s2.others.erase up.id).erase lo.id
    ({ s2 with me := joined lo up, others := rest }).settle

def execFuse (w : W3) (s : State) : Out :=
  .next (s.warpWord 1 w (fun act =>
    match s.fuseCheck with
    | .error k => (s.codeTo w.d.toNat act k).retire
    | .ok p =>
      if s.busy s.me || s.busy p then s.park .retry
      else if p.fusingAt s.issuePc then
        match s.joinCode s.me p with
        | 0 => s.doFuse w.d.toNat p
        | k => s.fuseEnds w.d.toNat p k
      else if s.parked.any (fun p => p.fusing && !p.done) then s
      else s.park (.fuse w.d.toNat)))

def execFuseq (w : W3) (s : State) : Out :=
  .next (s.warpWord 2 w (fun act =>
    let code := match s.fuseCheck with
      | .error k => k
      | .ok p =>
        let pcs := (p.threads.filter Thread.live).map (·.pc)
        if !p.fusingAt s.issuePc && !pcs.all (fun c => pcs.head? == some c) then 1
        else s.joinCode s.me p
    (s.codeTo w.d.toNat act code).retire))

/-- What a lane draws as a type (09 R249). -/
def drawAs (t : Ty) (z : DWord) : DWord :=
  match t with
  | .n64 => z
  | .f32 => BitVec.ofNat 64 (roundFin fmtF32 .rne false (bitsN z.toNat 63 40) (-24)).1
  | _ => (lo32 z).setWidth 64

/-- rng draws for the active lanes and advances the counter, also when there is none (09 R249). -/
def execRng (w : W3) (s : State) : Out :=
  .next (s.w3 0x09 3 w (fun act =>
    s.finish (act.map (fun l => ⟨resultOf w.ty l w.d.toNat (drawAs w.ty (s.draw l)), 0, 0⟩)) true))

def execRngseed (w : W3) (s : State) : Out :=
  .next (s.w3 0x09 4 w (fun act => s.once act (fun x =>
    (s.updMe (fun a => { a with rngKey := s.pair x w.a.toNat, rngCtr := 0 })).retire)))

def execRngskip (w : W3) (s : State) : Out :=
  .next (s.w3 0x09 5 w (fun act => s.once act (fun x =>
    (s.updMe (fun a => { a with rngCtr := a.rngCtr + s.pair x w.a.toNat })).retire)))

end Sys2Proof.Machine
end

