-- ==== Sys2Proof/Machine/Flow.lean ====
section
/-! DEFINITION. FLOW: nop, exit, tail, trap, yield and spin (11 R290 to R294). -/

namespace Sys2Proof.Machine

/-- Threads end: a pending call of a thread is cancelled (11 R291). -/
def State.endThreads (s : State) (act : List Nat) : State :=
  s.updMe (fun a => { a with
    threads := mapLanes (fun l t => if act.contains l then { t with st := .exited } else t) a.threads,
    calls := a.calls.filter (fun c => !act.any (fun l => a.base + l == c.pos)),
    parks := a.parks.filter (fun p => p.pc != s.issuePc) })

/-- A conductor thread that has ended is idle: RUN reads 0 (13 R323). -/
def Agent.idle (a : Agent) : Agent :=
  if !a.isWarp && !a.threads.any Thread.live then { a with xqctl := a.xqctl &&& ~~~0x200, parks := [] } else a

/-- exit of the active lanes: the rest of the group goes on; the releases of 11 R278 apply; the last thread's end
releases the pair lock, once its own writes to the extended set have landed (09 R227, R232; 11 R291). -/
def State.exitLanes (s : State) (act : List Nat) : State :=
  let rest := s.group.filter (fun l => !act.contains l)
  let s1 := ((s.endThreads act).moveTo rest (fun _ => s.issuePc + 8)).settle
  let s2 := if s1.me.isWarp && !s1.me.threads.any Thread.live && !s1.me.pend.any (fun p => extRow p.row) then
      s1.passLock s1.me.core s1.me.pairGroup s1.me.slot
    else s1
  s2.updMe Agent.idle

/-- A FLOW word. -/
def State.flowWord (s : State) (fn : Nat) (w : W3) (effect : List Nat → State) : State := s.w3 0x11 fn w effect

def execNop (w : W3) (s : State) : Out := .next (s.flowWord 0 w (fun _ => s.retire))

def execExit (w : W3) (s : State) : Out := .next (s.flowWord 1 w (fun act => s.once act (fun _ => s.exitLanes act)))

/-- No agent: the issuer of detached work. -/
def noAgent : Nat := 2 ^ 40

/-- The outstanding accesses and commands of an agent. -/
def State.openAccesses (s : State) (id : Nat) : List Nat := s.accesses.keysOf (fun a => a.agent == id && !a.detached)
def State.openCommands (s : State) (id : Nat) : List Nat := s.cmds.keysOf (fun c => c.agent == id)

/-- The issuing warp's outstanding work goes to the retirement tracker: returned values are discarded (11 R292; 13
R346). -/
def State.detach (s : State) : State :=
  let m := s.me
  let reqs := s.openAccesses m.id
  let cmds := s.openCommands m.id
  if reqs.isEmpty && cmds.isEmpty then s
  else
    let s1 := { s with
      accesses := s.accesses.mapV (fun a => if a.agent == m.id then { a with detached := true } else a),
      cmds := s.cmds.mapV (fun c => if c.agent == m.id then { c with agent := noAgent } else c) }
    let s2 := s1.updCore m.core (fun c => { c with
      tracker := c.tracker ++ [{ part := m.part, grid := m.grid, cluster := m.cluster, reqs := reqs, cmds := cmds }] })
    s2.updMe (fun a => { a with pend := [] })

/-- tail: as exit; the warp's last thread hands its work to the tracker, or parks while the tracker is full
(11 R292). -/
def execTail (w : W3) (s : State) : Out :=
  .next (s.flowWord 2 w (fun act => s.once act (fun _ =>
    let left := mapLanes (fun l t => if act.contains l then { t with st := .exited } else t) s.me.threads
    let last := s.me.isWarp && !left.any Thread.live
    if !last then s.exitLanes act
    else if (s.openAccesses s.me.id).isEmpty && (s.openCommands s.me.id).isEmpty then s.exitLanes act
    else if 16 ≤ (s.coreOf s.me.core).tracker.length then s.park .retry
    else s.detach.exitLanes act)))

/-- trap: SOFTWARE_TRAP with the code of the lowest active lane; with %trapvec.SE = 1 the trapping threads of a warp
enter the handler, and every other thread of the group goes on (11 R293; 14 R358). -/
def execTrap (w : W3) (s : State) : Out :=
  .next (s.flowWord 3 w (fun act => s.once act (fun x =>
    s.softwareTrap act (s.nat32 x w.a.toNat % 2 ^ 16))))

/-- yield: the warp leaves the active set; its next word is another group's (11 R294; 13 R342). -/
def execYield (w : W3) (s : State) : Out :=
  .next (s.flowWord 4 w (fun act => s.once act (fun _ =>
    (s.updMe (fun a => if a.isWarp && a.sched == .active then
        { a with sched := .pending, readySince := s.tick, cache := [] } else a)).retire)))

/-- spin: the warp is marked as spinning, and its next word issues in column 17 at the earliest (11 R294). -/
def execSpin (w : W3) (s : State) : Out :=
  .next (s.flowWord 5 w (fun act => s.once act (fun _ =>
    (s.updMe (fun a => { a with spinning := a.isWarp, sinceSpin := 0, quiet := some s.tick })).retire)))

end Sys2Proof.Machine
end

