-- ==== Sys2Proof/Machine/Matrix.lean ====
section
/-! DEFINITION. MATRIX (12 R295 to R321): tiles, the panel, and mma, mzero, mres, mcmp, msta, msave, mrest, mldb, manch
and mbank. -/

namespace Sys2Proof.Machine

/-! ### Where elements live (12 R295, R299) -/

/-- A row of a tile of a bank, and an element of it. -/
def accRow (bank tile row : Nat) : Nat := (bank * 4 + tile) * 64 + row
def accKey (bank tile row col : Nat) : Nat := accRow bank tile row * 128 + col

/-- The bank bound to the issuing warp's context position (12 R295, R320). -/
def State.bankOf (s : State) : Nat :=
  let p := s.cluster.ctxPos
  if (s.coreOf s.me.core).swapped then 1 - p else p

/-- The row of a lane: its frame position (12 R296). -/
def State.rowOf (s : State) (tile l : Nat) : Nat := accRow s.bankOf tile (s.me.base + l)

/-- An element of a lane's row. (DESIGN CHOICE, notes/assumptions/5.md.) -/
def State.acc (s : State) (tile l j : Nat) : Acc := (s.coreOf s.me.core).acc.get {} (s.rowOf tile l * 128 + j)

/-- The columns of a row. -/
def columns : List Nat := List.range 128

/-- The elements of lanes' rows changed. -/
def State.mapRows (s : State) (tile : Nat) (ls js : List Nat) (f : Nat → Nat → Acc → Acc) : State :=
  s.updCore s.me.core (fun c => { c with
    acc := ls.foldl (fun m l => js.foldl (fun m j =>
      let k := s.rowOf tile l * 128 + j
      SMap.put {} m k (f l j (SMap.get {} m k))) m) c.acc })

/-- The anchor modes of lanes' rows set. -/
def State.setFixed (s : State) (tile : Nat) (ls : List Nat) (b : Bool) : State :=
  s.updCore s.me.core (fun c => { c with fixed := ls.foldl (fun m l => SMap.put false m (s.rowOf tile l) b) c.fixed })

def State.isFixed (s : State) (tile l : Nat) : Bool := (s.coreOf s.me.core).fixed.get false (s.rowOf tile l)

/-- The issuing warp holds a tile (12 R296). -/
def State.ownsTile (s : State) (tile : Nat) : Bool :=
  tile < s.cluster.acc && s.cluster.frames.head? == some s.me.frame

/-- Rows of the word are in the tail of an mma (12 R316). -/
def State.rowsBusy (s : State) (tile : Nat) (ls : List Nat) : Bool :=
  (s.coreOf s.me.core).mma.any (fun t => t.bank == s.bankOf && t.tile == tile
    && ls.any (fun l => t.rows.contains (s.me.base + l)))

/-- Some element of a lane's row is poisoned (12 R321). -/
def State.rowPoison (s : State) (tile : Nat) (js : List Nat) (l : Nat) : Bool := js.any (fun j => (s.acc tile l j).poison)

/-! ### The checks of a MATRIX word (12 R302) -/

/-- The registers that a MATRIX word reads in a lane: mma its unit, and mldb every operand, in the lowest active lane
alone (12 R303, R313). -/
def matrixReads (fn : Nat) (h : W3Shape) (w : W3) (first : Bool) : List Nat :=
  if fn == 0 then fieldRegs h.a w.ty w.a ++ (if first then [w.b.toNat, w.b.toNat + 1] else [w.b.toNat])
  else if fn == 7 && !first then []
  else w3Sources h w

/-- EXT_NOT_HELD, ACC_NOT_OWNED, the word's own checks, then POISON; a word other than mma waits for its rows (12 R302,
R316). -/
def State.matrixWord (s : State) (fn : Nat) (w : W3) (tile : Option Nat) (check : List Nat → WordCheck)
    (bad : Nat → Bool) (effect : List Nat → List Piece → State) : State :=
  s.warpOnly (match w3Shape 0x28 fn w with
  | none => s.faultHere fcIllegalInstruction
  | some h =>
    if w.g != 0 && !s.holds w.g.toNat then s.faultHere fcExtNotHeld (s.group.headD 0)
    else
      let act := s.active w.g w.gn
      let x := act.headD 0
      if act.isEmpty then s.retire
      else if !(w3Named h w).all s.holds then s.faultHere fcExtNotHeld x
      else if !(tile.all s.ownsTile) then s.faultHere fcAccNotOwned x
      else if fn != 0 && tile.any (fun t => s.rowsBusy t act) then s.park .retry
      else s.checked (check act) (fun ps =>
        match act.find? (fun l => (matrixReads fn h w (l == x)).any (s.poisoned l) || bad l) with
        | some l => s.faultHere fcPoison l
        | none => effect act ps))

/-- A word with no checks of its own. -/
def noCheck : List Nat → WordCheck := fun _ => .ok []

/-! ### mma (12 R303 to R305) -/

/-- The panel tag of 12 R299, as it stands in a unit: 0 none, 1 + format code, 65 f16, 66 bf16.
(DESIGN CHOICE, notes/assumptions/5.md.) -/
def State.panelTag (s : State) (half u : Nat) : Nat := (s.coreOf s.me.core).panels.get 0 (half * 1024 + u)
def tagOf (t : Ty) (fcode : Nat) : Nat :=
  match t with
  | .f16 => 65
  | .bf16 => 66
  | _ => 1 + fcode

/-- A panel of the tag's kind, as mma's type asks (12 R304). -/
def panelSuits (t : Ty) (tag : Nat) : Bool := if t == .i32 then 1 ≤ tag && tag ≤ 64 else tag == tagOf t 0

/-- A byte of a half of the weight buffer. -/
def State.weight (s : State) (half b : Nat) : Nat := ((s.coreOf s.me.core).weights.get 0 (half * 2 ^ 18 + b)).toNat

/-- The blocks of a panel: scale byte and the place of its elements, none for a zero block (12 R300). -/
def State.panelBlocks (s : State) (half u blocks bytes : Nat) : List (Option (Nat × Nat)) :=
  ((List.range blocks).foldl (fun (r : List (Option (Nat × Nat)) × Nat) b =>
    let k := s.weight half (256 * u + b)
    if k == 0x80 then (none :: r.1, r.2) else (some (k, r.2) :: r.1, r.2 + bytes))
    ([], 256 * u + 256)).1.reverse

/-- Bytes written in order from a byte of a half. -/
def putWeights (m : SMap Byte) (k : Nat) : List Byte → SMap Byte
  | [] => m
  | b :: bs => putWeights (SMap.put 0 m k b) (k + 1) bs

/-- A panel of a half written at a unit from its blocks, each a scale byte and its elements, under a tag
(12 R299, R300). -/
def Core.putPanel (c : Core) (half unit tag : Nat) (blocks : List (Byte × List Byte)) : Core :=
  let at_ := half * 2 ^ 18 + 256 * unit
  { c with
    weights := putWeights (putWeights c.weights at_ (blocks.map (·.1))) (at_ + 256) (blocks.flatMap (·.2)),
    panels := SMap.put 0 (c.panels.drop (fun u => u / 1024 == half && u % 1024 < unit + 33 && unit < u % 1024 + 33))
      (half * 1024 + unit) tag }

/-- The mldb that is loading the panel at a unit of a half of the issuing warp's core, some of its blocks read
(12 R315). -/
def State.loadingAt (s : State) (half u : Nat) : Option Command :=
  ((s.coreOf s.me.core).loader.filterMap s.cmds.find).find? (fun c =>
    c.half == half && !c.staged.isEmpty && (c.pieces[c.piece]?).any (fun p => p.dst.toNat == u))

/-- The weight buffer as an mma of a panel reads it: while an mldb that nothing has joined is writing the panel, each
block it has read is the old one or the new one, and the tag is old or new, by free values (12 R315). -/
def State.mixed (s : State) (half u blocks bytes : Nat) : State :=
  match s.loadingAt half u with
  | none => s
  | some c =>
    let olds := (s.panelBlocks half u blocks bytes).map (fun b => match b with
      | none => ((0x80 : Byte), ([] : List Byte))
      | some (k, at_) => (BitVec.ofNat 8 k, (List.range bytes).map (fun i => BitVec.ofNat 8 (s.weight half (at_ + i)))))
    let free (b : Nat) : Bool := bitN (Config.choice s.free) b
    s.updCore s.me.core (fun x => x.putPanel half u (if free blocks then c.tag else s.panelTag half u)
      (olds.mapIdx (fun b old => if free b then c.staged.getD b old else old)))

/-- A 16-bit element's value. -/
def decode16 (t : Ty) (x : Nat) : FVal := decodeIeee (fmtOf t) x

/-- Element kk of a lane's A row with its scale, none in a zero block (12 R303). -/
def State.aElement (s : State) (w : W3) (l kk : Nat) : Option FVal :=
  let b := s.nat32 l w.b.toNat
  let k := if w.ty == .i32 && 32 ≤ kk then bitsN b 15 8 else bitsN b 7 0
  if k == 0x80 then none
  else
    let x := if w.ty == .i32 then
        decode8 w.c.toNat (bitsN (s.nat32 l (w.a.toNat + kk / 4)) (8 * (kk % 4) + 7) (8 * (kk % 4)))
      else decode16 w.ty (bitsN (s.nat32 l (w.a.toNat + kk / 2)) (16 * (kk % 2) + 15) (16 * (kk % 2)))
    some (scaleBy x (scaleOf k))

/-- A panel tag that an mma accepts: one of its type's kind, or, while an mldb is writing the panel, any but none
(12 R304, R315). -/
def State.tagSuits (s : State) (t : Ty) (half u tag : Nat) : Bool :=
  if (s.loadingAt half u).isSome then tag != 0 else panelSuits t tag

/-- The format code of an 8-bit panel's elements: its tag's, and a free value where the tag that the mma has read is of a
16-bit panel (12 R315). (DESIGN CHOICE, notes/assumptions/40.md.) -/
def State.elementCode (s : State) (tag : Nat) : Nat := if tag ≤ 64 then tag - 1 else Config.choice (s.free + 1) % 64

/-- Element (kk, j) of the panel, none in a zero block (12 R300). -/
def State.bElement (s : State) (w : W3) (half tag : Nat) (blocks : List (Option (Nat × Nat))) (kk j : Nat) : Option FVal :=
  let b := if w.ty == .i32 then 2 * j + kk / 32 else j
  match (blocks.getD b none) with
  | none => none
  | some (k, at_) =>
    let x := if w.ty == .i32 then decode8 (s.elementCode tag) (s.weight half (at_ + kk % 32))
      else decode16 w.ty (s.weight half (at_ + 2 * (kk % 32)) + 256 * s.weight half (at_ + 2 * (kk % 32) + 1))
    some (scaleBy x (scaleOf k))

/-- K of a panel (12 R300). -/
def panelK (t : Ty) : Nat := if t == .i32 then 64 else 32

/-- A lane's A row and a column of the panel, by ascending kk (12 R303). -/
def State.aRow (s : State) (w : W3) (l : Nat) : List (Option FVal) := (List.range (panelK w.ty)).map (s.aElement w l)
def State.bColumn (s : State) (w : W3) (half tag : Nat) (blocks : List (Option (Nat × Nat))) (j : Nat) : List (Option FVal) :=
  (List.range (panelK w.ty)).map (fun kk => s.bElement w half tag blocks kk j)

/-- The exact products that enter an element, in ascending kk (12 R304). -/
def products (xs ys : List (Option FVal)) : List FVal :=
  (xs.zip ys).filterMap (fun e => match e with
    | (some x, some y) => some (mulVal x y).1
    | _ => none)

/-- Under CANON a floating row is fixed at anchor 0 before it accumulates (03 R93). -/
def State.fixRows (s : State) (tile : Nat) (ls : List Nat) : State :=
  let free := ls.filter (fun l => !s.isFixed tile l)
  (s.mapRows tile free columns (fun _ _ e => e.rescale 0)).setFixed tile free true

/-- mma: the products accumulate; the word retires as it starts and its rows are ready when its tail ends
(12 R304, R316). -/
def execMma (w : W3) (s : State) : Out :=
  .next (
    let tile := w.d.toNat
    let half := s.cluster.ctxPos
    let u (act : List Nat) : Nat := s.nat32 (act.headD 0) (w.b.toNat + 1)
    let read (act : List Nat) : State := if w.ty == .i32 then s.mixed half (u act) 256 32 else s.mixed half (u act) 128 64
    let tag (act : List Nat) : Nat := (read act).panelTag half (u act)
    let blocks (act : List Nat) : List (Option (Nat × Nat)) :=
      if w.ty == .i32 then (read act).panelBlocks half (u act) 256 32 else (read act).panelBlocks half (u act) 128 64
    let column (act : List Nat) (bs : List (Option (Nat × Nat))) (j : Nat) : List (Option FVal) :=
      (read act).bColumn w half (tag act) bs j
    s.matrixWord 0 w (some tile)
      (fun act =>
        if 991 < u act || !s.tagSuits w.ty half (u act) (tag act) then .fault (act.headD 0) fcEngineCommand 0 0
        else .ok [])
      (fun l =>
        let act := s.active w.g w.gn
        columns.any (fun j => (s.acc tile l j).poison
          && !(products (s.aRow w l) (column act (blocks act) j)).isEmpty))
      (fun act _ =>
        let bs := blocks act
        let rows := act.map (fun l => (l, s.aRow w l))
        let cols := columns.map (column act bs)
        let s0 := if (s.loadingAt half (u act)).isSome then s.takeFree.takeFree else s
        let s1 := if bitN s.me.repro.toNat 0 then s0.fixRows tile act else s0
        let s2 := s1.mapRows tile act columns (fun l j e =>
          (products (SMap.get [] rows l) (cols.getD j [])).foldl (fun e p => e.add (s1.isFixed tile l) p) e)
        let s3 := s2.updCore s.me.core (fun c => { c with mma := c.mma ++
          [{ bank := s.bankOf, tile := tile, rows := act.map (s.me.base + ·), agent := s.me.id }] })
        s3.retire))

/-! ### Rows set and anchors (12 R306, R307) -/

def execMzero (w : W3) (s : State) : Out :=
  .next (s.matrixWord 1 w (some w.d.toNat) noCheck (fun _ => false) (fun act _ =>
    ((s.mapRows w.d.toNat act columns (fun _ _ _ => {})).setFixed w.d.toNat act false).retire))

def execManch (w : W3) (s : State) : Out :=
  .next (s.matrixWord 8 w (some w.d.toNat) noCheck (s.rowPoison w.d.toNat columns) (fun act _ =>
    ((s.mapRows w.d.toNat act columns (fun l _ e => e.rescale (scaleOf (bitsN (s.nat32 l w.b.toNat) 7 0)))).setFixed
      w.d.toNat act true).retire))

/-! ### Resolution (12 R308 to R310) -/

/-- The columns of a chunk of n. -/
def chunk (n c : Nat) : List Nat := (List.range n).map (n * c + ·)

/-- mres (12 R308). -/
def execMres (w : W3) (s : State) : Out :=
  .next (s.matrixWord 2 w (some w.a.toNat) noCheck (s.rowPoison w.a.toNat (chunk 16 w.c.toNat)) (fun act _ =>
    s.finish (act.map (fun l =>
      let m := s.mode w.m false l 0
      let rs := (chunk 16 w.c.toNat).map (fun j => (s.acc w.a.toNat l j).resolve (fmtOf w.ty) m)
      let v (i : Nat) : Nat := (rs.getD i (0, 0)).1
      ⟨if w.ty == .f32 then (List.range 16).map (fun i => (l, w.d.toNat + i, BitVec.ofNat 32 (v i)))
        else (List.range 8).map (fun i => (l, w.d.toNat + i, BitVec.ofNat 32 (v (2 * i) + v (2 * i + 1) * 2 ^ 16))),
        rs.foldl (fun a r => a ||| r.2) 0, 0⟩))))

/-- mcmp (12 R309). -/
def execMcmp (w : W3) (s : State) : Out :=
  .next (s.matrixWord 3 w (some w.a.toNat) noCheck (s.rowPoison w.a.toNat (chunk 32 w.c.toNat)) (fun act _ =>
    s.finish (act.map (fun l =>
      let rs := (chunk 32 w.c.toNat).map (fun j =>
        let r := (s.acc w.a.toNat l j).resolve fmtF32 .rne
        let c := fpCmp fmtF32 w.m.toNat r.1 (s.nat32 l w.b.toNat)
        (c.1, r.2 ||| c.2))
      ⟨[(l, w.d.toNat, BitVec.ofNat 32 ((List.range 32).foldl (fun a i => if (rs.getD i (false, 0)).1 then a + 2 ^ i else a) 0))],
        rs.foldl (fun a r => a ||| r.2) 0, 0⟩))))

/-! ### Rows in memory (12 R310 to R312) -/

/-- Two checks of one lane's two pages: a missing translation is walked first, then the first failing check over both
(07 R174; 12 R302). -/
def LaneCheck.join (x y : LaneCheck) : LaneCheck :=
  match x, y with
  | .miss page, _ => .miss page
  | _, .miss page => .miss page
  | .fault c d a, .fault c' d' a' => if d % 16 ≤ d' % 16 then .fault c d a else .fault c' d' a'
  | .fault c d a, _ => .fault c d a
  | _, .fault c d a => .fault c d a
  | .ok ps, .ok qs => .ok (ps ++ qs)
  | .blocked page ps, .ok qs => .blocked page (ps ++ qs)
  | .ok ps, .blocked page qs => .blocked page (ps ++ qs)
  | .blocked page ps, .blocked _ qs => .blocked page (ps ++ qs)

/-- The pieces of a row, each under the address of its own first byte (12 R302). -/
def LaneCheck.byWord (c : LaneCheck) : LaneCheck :=
  let f (ps : List Piece) : List Piece := ps.mapIdx (fun i p => { p with addr := p.addr + BitVec.ofNat 64 (4 * i) })
  match c with
  | .ok ps => .ok (f ps)
  | .blocked page ps => .blocked page (f ps)
  | x => x

/-- A scratchpad bounds fault under the lowest byte of the access that lies out of bounds (12 R302). -/
def LaneCheck.outAt (c : LaneCheck) (start : Int) (size : Nat) : LaneCheck :=
  match c with
  | .fault code detail a => if code == fcScratchBounds && 0 ≤ start then .fault code detail (BitVec.ofInt 64 (max start size))
      else .fault code detail a
  | x => x

/-- The checks of an access that may span two pages, each word under its own address (12 R302). -/
def State.checkSpan (s : State) (r : LaneReq) (align : Nat) : LaneCheck :=
  let room := 65536 - r.ea.addr.toNat % 65536
  match r.ea.space with
  | .sp | .rsp => ((s.checkLane r align).outAt r.ea.scr s.cluster.scratch).byWord
  | _ =>
    if r.ea.addr.toNat % align != 0 || r.bytes ≤ room then (s.checkLane r align).byWord
    else
      (s.checkLane { r with bytes := room, words := r.words.take (room / 4) } align).byWord.join
        (s.checkLane { r with ea := { r.ea with addr := r.ea.addr + BitVec.ofNat 64 room }, bytes := r.bytes - room,
                              words := r.words.drop (room / 4) } align).byWord

/-- The checks of a row's access, at a multiple of 16 (12 R302). -/
def State.checkRow (s : State) (r : LaneReq) : LaneCheck := s.checkSpan r 16

/-- The address of a lane of msta, msave and mrest: no offset (12 R301). -/
def State.rowEa (s : State) (w : W3) (l : Nat) : Ea := s.ea (Space.ofNum (w.c.toNat % 4)) w.a 0 l

/-- A row's words as a lane asks for them, each piece knowing the byte it starts at. -/
def rowReq (s : State) (w : W3) (l : Nat) (need : Need) (ws : List WordReq) : LaneReq :=
  { lane := l, ea := s.rowEa w l, bytes := 4 * ws.length, need := need, words := ws }

/-- The stored words of a resolved row (12 R310). -/
def State.staRow (s : State) (w : W3) (l : Nat) : List Word × Nat :=
  let m := s.mode w.m false l 0
  let rs := columns.map (fun j => (s.acc w.d.toNat l j).resolve (fmtOf w.ty) m)
  let v (i : Nat) : Nat := (rs.getD i (0, 0)).1
  (if w.ty == .f32 then columns.map (fun i => BitVec.ofNat 32 (v i))
   else (List.range 64).map (fun i => BitVec.ofNat 32 (v (2 * i) + v (2 * i + 1) * 2 ^ 16)),
   rs.foldl (fun a r => a ||| r.2) 0)

/-- The weak access of a row word at .wp (12 R310 to R312). -/
def State.rowAccess (s : State) (kind : AccKind) : Access := s.newAccess kind 0

def execMsta (w : W3) (s : State) : Out :=
  .next (
    let a := s.rowAccess .matrix
    let words (l : Nat) : List WordReq := (s.staRow w l).1.map (fun v => { val := v })
    s.matrixWord 4 w (some w.d.toNat)
      (fun act => s.checkLanes a false s.checkRow (act.map (fun l => rowReq s w l { wr := true } (words l))) [] none)
      (s.rowPoison w.d.toNat columns)
      (fun act ps => (((s.touchPieces ps).merge (act.foldl (fun f l => f ||| (s.staRow w l).2) 0) 0).launchAccess
        { a with pieces := ps })))

/-- The words of a saved row, under free splits, a poisoned element's marked (03 R82; 12 R311). -/
def State.saveRow (s : State) (w : W3) (l : Nat) : List (Word × Bool) :=
  columns.flatMap (fun j =>
    let e := s.acc w.d.toNat l j
    (e.image (Config.accSplit e.v ((w.d.toNat * 64 + s.me.base + l) * 128 + j) s.issuePc)).map (fun v => (v, e.poison)))

def execMsave (w : W3) (s : State) : Out :=
  .next (
    let a := s.rowAccess .matrix
    let words (l : Nat) : List WordReq := (s.saveRow w l).map (fun v => { val := v.1, val2 := if v.2 then 1 else 0 })
    s.matrixWord 5 w (some w.d.toNat)
      (fun act => s.checkLanes a false s.checkRow (act.map (fun l => rowReq s w l { wr := true } (words l))) [] none)
      (fun _ => false)
      (fun _ ps =>
        (s.touchPieces ps).launchAccess { a with pieces := ps.map (fun p => { p with poison := p.val2 == 1, val2 := 0 }) }))

/-- The words of a lane of mrest, all read within the word. -/
def State.obtainAll (s : State) (a : Access) : List Piece → State × List (Nat × Word)
  | [] => (s, [])
  | p :: ps =>
    let r := s.obtain a p
    let q := r.1.obtainAll a ps
    (q.1, (p.lane, r.2) :: q.2)

/-- A poisoned scratchpad word's fault under its lowest poisoned byte (12 R302). -/
def State.poisonByte (s : State) (w : W3) (c : WordCheck) : WordCheck :=
  match c with
  | .fault lane code detail a =>
    let e := s.rowEa w lane
    (match e.space, s.scratchOwner e with
    | .sp, some k | .rsp, some k =>
      if code == fcPoison then
        .fault lane code detail (a + BitVec.ofNat 64 (((List.range 4).find? (fun i =>
          s.scratchPoison.get false (scratchKey k (a.toNat + i)))).getD 0))
      else .fault lane code detail a
    | _, _ => .fault lane code detail a)
  | x => x

/-- mrest: rows set from their images and left floating (12 R312). -/
def execMrest (w : W3) (s : State) : Out :=
  .next (
    let a := s.rowAccess .load
    let words : List WordReq := List.replicate 512 {}
    s.matrixWord 6 w (some w.d.toNat)
      (fun act => s.poisonByte w (s.checkLanes a true s.checkRow (act.map (fun l => rowReq s w l { rd := true } words)) [] none))
      (fun _ => false)
      (fun act ps =>
        let s1 := s.touchPieces ps
        if ps.any (s1.obtainWaits a) then s.park .retry
        else
          let r := s1.obtainAll a ps
          let ws (l : Nat) : List Word := (r.2.filter (fun e => e.1 == l)).map (·.2)
          (((r.1.oncePerLine s.counts.length).mapRows w.d.toNat act columns (fun l j _ => Acc.ofImage ((ws l).drop (4 * j)))).setFixed
            w.d.toNat act false).retire))

/-! ### mldb (12 R313) -/

/-- The first failing check of an mldb after EXT_NOT_HELD: its code and fault address.
(DEDUCED, notes/assumptions/39.md.) -/
def State.mldbFault (s : State) (src : DWord) (unit count : Nat) (ctl : Word) : Option (Nat × DWord) :=
  if cmdScratch src || cmdBitsBad src || bitsN unit 31 10 != 0 || count == 0 || 31 < count || 1024 < unit + 33 * count
      || ctlXfer ctl || ctlRed ctl || ctlRty ctl != 0 then some (fcEngineCommand, 0)
  else if cmdForm src == 0 && bitsN src.toNat 61 56 != 0 then some (fcNotMapped, src)
  else if bitsN src.toNat 55 0 % 8192 != 0 then some (fcMisalignedAccess, src)
  else if ctlGen ctl && s.cluster.scratch < ctlGong ctl + 16 then some (fcScratchBounds, BitVec.ofNat 64 (ctlGong ctl))
  else none

/-- The queue of a core's weight loader: its mldb commands in issue order, but for those that have stopped, which are
replay entries off their engine (12 R314, R318). -/
def State.loads (s : State) (core : Nat) : List Nat :=
  (s.coreOf core).loader.filter (fun i => (s.cmds.find i).any (fun c => !c.stopped))

/-- A command number taken for a new command, whose fork waits for the push of 06 R156. -/
def State.newCommand (s : State) (c : Command) : State × Nat :=
  let r := s.startRelease 4
  let s1 := r.1
  ({ s1 with nextId := s1.nextId + 1, cmds := s1.cmds.set s1.nextId { c with slot := s.me.slot, forks := r.2.toList } }, s1.nextId)

/-- mldb enters its core's loader queue, and parks while that is full (12 R313, R314). -/
def execMldb (w : W3) (s : State) : Out :=
  .next (
    let x (act : List Nat) : Nat := act.headD 0
    let src (act : List Nat) : DWord := s.pair (x act) w.a.toNat
    let unit (act : List Nat) : Nat := s.nat32 (x act) w.b.toNat
    let count (act : List Nat) : Nat := s.nat32 (x act) w.c.toNat
    let ctl (act : List Nat) : Word := s.reg (x act) (w.c.toNat + 1)
    s.matrixWord 7 w none
      (fun act => match s.mldbFault (src act) (unit act) (count act) (ctl act) with
        | some (code, a) => .fault (x act) code (cmdDetail code) a
        | none => .ok [])
      (fun _ => false)
      (fun act _ =>
        let c := ctl act
        if 8 ≤ (s.loads s.me.core).length || s.readsPending
            || (ctlTen c && 255 ≤ s.tagSet.counts.get 0 (ctlTag c)) then s.park .retry
        else
          let r := s.newCommand
            { kind := .mldb, queue := 0, agent := s.me.id, core := s.me.core, part := s.me.part, ctx := s.me.ctx,
              grid := s.me.grid, cluster := s.me.cluster, pc := s.issuePc, scope := 0, ctl := c, seq := 0,
              racemode := s.me.racemode.toNat, canon := bitN s.me.repro.toNat 0,
              pieces := (List.range (count act)).map (fun i =>
                ⟨src act + BitVec.ofNat 64 (8192 * i), BitVec.ofNat 64 (unit act + 33 * i), 8192⟩),
              size := 8192, bytes := 8192 * count act, half := s.cluster.ctxPos, ty := w.ty.code.toNat }
          let s1 := r.1.updCore s.me.core (fun k => { k with loader := k.loader ++ [r.2] })
          let s2 := if ctlTen c then s1.setTags (s1.tagSet.issue (ctlTag c)) else s1
          s2.retire))

/-- mbank: PRIVILEGE in a warp, ILLEGAL_UNIT in a conductor thread (12 R320). -/
def execMbank (_ : W3) (s : State) : Out := .next (s.warpOnly (s.faultHere fcPrivilege (s.group.headD 0)))

end Sys2Proof.Machine
end

