-- ==== Sys2Proof/Machine/Launch.lean ====
section
/-! DEFINITION. LAUNCH (13 R325 to R331): launch, ldisp and lstat. -/

namespace Sys2Proof.Machine

/-! ### The descriptor (13 R325) -/

/-- A descriptor of sixteen words: its fields by byte. -/
abbrev Desc := List Word

def Desc.w (d : Desc) (i : Nat) : Nat := (List.getD d i (0 : Word)).toNat
def Desc.quad (d : Desc) (i : Nat) : Nat := d.w i + d.w (i + 1) * 2 ^ 32
def Desc.byte (d : Desc) (i : Nat) : Nat := d.w (i / 4) / 2 ^ (8 * (i % 4)) % 256
def Desc.code (d : Desc) : Nat := d.quad 0
def Desc.done (d : Desc) : Nat := d.quad 2
def Desc.regtab (d : Desc) : Nat := d.quad 4
def Desc.chime (d : Desc) : Nat := d.quad 6
def Desc.seed (d : Desc) : Nat := d.quad 8
def Desc.ncl (d : Desc) : Nat := d.w 10 % 2 ^ 24
def Desc.warps (d : Desc) : Nat := d.byte 44
def Desc.spare (d : Desc) : Nat := d.byte 45
def Desc.b (d : Desc) : Nat := 8 * d.byte 46
def Desc.e (d : Desc) : Nat := 8 * d.byte 47
def Desc.scratch (d : Desc) : Nat := 2 ^ 18 * d.byte 48
def Desc.acc (d : Desc) : Nat := d.byte 49
def Desc.width (d : Desc) : Nat := 16 * 2 ^ (d.byte 50 % 4)
def Desc.sect (d : Desc) : Bool := bitN (d.byte 50) 2
def Desc.gate (d : Desc) : Bool := bitN (d.byte 50) 3
def Desc.disc (d : Desc) : Bool := bitN (d.byte 50) 4
def Desc.repro (d : Desc) : Nat := d.byte 51
def Desc.cmask (d : Desc) : Nat := d.byte 52 + 256 * d.byte 53

/-- Frames and slot pairs a cluster takes (13 R332). -/
def Desc.frames (d : Desc) : Nat := (d.warps * d.width + 63) / 64
def Desc.pairs (d : Desc) : Nat := (d.warps + d.spare + 1) / 2

/-- A descriptor as the sixteen words of a grid. -/
def Grid.d (g : Grid) : Desc := g.desc

/-- The region table's address meets R325. -/
def Desc.regtabOk (d : Desc) : Bool := d.regtab % 16 == 0 && d.regtab < 2 ^ 56

/-- Every field meets R325 but for the cases of other codes. -/
def Desc.ok (d : Desc) : Bool :=
  d.code < 2 ^ 56 && d.done != 0 && d.done % 64 == 0 && d.done < 2 ^ 56 && d.regtabOk
    && (if d.gate then d.chime != 0 && d.chime % 4 == 0 else d.chime == 0 && d.cmask == 0)
    && 1 ≤ d.ncl && d.w 10 < 2 ^ 24 && 1 ≤ d.warps && d.warps ≤ 32 && d.warps + d.spare ≤ 32
    && 2 ≤ d.byte 46 && d.byte 46 ≤ 16 && d.byte 47 ≤ 16 && d.byte 48 ≤ 16 && d.acc ≤ 4
    && d.byte 50 % 4 != 3 && d.byte 50 < 32 && d.repro < 8
    && bitsN (d.w 13) 31 16 == 0 && d.w 14 == 0 && d.w 15 == 0

/-- Entry i of a region table of 60 words, as base and length (07 R194). -/
def tableEntry (ws : List Word) (i : Nat) : Region :=
  let w (k : Nat) : Nat := (ws.getD (4 * (i - 1) + k) 0).toNat
  let lo := w 0 + w 1 * 2 ^ 32
  let hi := w 2 + w 3 * 2 ^ 32
  ⟨bitsN lo 55 16 * 2 ^ 16, bitsN hi 56 16 * 2 ^ 16⟩

/-- Bytes of the completion record (13 R338). -/
def Desc.doneBytes (d : Desc) : Nat := 64 + 4 * ((d.ncl + 31) / 32)

/-- Every 64 KiB page of a range of a context translates with write permission. -/
def State.writable (s : State) (p ctx a n : Nat) : Option (DWord × XErr) :=
  (pageStarts a n).findSome? (fun va =>
    match s.xlateNow p ctx (BitVec.ofNat 64 va) { wr := true } with
    | .ok _ => none
    | .error e => some (BitVec.ofNat 64 va, e))

/-- Grids of a context: those that have not ended. -/
def Part.liveGrids (q : Part) (ctx : Nat) : List (Nat × Grid) := q.grids.pick (fun _ g => g.ctx == ctx && g.st != .ended)

/-- The first refusal code that applies, 0 for none (13 R327). -/
def State.refusal (s : State) (p ctx : Nat) (d : Desc) (table : List Word) : Nat :=
  if !d.ok then 1
  else if d.code % 8 != 0 then 2
  else if 1024 < d.warps * d.width || 1024 < d.pairs * d.e then 3
  else if d.sect && d.ncl % 8 != 0 then 4
  else if 256 ≤ ((s.part p).liveGrids ctx).length then 5
  else if (List.range 15).any (fun i =>
      let r := tableEntry table (i + 1)
      r.len != 0 && 2 ^ 56 < r.base + r.len) then 6
  else if (s.writable p ctx d.done d.doneBytes).isSome then 7
  else 0

/-! ### launch (13 R327, R328) -/

/-- A grid's handle, under which it is kept: serial and context (13 R327). -/
def gridKey (ctx serial : Nat) : Nat := ctx * 2 ^ 32 + serial

/-- The next grid serial of a partition: 1 upwards, never 0. -/
def nextSerial (x : Nat) : Nat := if (x + 1) % 2 ^ 32 == 0 then 1 else (x + 1) % 2 ^ 32

/-- A context's table has room for one more grid: the one that ended earliest leaves it where it is full (13 R328). -/
def Part.makeRoom (q : Part) (ctx : Nat) : Part :=
  let own := q.grids.pick (fun _ g => g.ctx == ctx)
  if own.length < 256 then q
  else
    match (own.pick (fun _ g => g.st == .ended)).foldl (fun (m : Option (Nat × Nat)) (e : Nat × Grid) => match m with
        | some (k, o) => if e.2.endOrder < o then some (e.1, e.2.endOrder) else some (k, o)
        | none => some (e.1, e.2.endOrder)) none with
    | some (k, _) => { q with grids := q.grids.erase k }
    | none => q

/-- The launch log record (15 R399). -/
def State.logLaunch (s : State) (p serial ctx thread : Nat) (arg : DWord) (d : Desc) : State :=
  if !bitN (s.preg p 0x158) 0 then s
  else
    let r := s.append p logRing (fun q => s.tickWords ++ words64 (gridKey ctx serial) ++ words64 arg.toNat
      ++ [wordN ((thread - 8 * p) + ctx * 2 ^ 16 + (if d.repro == 7 then 2 ^ 24 else 0)), wordN q]
      ++ List.replicate 8 0 ++ (List.range 16).map (fun i => BitVec.ofNat 32 (d.w i)))
    if d.repro != 7 || r.2.isNone then r.1.setPreg p 0x158 (BitVec.ofNat 64 (r.1.preg p 0x158 ||| 2)) else r.1

/-- A grid is created from a copy of its descriptor, in state WAITING; its region presets go with it (13 R327,
R329). -/
def State.createGrid (s : State) (d : Desc) (table : List Word) (arg : DWord) (x : Nat) (w : W3) (thread : Nat) : State :=
  let p := s.me.part
  let ctx := s.me.ctx
  let serial := nextSerial (s.part p).serial
  let r := s.startRelease 4
  let g0 : Grid := { ctx := ctx, thread := thread, desc := d, argBlock := arg, launchTick := s.vtick.toNat, table := table,
                     order := r.1.nextId, link := r.2 }
  let g := if r.2.isNone then r.1.boundary g0 else g0
  let s1 := { r.1 with nextId := r.1.nextId + 1 }.updPart p (fun q => { (q.makeRoom ctx) with
    serial := serial, grids := (q.makeRoom ctx).grids.set (gridKey ctx serial) g,
    contexts := q.contexts.set ctx (q.contexts.get {} ctx) })
  let s2 := s1.logLaunch p serial ctx thread arg d
  s2.finish [⟨[(x, w.d.toNat, BitVec.ofNat 32 serial), (x, w.d.toNat + 1, BitVec.ofNat 32 ctx)], 0, 0⟩]

/-- A read of consecutive words by a conductor thread, as loads with sc 0, checked as R174 gives (13 R327, R330; 07
R173). -/
def State.readWords (s : State) (x : Nat) (addr : DWord) (n align : Nat) (k : State → List Word → State) : State :=
  let a := s.newAccess .load 0
  let r : LaneReq := { lane := x, ea := { space := .g, addr := addr }, bytes := 4 * n, need := { rd := true },
                       words := List.replicate n {} }
  s.checked (s.checkLanes a true (fun q => s.checkSpan q align) [r] [] none) (fun ps =>
    let s1 := s.touchPieces ps
    if ps.any (s1.obtainWaits a) then s.park .retry
    else
      let v := s1.obtainAll a ps
      k v.1 (v.2.map (·.2)))

/-- launch (13 R327): the descriptor, then the region table, then a grid or a refusal. A word that parks for a
translation reads the descriptor again. -/
def execLaunch (w : W3) (s : State) : Out :=
  .next (s.threadOnly (s.w3 0x30 0 w (fun act => s.once act (fun x =>
    let at_ := s.pair x w.a.toNat
    let arg := s.pair x w.b.toNat
    if at_.toNat % 64 != 0 then s.takeFault fcMisalignedAccess x 0 at_
    else s.readWords x at_ 16 64 (fun s1 d =>
      let settle (s2 : State) (table : List Word) : State :=
        s2.walked s.me.part s.me.ctx (if Desc.ok d then pageStarts (Desc.done d) (Desc.doneBytes d) else []) (wait := (·.park .retry)) fun s2 =>
        match s2.refusal s.me.part s.me.ctx d table with
        | 0 => s2.createGrid d table arg x w (match s.me.kind with
            | .conductor t => t
            | _ => 0)
        | k => s2.finish [⟨[(x, w.d.toNat, 0), (x, w.d.toNat + 1, BitVec.ofNat 32 k)], 0, 0⟩]
      if Desc.regtab d != 0 && Desc.regtabOk d then s1.readWords x (BitVec.ofNat 64 (Desc.regtab d)) 60 16 settle
      else settle s1 [])))))

/-- The first row of a shape-bucket table that matches, reading row by row (13 R330). -/
def State.findRow (s : State) (w : W3) (x : Nat) (table : DWord) (i : Nat) : Nat → State
  | 0 => s.finish [⟨[(x, w.d.toNat, 0), (x, w.d.toNat + 1, 0)], 0, 0⟩]
  | n + 1 =>
    s.readWords x (table + BitVec.ofNat 64 (40 * i)) 10 8 (fun s1 r =>
      let shp := [s.me.shp0, s.me.shp1, s.me.shp2, s.me.shp3]
      let fits (j : Nat) : Bool := r.getD (2 * j) 0 ≤ shp.getD j 0 && shp.getD j 0 ≤ r.getD (2 * j + 1) 0
      if (List.range 4).all fits then
        s1.finish [⟨[(x, w.d.toNat, r.getD 8 0), (x, w.d.toNat + 1, r.getD 9 0)], 0, 0⟩]
      else s1.findRow w x table (i + 1) n)

def execLdisp (w : W3) (s : State) : Out :=
  .next (s.threadOnly (s.w3 0x30 1 w (fun act => s.once act (fun x =>
    let t := s.pair x w.a.toNat
    if t.toNat % 8 != 0 then s.takeFault fcMisalignedAccess x 0 t
    else s.findRow w x t 0 (min (s.nat32 x w.b.toNat) 256)))))

/-- What lstat gives for a grid (13 R331). -/
def Grid.state (g : Grid) : Word :=
  match g.st with
  | .waiting => 8
  | .running => 9
  | .draining => 10
  | .ended => g.word

def execLstat (w : W3) (s : State) : Out :=
  .next (s.threadOnly (s.w3 0x30 2 w (fun act => s.once act (fun x =>
    let h := (s.pair x w.a.toNat).toNat
    let v := match (s.part s.me.part).grids.find h with
      | some g => if g.ctx == s.me.ctx then g.state else 0xF
      | none => 0xF
    s.finish [⟨[(x, w.d.toNat, v)], 0, 0⟩]))))

end Sys2Proof.Machine
end

