-- ==== Sys2Proof/Machine/Retire.lean ====
section
/-! DEFINITION. The end of work: commands that stop (08 R222, R223; 14 R363), clusters and grids that end (13 R337 to
R340; 14 R356, R371), the counter record (16 R407) and the knell's vacancy (14 R372). -/

namespace Sys2Proof.Machine

/-! ### Owners flushed -/

/-- The registration requests of some owners take their places, in the order in which they were sent (05 R130). -/
def State.settleRegs (s : State) (owners : List Nat) : State :=
  (s.regReqs.keysOf (fun r => owners.contains r.owner)).foldl (fun t k =>
    match t.regReqs.find k with
    | some r => (t.forwardReply (lineOf r.word)).applyReg k
    | none => t) s

/-- The registration requests of some owners take their places, and then their open lines are pushed: releases of them
performed whole (05 R136; 06 R152). -/
def State.flushOwners (s : State) (owners : List Nat) : State := owners.foldl State.pushAll (s.settleRegs owners)

/-- The owners of a partition: section caches, conductor cores and copy engines (05 R129). DESIGN CHOICE
(notes/assumptions/77.md): its fabric ports are not among those that a partition reset loses, for R145 names no port. -/
def State.ownersOf (s : State) (p : Nat) : List Nat :=
  let q := s.part p
  (List.range q.slices).map (p + ·) ++ (List.range q.slices).map (0x060 + p + ·) ++ (s.copyEngines p).map (0x020 + ·)

/-- The section caches of a partition flushed (13 R337). -/
def State.flushSections (s : State) (p : Nat) : State := s.flushOwners ((List.range (s.part p).slices).map (p + ·))

/-! ### Commands (08 R222, R223; 14 R363) -/

/-- Kind code of a replay entry (14 R363). -/
def CmdKind.code : CmdKind → Nat
  | .cpy => 0
  | .gath => 1
  | .scat => 2
  | .coll => 3
  | .mldb => 4

/-- The remainder of a command as a replay entry of 256 words (14 R363). DESIGN CHOICE (notes/assumptions/79.md): the
spec gives an mldb no destination address; bytes 8 to 15 of its entry are 0. -/
def Command.replayWords (c : Command) (seq : Nat) : List Word :=
  let left := c.pieces.drop c.piece
  let cur : CmdPiece := left.headD ⟨0, 0, 0⟩
  let off : DWord := BitVec.ofNat 64 c.at_
  let single := c.kind == .cpy || c.kind == .mldb
  let tail := if single then [] else left.take 120
  let head := words64 (cur.src + off).toNat ++ words64 (if c.kind == .mldb then 0 else (cur.dst + off).toNat)
    ++ [wordN (cur.len - c.at_), c.ctl, wordN (c.queue + c.kind.code * 16 + c.seq * 2 ^ 16),
        wordN (if c.kind == .cpy then 0 else left.length), wordN c.grid,
        wordN (c.ctx + c.slot * 2 ^ 8
          + (if c.core < 256 then c.core else c.core - 256) * 2 ^ 16),
        wordN c.size, wordN c.piece, 0, 0, 0, wordN seq]
  let pieces := tail.flatMap (fun p => words64 (if c.kind == .scat then p.dst else p.src).toNat)
  (head ++ pieces ++ List.replicate 256 0).take 256

/-- A word is still registered to the engine that landed it for a command, and for no other command (05 R138). -/
def State.stillLanded (s : State) (id : Nat) (e : Nat × Nat) : Bool :=
  s.regOf e.1 == .ol && s.ownerOf e.1 == 0x020 + e.2
    && (s.cmds.pick (fun k c => k != id && c.landed.find e.1 == some e.2)).isEmpty

/-- The engines' owner fields in the lines that a command has landed are emptied where they hold no word of them
(05 R138). -/
def State.emptyFields (s : State) (landed : SMap Nat) : State :=
  landed.foldl (fun t (e : Nat × Nat) =>
    let l := lineOf e.1
    let owner := 0x020 + e.2
    if (t.wordsOf l owner).isEmpty then
      let t1 := t.dropOwner l owner
      { t1 with openLines := t1.openLines.put [] owner ((t1.openLines.get [] owner).filter (· != l)) }
    else t) s

/-- The words a stopped command has landed become U, and its engines' owner fields are emptied (08 R223). -/
def State.unland (s : State) (id : Nat) (c : Command) : State :=
  (c.landed.foldl (fun t (e : Nat × Nat) =>
    if t.stillLanded id e then t.toU e.1 (t.current e.1) else t) s).emptyFields c.landed

/-- A command is gone: from its engine, its loader's queue, the releases and the tracker. -/
def State.dropCommand (s : State) (id : Nat) : State :=
  { s with cmds := s.cmds.erase id,
           cores := s.cores.mapV (fun c => { c with
             loader := c.loader.filter (· != id),
             tracker := c.tracker.map (fun d => { d with cmds := d.cmds.filter (· != id) }) }) }

/-- A command is saved: what it has landed is no engine's any more, so that none of its words stays registered after it
(08 R222). (DESIGN CHOICE, notes/assumptions/49.md.) -/
def State.releaseCommand (s : State) (id : Nat) : State :=
  match s.cmds.find id with
  | some c => (s.unland id c).dropCommand id
  | none => s

/-- A command that a grid has issued, as against a port's, which is only charged to it (15 R404). -/
def Command.ofGrid (c : Command) (p k : Nat) : Bool := c.part == p && c.grid == k && c.port.isNone

/-- A command of a grid that ended FAULTED, DISCARDED or ABORTED, or of a reset: it stops, its remainder goes to the
replay ring, and its completion objects are never updated (08 R223; 14 R363). -/
def State.killCommand (s : State) (id : Nat) : State :=
  match s.cmds.find id with
  | none => s
  | some c =>
    let s1 := s.unland id c
    let s2 := (s1.append c.part replayRing c.replayWords).1
    s2.dropCommand id

/-! ### Accesses, agents and clusters -/

/-- Accesses a test picks are abandoned: what waits for them waits no longer. (DEDUCED, notes/assumptions/43.md.) -/
def State.dropAccesses (s : State) (p : Access → Bool) : State :=
  (s.accesses.keysOf p).foldl (fun t k =>
    { ({ t with accesses := t.accesses.erase k }).performedAccess k with
      forwards := t.forwards.filter (fun (e : Nat × Forward) => e.2.req / 65536 != k) }) s

/-- Agents a test picks are gone; the turn falls to the management core where it was theirs. -/
def State.dropAgents (s : State) (p : Agent → Bool) : State :=
  let rest : SMap Agent := s.others.filter (fun e => !p e.2)
  if p s.me then { s with me := (rest.find 8448).getD managementReset, others := rest.erase 8448, issuePc := 0 }
  else { s with others := rest }

/-- Scratchpad bytes, exact sums and gong joins of a cluster are gone. -/
def State.dropScratch (s : State) (c : Nat) : State :=
  { s with scratch := s.scratch.drop (fun k => k / 2 ^ 22 == c), scratchPoison := s.scratchPoison.drop (fun k => k / 2 ^ 22 == c),
           exact := s.exact.drop (fun k => decide (2 ^ 70 ≤ k) && (k - 2 ^ 70) / 2 ^ 20 == c),
           gongJoins := s.gongJoins.drop (fun k => k / 2 ^ 20 == c) }

/-- The bytes that ended clusters have left in the scratchpad of a core are cleared (13 R334). -/
def State.clearLeft (s : State) (core : Nat) : State :=
  let s1 := (s.coreOf core).left.foldl State.dropScratch s
  if (s.coreOf core).left.isEmpty then s else s1.updCore core (fun c => { c with left := [] })

/-- A cluster ends: its slots, frames, locks, tiles and scratchpad are free, whose bytes stay until the start of another
cluster of the core clears them (07 R172; 13 R332, R334). (DEDUCED, notes/assumptions/43.md.) -/
def State.dropCluster (s : State) (k : Nat) : State :=
  match s.clusters.find k with
  | none => s
  | some c =>
    let s0 := s.dropAgents (fun a => a.isWarp && a.cluster == k)
    let s1 := if c.started && c.scratch != 0 then s0.updCore c.core (fun x => { x with left := k :: x.left }) else s0.dropScratch k
    { s1 with clusters := s1.clusters.erase k,
              locks := c.slots.foldl (fun m sl => SMap.erase m (lockKey c.core (sl / 2))) s1.locks }

/-- The clusters of a grid, by key. -/
def State.clustersOf (s : State) (p grid : Nat) : List Nat := s.clusters.keysOf (fun c => c.part == p && c.grid == grid)

/-! ### The completion record (13 R337 to R340) -/

/-- Status codes of a grid's end (13 R339). -/
def stDone : Nat := 0
def stFaulted : Nat := 1
def stDiscarded : Nat := 2
def stCheckpointed : Nat := 3
def stAborted : Nat := 4

/-- The completion word (13 R339). -/
def Grid.completion (g : Grid) (status : Nat) : Word :=
  wordN (status + (if g.race then 16 else 0)
    + (if status == stFaulted then (g.fault.elim 0 (·.code)) * 2 ^ 8 else 0) + 2 ^ 31)

/-- A word written through a context at the bank, a counted request to its page (04 R119), or at the host.
(DEDUCED, notes/assumptions/44.md.) -/
def State.putPlace (s : State) (p ctx va : Nat) (q : Place) (v : Word) : State :=
  let s1 := s.touchHost (q.key / 4)
  if q.pol == 2 then s1.hostPut (q.key / 4) v
  else (s1.countDue (countOn p ctx va q.leaf) (lineOf (q.key / 4))).putAt (q.key / 4) v

/-- Words written through a context from an address up, where they translate (13 R340). -/
def State.putVirtual (s : State) (p ctx a : Nat) (ws : List Word) : State :=
  ((List.range ws.length).foldl (fun (t : State) i =>
    match t.xlateNow p ctx (BitVec.ofNat 64 (a + 4 * i)) { wr := true } with
    | .ok q => t.putPlace p ctx (a + 4 * i) q (ws.getD i 0)
    | .error _ => t) s).oncePerLine s.counts.length

/-- The pages of a record hold its writes back: some page has WB = 1 (13 R340). -/
def State.heldBack (s : State) (p ctx a n : Nat) : Bool :=
  (pageStarts a n).any (fun va =>
    match s.xlateNow p ctx (BitVec.ofNat 64 va) { wr := true } with
    | .ok q => q.wb
    | .error _ => false)

/-- The retire bitmap, word by word (13 R338, R340). -/
def Grid.bitmap (g : Grid) : List Word :=
  (List.range ((Desc.ncl g.d + 31) / 32)).map (fun i =>
    BitVec.ofNat 32 ((List.range 32).foldl (fun m b => if g.retired.contains (32 * i + b) then m + 2 ^ b else m) 0))

/-- Bytes 4 to 63 of the record (13 R338). -/
def Grid.recordWords (g : Grid) (handle : Nat) : List Word :=
  [wordN g.retired.length] ++ words64 g.endTick ++ words64 handle ++ [wordN (Desc.ncl g.d)] ++ List.replicate 9 0

/-- The counter record of a grid's end, at its end (16 R407). -/
def State.counterRecord (s : State) (p handle : Nat) (g : Grid) : State :=
  if !bitN (s.preg p 0x1B8) 0 || g.latch.isEmpty then s
  else
    let now := (s.context p g.ctx).counters
    (s.append p counterRing (fun q => words64 g.startTick ++ words64 g.endTick ++ words64 handle
      ++ [wordN (g.ctx + (if g.overlap then 2 ^ 8 else 0)), wordN q]
      ++ (List.range 16).flatMap (fun j => words64 (SMap.get 0 now j - g.latch.getD j 0).toNat)
      ++ List.replicate 24 0)).1

def State.setGrid (s : State) (p k : Nat) (g : Grid) : State := s.updPart p (fun q => { q with grids := q.grids.set k g })

/-- The grid's table entry reads as ended (13 R337). -/
def State.closeGrid (s : State) (p k : Nat) (g : Grid) (w : Word) : State :=
  { s with nextId := s.nextId + 1 }.setGrid p k
    { g with st := .ended, ending := none, word := w, endOrder := s.nextId, halted := .none }

/-- A half of a core's weight buffer with no panel (12 R299). -/
def Core.clearHalf (c : Core) (half : Nat) : Core :=
  { c with panels := c.panels.drop (fun u => u / 1024 == half), weights := c.weights.drop (fun b => b / 2 ^ 18 == half) }

/-- A partition's weight-buffer halves of contexts with no grid that lives are without panels (14 R372). -/
def State.clearWeights (s : State) (p : Nat) : State :=
  let idle (x : Option (Nat × Nat)) : Bool := x.any (fun e =>
    e.1 == p && !(s.part p).grids.anyV (fun g => g.ctx == e.2 && g.st != .ended && g.ending.isNone))
  let half (c : Core) (i : Nat) : Core := if idle (c.ctxs.getD i none) then c.clearHalf i else c
  { s with cores := s.cores.mapV (fun c => half (half c 0) 1) }

/-- The partition is vacant: it holds no weight-buffer state of the grids that have ended, a summary with reason 3 is
written, and XKNELL is cleared (14 R372).
(DEDUCED, notes/assumptions/50.md.) -/
def State.checkVacancy (s : State) (p : Nat) : State :=
  let q := s.part p
  match q.knell with
  | none => s
  | some k =>
    let ended (h : Nat) : Bool := match q.grids.find h with
      | some g => g.st == .ended || g.ending.isSome
      | none => true
    let user (a : Agent) : Bool := a.part == p && a.runs && a.userThread
    if k.begun && k.grids.all ended && s.agents.all (fun a => !user a || a.halted != .none) then
      let stop (a : Agent) : Agent :=
        if user a then
          { a with halted := .none, parks := [], xqctl := a.xqctl &&& ~~~0x200,
                   threads := a.threads.map (fun t => { t with st := .exited }) }
        else a
      let s1 := { s with me := stop s.me, others := s.others.mapV stop }.clearWeights p
      let s2 := (s1.summary p 0 0 0 k.num 0 0xFF 3 0).updPart p (fun q => { q with knell := none })
      s2.setPreg p 0x1E 0
    else s

/-- The bytes of its record that a grid writes as it ends: the completion word alone where it is DONE (13 R338). -/
def Grid.recordBytes (g : Grid) (status : Nat) : Nat := if status == stDone then 4 else Desc.doneBytes g.d

/-- The record of a grid whose end is decided, its pages translated, is written, unless a write-block holds it
(13 R337, R340). (DEDUCED, notes/assumptions/44.md.) -/
def State.putRecord (s : State) (p k : Nat) : State :=
  match (s.part p).grids.find k with
  | none => s
  | some g =>
    match g.ending with
    | none => s
    | some status =>
      let w := g.completion status
      let at_ := Desc.done g.d
      match s.writable p g.ctx at_ (g.recordBytes status) with
      | some (_, e) =>
        let s1 := s.closeGrid p k g w
        let (s2, num) := s1.nextStop p
        ((s2.summary p 0 (BitVec.ofNat 64 at_) (trapInfo e.code 0 e.detail false) num k g.ctx 6 0).fireVf p
          (some g.ctx) 0).checkVacancy p
      | none =>
        if s.heldBack p g.ctx at_ (g.recordBytes status) then s.checkVacancy p
        else
          let s1 := if status == stDone then s
            else (s.putVirtual p g.ctx (at_ + 4) (g.recordWords k)).putVirtual p g.ctx (at_ + 64) g.bitmap
          let s3 := (s1.putVirtual p g.ctx at_ [w]).closeGrid p k g w
          (if status == stFaulted then s3.fireVf p (some g.ctx) 0 else s3).checkVacancy p

/-- The record of a grid whose end is decided is written: after the release of every write that has been performed,
whose races its completion word tells, and the walks of its pages (04 R112; 13 R337, R339). -/
def State.writeRecord (s : State) (p k : Nat) : State :=
  let t := s.flushSections p
  match (t.part p).grids.find k with
  | none => t
  | some g =>
    match g.ending with
    | none => t
    | some status => t.walked p g.ctx (pageStarts (Desc.done g.d) (g.recordBytes status)) (·.putRecord p k) (·.checkVacancy p)

/-- A GRID ENDS with a status: its warps and clusters are gone, its commands have stopped, its sums end, and its
record is written (13 R337; 14 R356, R370, R371; 08 R223; 07 R190). -/
def State.endGrid (s : State) (p k status : Nat) : State :=
  match (s.part p).grids.find k with
  | none => s
  | some g =>
    if g.st == .ended || g.ending.isSome then s
    else
      let mine (a : Access) : Bool := a.part == p && a.grid == k
      let s1 := (s.cmds.keysOf (·.ofGrid p k)).foldl
        (fun t i => if status == stCheckpointed then t.releaseCommand i else t.killCommand i) s
      let s2 := (s1.dropAccesses mine).dropAgents (fun a => a.isWarp && a.part == p && a.grid == k)
      let s3 := (s2.clustersOf p k).foldl State.dropCluster s2
      let s4 := { s3.endSums (fun _ e => e.part == p && e.grid == k) with
        cores := s3.cores.mapV (fun c => { c with
          tracker := c.tracker.filter (fun d => !(d.part == p && d.grid == k)),
          mma := c.mma.filter (fun t => (s3.agent t.agent).isSome) }) }
      let s5 := s4.flushSections p
      let g1 := { (s5.part p).grids.get g k with st := .draining, ending := some status, endTick := s.tick }
      ((s5.setGrid p k g1).counterRecord p k g1).writeRecord p k

/-- The grids of a partition that a test picks end with a status. -/
def State.endGrids (s : State) (p status : Nat) (f : Grid → Bool) : State :=
  ((s.part p).grids.keysOf (fun g => g.st != .ended && f g)).foldl (fun t k => t.endGrid p k status) s

/-- User threads of a context become idle: what they issued is abandoned (14 R371; 15 R394). -/
def State.idleThreads (s : State) (f : Agent → Bool) : State :=
  let hit (a : Agent) : Bool := !a.isWarp && a.kind != .management && f a
  let ids := (s.agents.filter hit).map Agent.id
  let s1 := (s.cmds.keysOf (fun c => ids.contains c.agent)).foldl State.killCommand s
  let s2 := s1.dropAccesses (fun a => ids.contains a.agent)
  let idle (a : Agent) : Agent :=
    if hit a then { a with xqctl := a.xqctl &&& ~~~0x200, parks := [], pend := [], halted := .none, fetched := [],
                           heldSince := none, threads := a.threads.map (fun t => { t with st := .exited }) } else a
  { s2 with me := idle s2.me, others := s2.others.mapV idle }

end Sys2Proof.Machine
end

