-- ==== Sys2Proof/Machine/Csr.lean ====
section
/-! DEFINITION. The control registers and what a write of one does (04 R107; 05 R125, R142, R146; 08 R220; 13 R322,
R323; 14 R379 to R382; 15 R394; 16 R409), and partitions as they start and end (15 R385; 14 R375). -/

namespace Sys2Proof.Machine

/-! ### Partition registers -/

/-- Bits of a register, from hi down to lo. -/
def fieldMask (hi lo : Nat) : Nat := (2 ^ (hi - lo + 1) - 1) * 2 ^ lo

/-- The fields a write may change, by selector or by 0x100 + page offset; 0 for a register that is read only. -/
def regMask (sel : Nat) : Nat :=
  match sel with
  | 0x00 => fieldMask 51 10
  | 0x01 => fieldMask 51 14 + 1
  | 0x02 | 0x09 | 0x0E | 0x14 | 0x18 | 0x140 | 0x180 | 0x1A0 => fieldMask 51 12 + 15
  | 0x04 | 0x06 | 0x0B | 0x0D | 0x10 | 0x16 | 0x17 | 0x1A | 0x1B | 0x1D | 0x21 | 0x22 | 0x150 | 0x190 | 0x1B0 =>
    fieldMask 31 0
  | 0x05 => fieldMask 12 0
  | 0x07 => fieldMask 19 0
  | 0x08 => fieldMask 63 0
  | 0x0C => 7
  | 0x11 => 1
  | 0x12 => fieldMask 51 12
  | 0x1C => 3
  | 0x1F => fieldMask 51 16 + fieldMask 15 0
  | 0x20 => fieldMask 55 3 + 1
  | 0x23 => fieldMask 51 6
  | 0x158 => 15
  | 0x198 => fieldMask 6 0
  | 0x1B8 => 3
  | _ => if 0x1C0 ≤ sel && sel < 0x1E0 then fieldMask 31 0 else 0

/-- The range of a SIZE field, 4 bits wide but for the sample ring's. (DEDUCED, notes/assumptions/20.md.) -/
def sizeRange (sel : Nat) : Option (Nat × Nat) :=
  match sel with
  | 0x02 | 0x09 | 0x18 | 0x140 | 0x1A0 => some (4, 16)
  | 0x0E | 0x14 => some (4, 12)
  | 0x180 => some (4, 20)
  | _ => none

/-- A write's value under the register's own field rules: what a field does not accept leaves it unchanged.
(DEDUCED, notes/assumptions/21.md.) -/
def fieldRules (sel : Nat) (old new : Nat) : Nat :=
  match sizeRange sel with
  | some (lo, hi) => if lo ≤ new % 16 && new % 16 ≤ hi then new else new / 16 * 16 + old % 16
  | none =>
    match sel with
    | 0x0C => if new % 4 == 3 then new / 4 * 4 + old % 4 else new
    | 0x07 => if [7, 11, 13, 14].contains (new % 16) then new / 16 * 16 + old % 16 else new
    | 0x198 => if bitsN new 5 1 < 10 then new / 64 * 64 + 20 + new % 2 else new
    | _ => if 0x1C0 ≤ sel && sel < 0x1E0 then (if new == 0 then 0 else old) else new

/-- A register's new value from a write of its lower word, its upper word or all of it (14 R382; 15 R394).
(DEDUCED, notes/assumptions/20.md; DEDUCED, notes/assumptions/21.md.) -/
def written (sel : Nat) (old : DWord) (words : Nat) (v : DWord) : DWord :=
  let m := regMask sel
  let reach := (if bitN words 0 then fieldMask 31 0 else 0) + (if bitN words 1 then fieldMask 63 32 else 0)
  let all := BitVec.ofNat 64 m &&& BitVec.ofNat 64 reach
  let x := (old &&& ~~~all) ||| (v &&& all)
  BitVec.ofNat 64 (fieldRules sel old.toNat x.toNat)

/-- Selectors of the partition registers (14 R379). -/
def partSel (sel : Nat) : Bool := sel ≤ 0x23
def threadSel (sel : Nat) : Bool := 0x40 ≤ sel && sel ≤ 0x45

/-- Registers whose fields only the vendor may write (04 R107; 05 R125; 14 R380). -/
def vendorSel (sel : Nat) : Bool := sel == 0x01 || sel == 0x07 || sel == 0x08 || sel == 0x23

/-! ### Way units (05 R125, R146) -/

/-- The way units of an XLLCMAP value: 16 g + w for each way of each group (05 R125). -/
def mapUnits (x : Nat) : List Nat :=
  (List.range 4).flatMap (fun g => if bitN x g then ((List.range 16).filter (fun w => bitN x (4 + w))).map (16 * g + ·) else [])

/-- Way units a partition holds as cache, those still being drained among them. -/
def Part.cacheUnits (q : Part) : List Nat := mapUnits (q.reg 0x07).toNat ++ q.draining

/-- Way units in use by anything but one register of one partition. -/
def State.unitsElse (s : State) (p : Nat) (carve : Bool) : List Nat :=
  s.parts.flatMap (fun (e : Nat × Part) =>
    (if e.1 == p && !carve then [] else e.2.cacheUnits)
      ++ (if e.1 == p && carve then [] else grantUnits (e.2.reg 0x08).toNat))

/-- A context of the partition is resident: it has a grid that has not ended or a started user thread (05 R125).
(DEDUCED, notes/assumptions/42.md.) -/
def State.anyResident (s : State) (p : Nat) : Bool :=
  (s.part p).grids.anyV (fun g => g.st != .ended)
    || s.agents.any (fun a => a.part == p && a.runs && a.userThread)

/-- XLLCMAP written: refused where a unit would have two uses or GROUPS would change under a resident context; units
that leave begin to drain (05 R125, R146). DESIGN CHOICE (notes/assumptions/77.md): a write that adds back a unit that the
partition itself is still draining is refused, as one that another use holds. -/
def State.writeLlcmap (s : State) (p : Nat) (words : Nat) (v : DWord) : State :=
  let q := s.part p
  let old := q.reg 0x07
  let new := written 0x07 old words v
  let units := mapUnits new.toNat
  if units.any (s.unitsElse p false).contains || units.any q.draining.contains then s
  else if new.toNat % 16 != old.toNat % 16 && s.anyResident p then s
  else
    let lost := (mapUnits old.toNat).filter (fun u => !units.contains u)
    s.updPart p (fun q => { q.setReg 0x07 new with draining := q.draining ++ lost })

/-- The carve-out units of the package. -/
def State.carveUnits (s : State) (but : Nat) : Nat :=
  (s.parts.flatMap (fun (e : Nat × Part) => if e.1 == but then [] else grantUnits (e.2.reg 0x08).toNat)).length

/-- Bytes of a way unit of the carve-out discarded: it reads as zero when it is granted (05 R127). -/
def State.clearUnit (s : State) (u : Nat) : State :=
  let lo := carveBase + u * 2 ^ 26
  let inUnit (k : Nat) : Bool := decide (lo ≤ k) && decide (k < lo + 2 ^ 26)
  { s with mem := s.mem.drop inUnit, lines := s.lines.drop (fun l => inUnit (128 * l)),
           copies := s.copies.drop (fun k => inUnit (4 * (k % 2 ^ 64))),
           held := s.held.drop (fun k => inUnit (4 * (k % 2 ^ 64))),
           clean := s.clean.drop (fun k => inUnit (128 * (k % 2 ^ 64))) }.endSums (fun w _ => inUnit (4 * w))

/-- XCOGRANT written: refused where a unit would have two uses or the carve-out would pass 32 units (05 R125, R127). -/
def State.writeGrant (s : State) (p : Nat) (words : Nat) (v : DWord) : State :=
  let old := (s.part p).reg 0x08
  let new := written 0x08 old words v
  let units := grantUnits new.toNat
  if units.any (s.unitsElse p true).contains || 32 < s.carveUnits p + units.length then s
  else
    let gone := (grantUnits old.toNat).filter (fun u => !units.contains u)
    (gone.foldl State.clearUnit s).updPart p (fun q => q.setReg 0x08 new)

/-- A partition register or a partition control-page register written (14 R382; 15 R394; 16 R409). -/
def State.writeReg (s : State) (p sel words : Nat) (v : DWord) : State :=
  match sel with
  | 0x07 => s.writeLlcmap p words v
  | 0x08 => s.writeGrant p words v
  | _ => s.updPart p (fun q => q.setReg sel (written sel (q.reg sel) words v))

/-- A partition register as it reads: XLLCMAP.DRAIN stands while a lost unit is being drained (05 R125). -/
def Part.readReg (q : Part) (sel : Nat) : DWord :=
  if sel == 0x07 then q.reg 0x07 ||| (if q.draining.isEmpty then 0 else 0x100000) else q.reg sel

/-! ### Conductor threads (13 R322, R323) -/

/-- The partition that holds a slice. -/
def State.partOf (s : State) (slice : Nat) : Option Nat :=
  (s.parts.find? (fun (e : Nat × Part) => e.1 ≤ slice && slice < e.1 + e.2.slices)).map (·.1)

/-- A context exists from its first use. -/
def State.touchContext (s : State) (p ctx : Nat) : State := s.updContext p ctx id

/-- A thread as it starts (13 R323; 09 R248). -/
def startedThread (a : Agent) (t p : Nat) (vtick : DWord) (mode : Nat) : Agent :=
  let pc := a.xqpc
  let ctx := bitsN a.xqctl.toNat 5 0
  { a with
    level := if bitN a.xqctl.toNat 8 then .supervisor else .user,
    part := p, ctx := ctx, grid := 0, codeBase := pc, width := 1,
    threads := [{ pc := pc }], lc0 := 0, lc1 := 0, lc2 := 0, loops := [],
    rngKey := genH vtick (BitVec.ofNat 64 (2 ^ 62 + t)), rngCtr := 0, repro := 0,
    fpmode := 0, iexc := 0, fexc := 0, racemode := BitVec.ofNat 32 mode, trapvec := 0, trapinfo := 0,
    shp0 := 0, shp1 := 0, shp2 := 0, shp3 := 0, xtepc := 0, xtaddr := 0, xtstat := 0,
    xqctl := a.xqctl ||| 0x200, tags := {}, queues := [{}, {}, {}, {}], calls := [], pend := [], parks := [],
    spinning := false, quiet := none, halted := .none, heldSince := none, fetched := [], late := none, xfaults := [],
    preempt := false }

/-- A THREAD STARTS: its registers, then its acquire (13 R323). A thread that runs, or a partition under a knell, is
not started (13 R322; 14 R367). -/
def State.startThread (s : State) (t : Nat) : State :=
  match s.partOf (t / 8), s.agent (8192 + t) with
  | some p, some a =>
    if bitN a.xqctl.toNat 9 || (s.part p).knell.isSome || (s.part p).deadSlices.contains (t / 8)
        || (s.part p).deadCores.contains (t / 8) then s
    else
      let s0 := s.touchContext p (bitsN a.xqctl.toNat 5 0)
      let vt := BitVec.ofNat 64 s.tick - (s0.context p (bitsN a.xqctl.toNat 5 0)).toff
      let b := { startedThread a t p vt (s.preg p 0x0C % 4) with lastIssue := s.tick }
      let s1 := (s0.setAgent b).clearRows (fun k => rowTag k == 2 && rowIx k / 256 == t)
      let s2 := { s1 with rf := (s1.rf.put 0 (rowKey b 0 0) (lo32 a.xqarg)).put 0 (rowKey b 0 1) (hi32 a.xqarg) }
      (s2.flashThread (t / 8) (acquireDrops p b.ctx 0xFFFF)).updPart p (fun q => { q with touched := true })
  | _, _ => s

/-- A thread register read (13 R322; 14 R380). -/
def Agent.threadReg (a : Agent) (sel : Nat) : DWord :=
  match sel with
  | 0x40 => a.xqctl
  | 0x41 => a.xqpc
  | 0x42 => a.xqarg
  | 0x43 => a.xtepc
  | 0x44 => a.xtaddr
  | _ => a.xtstat

/-- The fields of a thread register that a write may change (13 R322; 14 R380). -/
def threadMask (sel : Nat) (vendor : Bool) : Nat :=
  match sel with
  | 0x40 => if vendor then 0x13F else 0x3F
  | 0x41 => fieldMask 55 3
  | 0x45 => 2 ^ 32
  | _ => fieldMask 63 0

/-- A thread register written; RUN = 1 starts an idle thread (13 R322). -/
def State.writeThreadReg (s : State) (t sel words : Nat) (vendor : Bool) (v : DWord) : State :=
  let reach := (if bitN words 0 then fieldMask 31 0 else 0) + (if bitN words 1 then fieldMask 63 32 else 0)
  let m := BitVec.ofNat 64 (threadMask sel vendor) &&& BitVec.ofNat 64 reach
  let mix (old : DWord) : DWord := (old &&& ~~~m) ||| (v &&& m)
  match s.agent (8192 + t) with
  | none => s
  | some a =>
    let b := match sel with
      | 0x40 => { a with xqctl := mix a.xqctl }
      | 0x41 => { a with xqpc := mix a.xqpc }
      | 0x42 => { a with xqarg := mix a.xqarg }
      | 0x43 => { a with xtepc := mix a.xtepc }
      | 0x44 => { a with xtaddr := mix a.xtaddr }
      | _ => { a with xtstat := mix a.xtstat }
    let s1 := s.setAgent b
    if sel == 0x40 && bitN words 0 && bitN v.toNat 9 then s1.startThread t else s1

/-! ### Partitions (15 R385; 14 R375) -/

/-- A partition as it starts: its registers at their resets (15 R385). -/
def newPart (e : PartEntry) : Part :=
  { logn := e.logn, cegrp := e.cegrp, rate := e.rate, burst := e.burst, fport := e.fport }

/-- A word belongs to a partition's memory: its window, its carve-out units, its copies of host lines. -/
def State.partWord (s : State) (p w : Nat) : Bool :=
  let k := 4 * w
  if k < carveBase then s.inWindow p k
  else if k < hostCopyBase then (grantUnits (s.preg p 0x08)).contains ((k - carveBase) / 2 ^ 26)
  else k < hostBase && (k - hostCopyBase) / 2 ^ 52 == p

/-- The loss of an owner with a poison-map record for every word that becomes P (05 R145; 14 R376). -/
def State.loseOwnerOf (s : State) (p owner : Nat) : State :=
  let before (w : Nat) : Bool := s.regOf w == .p
  let s1 := s.loseOwner owner
  let words := s1.lines.flatMap (fun (e : Nat × BankLine) =>
    (e.2.words.keysOf (fun b => b.st == .p)).map (fun i => e.1 * 32 + i))
  (words.filter (fun w => !before w)).foldl (fun t w => t.poisonRecord p (t.recordAddr w) 7 0xFF owner 0) s1

/-- The thread registers of a partition's conductor cores at their resets (14 R375, R380). -/
def State.resetThreads (s : State) (p n : Nat) : State :=
  let f (a : Agent) : Agent :=
    match a.kind with
    | .conductor t => if p ≤ t / 8 && t / 8 < p + n then { a with xqctl := 0, xqpc := 0, xqarg := 0 } else a
    | _ => a
  { s with me := f s.me, others := s.others.mapV f }

/-- The word keys of the completion words of a partition's grids that have not ended. -/
def State.doneWords (s : State) (p : Nat) : List Nat :=
  (s.part p).grids.filterMap (fun (e : Nat × Grid) =>
    if e.2.st == .ended then none
    else match s.xlateNow p e.2.ctx (BitVec.ofNat 64 (Desc.done e.2.d)) { wr := true } with
      | .ok q => if q.pol == 2 then none else some (q.key / 4)
      | .error _ => none)

/-- The lines of way units that become unassigned leave them, dirty host lines to the host (05 R125, R137). -/
def State.emptyUnits (s : State) (units : List Nat) : State :=
  (s.ways.keysOf units.contains).foldl (fun t l =>
    if 2 ^ 66 ≤ l then { t with ways := t.ways.erase l } else t.replaceLine l) s

/-- A partition's reset ends its grids ABORTED. A completion word that a write-block holds is not written (04 R118), and
one whose word is poisoned is not either (14 R375). (DEDUCED, notes/assumptions/44.md.) -/
def State.abortAll (s : State) (p : Nat) : State :=
  ((s.doneWords p).filter (fun w => s.regOf w == .p)).foldl State.poisonWord (s.endGrids p stAborted (fun _ => true))

/-- The forwards of a partition's lines are answered, and its walks are gone, so that nothing holds a completion word
back but a write-block (14 R375). -/
def State.clearWay (s : State) (p : Nat) : State :=
  let s1 := (s.forwards.keys.filter (fun l => s.partOfLine l == some p)).foldl State.settleForward s
  { s1 with walks := s1.walks.filter (fun (e : Nat × Walk) => e.2.part != p) }

/-- The cores of a partition, with nothing of its work: scratchpads, weight buffers, bindings and tiles. -/
def State.clearCores (s : State) (p n : Nat) : State :=
  (List.range (8 * n)).foldl (fun (t : State) i =>
    let u := t.clearLeft (8 * p + i)
    { u with cores := u.cores.erase (8 * p + i) }) s

/-- PARTITION RESET (14 R375; 05 R145): its grids end ABORTED, its owners are lost, its threads are idle, and its
registers take their reset values. (DEDUCED, notes/assumptions/72.md.) -/
def State.resetPart (s : State) (p : Nat) : State :=
  match s.parts.find p with
  | none => s
  | some q =>
    let s1 := (s.clearWay p).abortAll p
    let s2 := s1.idleThreads (fun a => a.part == p)
    let s3 := ((s2.ownersOf p).foldl (fun t o => t.loseOwnerOf p o) s2).emptyUnits q.cacheUnits
    let s4 := { s3 with
      tlb := s3.tlb.filter (fun (e : Nat × TlbEntry) => e.2.part != p),
      walks := s3.walks.filter (fun (e : Nat × Walk) => e.2.part != p),
      walkCache := s3.walkCache.filter (fun (e : Nat × WalkEntry) => e.2.part != p),
      regReqs := s3.regReqs.filter (fun (e : Nat × RegReq) => e.2.part != p),
      releases := s3.releases.filter (fun (e : Nat × Release) => e.2.part != p),
      counts := s3.counts.filter (fun c => c.part != p),
      clean := s3.clean.filter (fun (e : Nat × CleanLine) => e.2.part != p),
      ops := s3.ops.filter (fun (e : Nat × PkgOp) => match e.2 with
        | .tlbinv pt _ _ _ _ _ => pt != p) }
    let s5 := (grantUnits (q.reg 0x08).toNat).foldl State.clearUnit ((s4.clearCores p q.slices).resetThreads p q.slices)
    { s5 with parts := s5.parts.set p { newPart ⟨p, q.logn, true, q.cegrp, q.rate, q.burst, q.fport⟩ with
        serial := 0, touched := false } }

end Sys2Proof.Machine
end

