-- ==== Sys2Proof/Machine/Place.lean ====
section
/-! DEFINITION. Placement: what a core admits, where clusters go, and their start (13 R329, R332 to R336; 12 R295,
R297; 09 R224, R248). -/

namespace Sys2Proof.Machine

/-- What a cluster asks of a core (13 R332). -/
structure Demand where
  part : Nat
  ctx : Nat
  frames : Nat
  pairs : Nat
  regE : Nat
  scratch : Nat
  acc : Nat

def Desc.demand (d : Desc) (p ctx : Nat) : Demand := ⟨p, ctx, d.frames, d.pairs, d.e, d.scratch, d.acc⟩

/-- The clusters resident on a core. -/
def State.onCore (s : State) (core : Nat) : List Cluster := (s.clusters.pick (fun _ c => c.core == core)).map (·.2)

/-- Free frames and free slot pairs of a core. -/
def State.freeFrames (s : State) (core : Nat) : List Nat :=
  (List.range 16).filter (fun f => !(s.onCore core).any (fun c => c.frames.contains f))
def State.freePairs (s : State) (core : Nat) : List Nat :=
  (List.range 16).filter (fun g => !(s.onCore core).any (fun c => c.slots.contains (2 * g)))

/-- The contexts with clusters on a core, with one more. -/
def contextsWith (cs : List Cluster) (d : Demand) : List (Nat × Nat) :=
  (((d.part, d.ctx) :: (cs.filter (fun c => !c.ended)).map (fun c => (c.part, c.ctx)))).eraseDups

/-- The conditions of 13 R332 that concern amounts. -/
def fitsWith (cs : List Cluster) (d : Demand) : Bool :=
  (contextsWith cs d).length ≤ 2
    && cs.foldl (fun n c => n + c.slots.length / 2 * c.regE) 0 + d.pairs * d.regE ≤ 1024
    && cs.foldl (fun n c => n + c.scratch) 0 + d.scratch ≤ 2 ^ 22
    && (d.acc == 0 || !cs.any (fun c => c.part == d.part && c.ctx == d.ctx && c.acc != 0))

/-- A core admits a cluster (13 R332). -/
def State.admits (s : State) (core : Nat) (d : Demand) : Bool :=
  !(s.part d.part).deadSlices.contains (core / 8) && fitsWith (s.onCore core) d && d.frames ≤ (s.freeFrames core).length && d.pairs ≤ (s.freePairs core).length

/-- The position a context takes on a core: its own, a free one, or that of a context with no cluster there
(12 R295). (DESIGN CHOICE, notes/assumptions/48.md.) -/
def State.position (s : State) (core p ctx : Nat) : Nat :=
  let c := s.coreOf core
  let busy (i : Nat) : Bool := match (c.ctxs.getD i none) with
    | some (q, x) => (s.onCore core).any (fun k => k.part == q && k.ctx == x && !k.ended)
    | none => false
  if c.ctxs.getD 0 none == some (p, ctx) then 0
  else if c.ctxs.getD 1 none == some (p, ctx) then 1
  else if c.ctxs.getD 0 none == none then 0
  else if c.ctxs.getD 1 none == none then 1
  else if busy 0 then 1 else 0

/-- A context bound to a position of a core; one that was not there finds no panel (12 R299). -/
def State.bindContext (s : State) (core p ctx : Nat) : State × Nat :=
  let i := s.position core p ctx
  if (s.coreOf core).ctxs.getD i none == some (p, ctx) then (s, i)
  else (s.updCore core (fun c => { (c.clearHalf i) with ctxs := c.ctxs.set i (some (p, ctx)) }), i)

/-- A cluster admitted to a core takes its lowest frames and slot pairs (13 R333).
(DESIGN CHOICE, notes/assumptions/48.md.) -/
def State.admitCluster (s : State) (core p k index : Nat) (group : Option Nat) (g : Grid) : State :=
  let d := g.d
  let r := s.bindContext core p g.ctx
  let fs := (s.freeFrames core).take (Desc.frames d)
  let slots := ((s.freePairs core).take (Desc.pairs d)).flatMap (fun i => [2 * i, 2 * i + 1])
  { r.1 with
    nextId := r.1.nextId + 1,
    clusters := r.1.clusters.set r.1.nextId
      { part := p, ctx := g.ctx, grid := k, index := index, core := core, group := group, ctxPos := r.2, frames := fs,
        slots := slots, warps := Desc.warps d, width := Desc.width d, regB := Desc.b d, regE := Desc.e d,
        scratch := Desc.scratch d, acc := Desc.acc d } }

/-- The core of a slice that admits a cluster and has the most free frames, the lowest on a tie (13 R335). -/
def State.bestCore (s : State) (slice : Nat) (d : Demand) : Option Nat :=
  ((List.range 8).map (8 * slice + ·)).foldl (fun m c =>
    if !s.admits c d then m
    else match m with
      | some b => if (s.freeFrames b).length < (s.freeFrames c).length then some c else some b
      | none => some c) none

/-- The slices of a partition in the order a unit is offered to them (13 R335). -/
def offerOrder (p n k : Nat) : List Nat := (List.range n).map (fun i => p + (k + i) % n)

/-- A grid's unit offered: a cluster, or a section group of eight; none where no core admits it (13 R335). -/
def State.offer (s : State) (p k u : Nat) (g : Grid) : Option State :=
  let d := Desc.demand g.d p g.ctx
  let n := (s.part p).slices
  if Desc.sect g.d then
    (offerOrder p n u).findSome? (fun sl =>
      if (List.range 8).all (fun c => s.admits (8 * sl + c) d) then
        some ((List.range 8).foldl (fun t c => t.admitCluster (8 * sl + c) p k (8 * u + c) (some u) g) s)
      else none)
  else (offerOrder p n u).findSome? (fun sl => (s.bestCore sl d).map (fun c => s.admitCluster c p k u none g))

/-- Units of a grid: its clusters, or its section groups. -/
def Grid.units (g : Grid) : Nat := if Desc.sect g.d then Desc.ncl g.d / 8 else Desc.ncl g.d

/-- A grid whose clusters are offered: it has not ended, is not set aside, and the knell has not taken it. -/
def Grid.offered (g : Grid) : Bool :=
  g.st != .ended && g.ending.isNone && g.halted == .none && g.fate != .checkpoint && g.fate != .discard

/-- The next unit the placer offers: gated units in the order of their chimes, then grids in launch order
(13 R335, R336). -/
def Part.nextUnit (q : Part) : Option (Nat × Nat × Bool) :=
  match q.gateReady.find? (fun e => (q.grids.find e.1).any Grid.offered) with
  | some e => some (e.1, e.2, true)
  | none =>
    ((q.grids.pick (fun _ g => g.offered && !Desc.gate g.d && decide (g.placed < g.units))).foldl
      (fun (m : Option (Nat × Grid)) (e : Nat × Grid) => match m with
        | some b => if e.2.order < b.2.order then some e else some b
        | none => some e) none).map (fun e => (e.1, e.2.placed, false))

/-- The unit at the head of the placer: one offered and held back keeps its place, while its grid is offered and, where
it is gated, its chimes stand (13 R335, R336). -/
def Part.toOffer (q : Part) : Option (Nat × Nat × Bool) :=
  match q.offering with
  | some (k, u, gated) =>
    if (q.grids.find k).any (fun g => g.offered && (gated || g.placed == u)) && (!gated || q.gateReady.contains (k, u)) then
      some (k, u, gated)
    else q.nextUnit
  | none => q.nextUnit

/-- CLUSTER_ADMISSION: the unit at the head of the placer, where a core admits it; else it holds back every later one
(13 R335). -/
def State.admitNext (s : State) (p : Nat) : State :=
  let q := s.part p
  if q.stop.isSome then s
  else match q.toOffer with
    | none => s
    | some (k, u, gated) =>
      match q.grids.find k with
      | none => s
      | some g =>
        match s.offer p k u g with
        | none => s.updPart p (fun q => { q with offering := some (k, u, gated) })
        | some t => t.updPart p (fun q => { q with
            offering := none,
            gateReady := if gated then q.gateReady.filter (· != (k, u)) else q.gateReady,
            grids := q.grids.set k { g with placed := g.placed + 1 } })

/-! ### Start (13 R329, R333, R334; 09 R224, R248; 12 R297) -/

/-- A warp of a cluster as it starts (13 R333). -/
def startedWarp (g : Grid) (c : Cluster) (key i mode tick : Nat) : Agent :=
  let per := 64 / c.width
  let slot := c.slots.getD i 0
  let base := i % per * c.width
  let seed : DWord := BitVec.ofNat 64 (if bitN (Desc.repro g.d) 2 then Desc.seed g.d else g.launchTick)
  { kind := .warp c.core slot, level := .user, width := c.width, frame := c.frames.getD (i / per) 0, base := base,
    part := c.part, ctx := c.ctx, grid := c.grid, cluster := key, launchIx := i, pairGroup := slot / 2, regB := c.regB,
    regE := c.regE, codeBase := BitVec.ofNat 64 (Desc.code g.d),
    threads := (List.range c.width).map (fun l => { pos := base + l, pc := BitVec.ofNat 64 (Desc.code g.d) }),
    rngKey := genH seed (BitVec.ofNat 64 (2 ^ 63 + 32 * c.index + i)), repro := BitVec.ofNat 32 (Desc.repro g.d),
    racemode := BitVec.ofNat 32 mode, readySince := tick, lastIssue := tick }

/-- The register rows of a cluster's frames and of its pair groups at 0, v0:1 holding the argument block
(09 R224). -/
def State.startRows (s : State) (c : Cluster) (arg : DWord) (ws : List Agent) : State :=
  let mine (k : Nat) : Bool :=
    let i := rowIx k
    if rowTag k == 0 then i / 2 ^ 18 == c.core && c.frames.contains (i / 2 ^ 14 % 16)
    else rowTag k == 1 && i / 2 ^ 17 == c.core && c.slots.contains (2 * (i / 2 ^ 13 % 16))
  let s1 := s.clearRows mine
  { s1 with rf := ws.foldl (fun m a => (List.range a.width).foldl (fun m l =>
      (SMap.put 0 m (rowKey a (a.base + l) 0) (lo32 arg)).put 0 (rowKey a (a.base + l) 1) (hi32 arg)) m) s1.rf }

/-- The region presets of a grid replace entries of its context's table before its first cluster starts (13 R329). -/
def State.presets (s : State) (p : Nat) (g : Grid) : State :=
  s.updContext p g.ctx (fun c => { c with regions := (List.range 15).foldl (fun m i =>
    let r := tableEntry g.table (i + 1)
    if r.len == 0 then m else SMap.set m (i + 1) r) c.regions })

/-- A grid has started and its end has not been decided (13 R331; 16 R407). -/
def Grid.runs (g : Grid) : Bool := (g.st == .running || g.st == .draining) && g.ending.isNone

/-- A grid's first cluster starts: presets, the latched counters, and who it overlaps (13 R329; 16 R407). -/
def State.firstStart (s : State) (p k : Nat) (g : Grid) : State :=
  let s1 := s.presets p g
  let now := (s1.context p g.ctx).counters
  let others := (s1.part p).grids.anyV (fun x => x.ctx == g.ctx && x.order != g.order && x.runs)
  let latch := if bitN (s.preg p 0x1B8) 0 then (List.range 16).map (SMap.get 0 now) else []
  let started (x : Grid) : Bool := x.ctx == g.ctx && x.runs
  let g1 := { g with st := .running, startTick := s.tick, latch := latch, overlap := others }
  s1.updPart p (fun q =>
    let m := q.grids.mapV (fun x => if started x then { x with overlap := true } else x)
    { q with grids := m.set k g1 })

/-- The clusters that start with one: those of its section group, or it alone (01 R21). -/
def State.startsWith (s : State) (key : Nat) (c : Cluster) : List (Nat × Cluster) :=
  if c.group.isNone then [(key, c)]
  else s.clusters.pick (fun _ x => x.part == c.part && x.grid == c.grid && x.group == c.group)

/-- A gated cluster of the partition that was admitted earlier has still to start, its grid not being set aside
(13 R336). -/
def State.gatedBefore (s : State) (key : Nat) (c : Cluster) : Bool :=
  let gated (x : Cluster) : Bool := ((s.part c.part).grids.find x.grid).any (fun g => Desc.gate g.d && g.offered)
  gated c && !(s.clusters.pick (fun k x => decide (k < key) && x.part == c.part && !x.started && gated x
    && !(x.group.isSome && x.grid == c.grid && x.group == c.group))).isEmpty

/-- An admitted cluster may start (13 R333, R336; 06 R157). -/
def State.mayStart (s : State) (key : Nat) (c : Cluster) (g : Grid) : Bool :=
  !c.started && g.halted == .none && (s.part c.part).stop.isNone && !g.link.any (fun r => (s.releases.find r).isSome)
    && !s.gatedBefore key c

/-- A cluster's scratchpad is zeros (13 R334). -/
def State.clearScratch (s : State) (key : Nat) (c : Cluster) : State := (s.clearLeft c.core).dropScratch key

/-- A cluster whose scratchpad has been cleared starts: its tiles are as mzero leaves them, its core acquires, and all its
warps start (13 R333; 12 R297; 06 R157). -/
def State.startWarps (s : State) (g : Grid) (key : Nat) (c : Cluster) : State :=
  let s2 := s.flash c.core (acquireDrops c.part c.ctx 0xFFFF) true true
  let bank := if (s2.coreOf c.core).swapped then 1 - c.ctxPos else c.ctxPos
  let mine (row : Nat) : Bool := row / 256 == bank && decide (row / 64 % 4 < c.acc)
  let s3 := if c.acc == 0 then s2 else s2.updCore c.core (fun x => { x with
    acc := x.acc.drop (fun k => mine (k / 128)), fixed := x.fixed.drop mine })
  let ws := (List.range c.warps).map (fun i => startedWarp g c key i (s.preg c.part 0x0C % 4) s.tick)
  let s4 := s3.startRows c g.argBlock ws
  { s4 with clusters := s4.clusters.set key { c with started := true },
            others := ws.foldl (fun m a => SMap.set m a.id a) s4.others }

/-- CLUSTER_START: a cluster starts, or the eight of a section group together, once the scratchpad of each is zeros
(01 R21; 13 R333, R334). -/
def State.startCluster (s : State) (key : Nat) : State :=
  match s.clusters.find key with
  | none => s
  | some c =>
    match (s.part c.part).grids.find c.grid with
    | none => s
    | some g =>
      if !s.mayStart key c g then s
      else
        let cs := s.startsWith key c
        let s1 := if g.st == .waiting then s.firstStart c.part c.grid g else s
        let s2 := cs.foldl (fun (t : State) (e : Nat × Cluster) => t.clearScratch e.1 e.2) s1
        cs.foldl (fun (t : State) (e : Nat × Cluster) => t.startWarps g e.1 e.2) s2

/-! ### Chime gating (08 R217; 13 R336) -/

/-- The address of a gated cluster's chime (08 R217). -/
def Grid.chimeAt (g : Grid) (c : Nat) : DWord := BitVec.ofNat 64 (Desc.chime g.d + 4 * c)

/-- The unit of a gated cluster: itself, or its section group (13 R336). -/
def Grid.unitOf (g : Grid) (c : Nat) : Nat := if Desc.sect g.d then c / 8 else c

/-- A gated cluster's chime stands at 1 or more. -/
def State.chimeUp (s : State) (p : Nat) (g : Grid) (c : Nat) : Bool :=
  match s.xlateNow p g.ctx (g.chimeAt c) { rd := true } with
  | .ok q => if q.pol == 2 then s.memWord (q.key / 4) != 0 else s.regOf (q.key / 4) != .p && s.current (q.key / 4) != 0
  | .error _ => false

/-- A cluster of a grid has been placed. -/
def State.wasPlaced (s : State) (p k : Nat) (g : Grid) (c : Nat) : Bool :=
  g.retired.contains c || s.clusters.anyV (fun x => x.part == p && x.grid == k && x.index == c)

/-- Clusters of a gated grid that wait to be placed. -/
def State.gated (s : State) (p k : Nat) (g : Grid) : List Nat :=
  if Desc.gate g.d && g.st != .ended && g.ending.isNone then
    (List.range (Desc.ncl g.d)).filter (fun c => !s.wasPlaced p k g c)
  else []

/-- The chimes of a grid's clusters that wait, as they stand: those newly set come after the others, and one that has
been cleared waits anew (13 R336). -/
def State.watchChimes (s : State) (p k : Nat) (g : Grid) : State :=
  match s.gated p k g with
  | [] => s
  | cs =>
    let up := cs.filter (s.chimeUp p g)
    let down (c : Nat) : Bool := cs.contains c && !up.contains c
    s.updPart p (fun q => { q with
      chimesUp := q.chimesUp.filter (fun e => e.1 != k || up.contains e.2)
        ++ (up.filter (fun c => !q.chimesUp.contains (k, c))).map (fun c => (k, c)),
      gateReady := q.gateReady.filter (fun e => e.1 != k || !cs.any (fun c => down c && g.unitOf c == e.2)),
      grids := q.grids.set k { g with chimed := g.chimed.filter (fun c => !down c) } })

/-- Some cluster's chime of the partition was set before this one's, and has still to be read. -/
def Part.chimedBefore (q : Part) (k c : Nat) : Bool :=
  (q.chimesUp.takeWhile (· != (k, c))).any (fun e => q.chimesUp.contains (k, c)
    && (q.grids.find e.1).any (fun g => g.offered && g.fault.isNone && !g.chimed.contains e.2))

/-- GATED_CHIME_WAIT: the scheduler reads a gated cluster's chime, in the order in which the chimes were set; at 1 or
more its unit is to be offered next, once its whole section group's are (08 R217; 13 R336). A read that faults is charged
late to the grid. -/
def State.gatedChime (s : State) (p k c : Nat) : State :=
  match (s.part p).grids.find k with
  | none => s
  | some g =>
    if !Desc.gate g.d || g.chimed.contains c || Desc.ncl g.d ≤ c || !g.offered || g.fault.isSome
        || (s.part p).chimedBefore k c then s
    else s.walked p g.ctx [(g.chimeAt c).toNat] fun s =>
      let va : DWord := g.chimeAt c
      let bad (code detail : Nat) : State :=
        s.lateFault p k g.ctx noAgent code detail (BitVec.ofNat 64 (Desc.code g.d)) va (.walker p 0)
      match s.xlateNow p g.ctx va { rd := true } with
      | .error e => bad e.code e.detail
      | .ok q =>
        let w := q.key / 4
        if s.regOf w == .p then bad fcPoison 0
        else if s.lineHeld w then s
        else
          let t := s.touchHost w
          let r := if q.pol == 2 then (t, t.memWord w) else
            (((t.countDue (countOn p g.ctx va.toNat q.leaf) (lineOf w)).countMiss p g.ctx (lineOf w)).fillWay (lineOf w)).takeAt 0x3FF w 0 { part := p, ctx := g.ctx, grid := 0, agent := noAgent, issuer := 0, mode := 0, pc := 0 }
          if r.2 == 0 then r.1
          else
            let done := c :: g.chimed
            let unit := g.unitOf c
            let full := !Desc.sect g.d || (List.range 8).all (fun i => done.contains (8 * unit + i))
            r.1.updPart p (fun x => { x with
              grids := x.grids.set k { g with chimed := done },
              gateReady := if full then x.gateReady ++ [(k, unit)] else x.gateReady })

end Sys2Proof.Machine
end

