-- ==== Sys2Proof/Machine/Halt.lean ====
section
/-! DEFINITION. Work set aside and resumed: halts, slices and quiescence (14 R362 to R365; 15 R394, R398), context
images (14 R366) and the knell (14 R367 to R372). -/

namespace Sys2Proof.Machine

/-! ### Halt and resume (14 R364) -/

/-- Next word of an agent's lowest thread that has not exited (14 R354). -/
def Agent.nextPc (a : Agent) : DWord := ((a.threads.find? Thread.live).map (·.pc)).getD 0

/-- The engine of an agent in stop records. -/
def Agent.engine (a : Agent) : EngineId :=
  match a.kind with
  | .warp c sl => .warp c sl
  | .conductor t => .conductor t
  | .management => .walker 0 0

/-- A stop record with the skid it took (14 R354). (DEDUCED, notes/assumptions/46.md.) -/
def State.recordStop (s : State) (p : Nat) (e : EngineId) (pc addr : DWord) (num info : Word) (grid ctx reason replays : Nat) :
    State :=
  (s.stopRecord p e s.tick pc addr num info grid ctx reason
    (if info == 0 then (Config.skid s.free).toNat else 0) replays).takeFree

/-- Agents that a test picks stop with a reason: each writes its record, under a stop number (14 R352, R354, R364). -/
def State.stopAgents (s : State) (p reason : Nat) (num : Word) (mark : HaltMark) (f : Agent → Bool) : State :=
  (s.agents.filter f).foldl (fun t a =>
    (t.recordStop p a.engine a.nextPc 0 num 0 a.grid a.ctx reason 0).updAgent a.id (fun x => { x with
      halted := mark, heldSince := some (x.heldSince.getD s.tick) })) s

/-- What an engine was doing as it stops: its next word, its grid, its context, and its replay entries (14 R354). -/
structure StopView where
  pc : DWord := 0
  grid : Nat := 0
  ctx : Nat := 0xFF
  replays : Nat := 0

/-- The loader's commands of a core, in order. -/
def State.loaderCmds (s : State) (core : Nat) : List Command := (s.coreOf core).loader.filterMap s.cmds.find

/-- What the matrix unit and the weight loader of a core work on for agents and commands that tests pick: a running mma
of theirs, else the first of the loader's commands; `n` counts a command's replay entries. -/
def State.matrixView (s : State) (core : Nat) (f : Agent → Bool) (h : Command → Bool) (n : Command → Nat) : Option StopView :=
  let cs := (s.loaderCmds core).filter h
  let replays := (cs.map n).sum
  match ((s.coreOf core).mma.filterMap (fun m => s.agent m.agent)).filter f, cs with
  | a :: _, _ => some { grid := a.grid, ctx := a.ctx, replays := replays }
  | [], c :: _ => some { grid := c.grid, ctx := c.ctx, replays := replays }
  | [], [] => none

/-- The walk that a walker of a partition runs, where an agent that a test picks waits for it. -/
def State.walkerView (s : State) (p w : Nat) (f : Agent → Bool) : Option StopView :=
  match ((s.walking p)[w]?).bind s.walks.find with
  | some k => ((k.agents.filterMap s.agent).find? f).map (fun a => { grid := a.grid, ctx := k.ctx })
  | none => none

/-- The engines other than agents that work for agents and commands that tests pick, each with what it was doing: copy
engines, matrix units with their weight loaders, and walkers (14 R352). -/
def State.unitViews (s : State) (p : Nat) (f : Agent → Bool) (h : Command → Bool) : List (EngineId × StopView) :=
  let n := 8 * (s.part p).slices
  (s.cmds.filterMap (fun (e : Nat × Command) => if e.2.part == p && e.2.port.isNone && h e.2 then
      e.2.running.map (fun k => (EngineId.copy k, ({ grid := e.2.grid, ctx := e.2.ctx, replays := 1 } : StopView))) else none))
    ++ (List.range n).filterMap (fun i => (s.matrixView (8 * p + i) f (fun c => c.part == p && h c && !c.stopped)
        (fun _ => 1)).map (fun v => (EngineId.matrix (8 * p + i), v)))
    ++ (List.range n).filterMap (fun w => (s.walkerView p w f).map (fun v => (EngineId.walker p w, v)))

/-- A core's matrix unit runs an mma of an agent that a test picks, which it ends before it stops (14 R352). -/
def State.mmaOf (s : State) (core : Nat) (f : Agent → Bool) : Bool := (s.coreOf core).mma.any (fun m => (s.agent m.agent).any f)

/-- An engine other than an agent stops: it writes its record, a matrix unit at the end of its mma (14 R352, R354). -/
def State.unitStops (s : State) (p reason : Nat) (num : Word) (f : Agent → Bool) (e : EngineId) (v : StopView) : State :=
  match e with
  | .matrix c =>
    if s.mmaOf c f then s.updCore c (fun k => { k with dues := k.dues ++ [⟨p, num, v.grid, v.ctx, reason, v.replays⟩] })
    else s.recordStop p e 0 0 num 0 v.grid v.ctx reason v.replays
  | _ => s.recordStop p e 0 0 num 0 v.grid v.ctx reason v.replays

/-- The other engines of work that stops write their records, and its commands stop at their beat and become replay
entries held inside the Q9 (08 R222; 14 R352, R354, R363); with how many engines stopped. -/
def State.stopUnits (s : State) (p reason : Nat) (num : Word) (f : Agent → Bool) (h : Command → Bool) : State × Nat :=
  let vs := s.unitViews p f h
  let s1 := vs.foldl (fun (t : State) (e : EngineId × StopView) => t.unitStops p reason num f e.1 e.2) s
  ({ s1 with cmds := s1.cmds.mapV (fun c =>
      if c.part == p && c.port.isNone && h c then { c with running := none, replay := true, stopped := true } else c) }, vs.length)

/-- A context has set-aside work that is to be quiesced (14 R362). -/
def State.quiesce (s : State) (p ctx : Nat) : State := s.updContext p ctx (fun c => { c with quiescing := true })

/-- A matrix unit has still to write its record of a stop. -/
def State.owes (s : State) (p : Nat) (num : Word) : Bool := s.cores.anyV (fun c => c.dues.any (fun d => d.part == p && d.num == num))

/-- The summary of a stop, as soon as every one of its engines has stopped (14 R355, R364). -/
def State.sumUp (s : State) (p : Nat) (r : RollDue) : State :=
  if s.owes p r.num then s.updPart p (fun q => { q with rolls := q.rolls ++ [r] })
  else s.summary p 0 0 0 r.num 0 r.ctx r.reason r.acks

/-- An mma that a stopped matrix unit ends still runs. -/
def State.dueRuns (s : State) (core : Nat) (d : StopDue) : Bool :=
  s.mmaOf core (fun a => a.part == d.part && a.ctx == d.ctx && a.halted != .none)

/-- Matrix units whose mma has ended write the records that they owe, and then the summaries that waited for them are
written (14 R352, R354, R355). -/
def State.settleDues (s : State) : State :=
  let s1 := (s.cores.pick (fun _ c => !c.dues.isEmpty)).foldl (fun (t : State) (e : Nat × Core) =>
    (e.2.dues.filter (fun d => !s.dueRuns e.1 d)).foldl (fun (t : State) d =>
      t.recordStop d.part (.matrix e.1) 0 0 d.num 0 d.grid d.ctx d.reason d.replays)
      (t.updCore e.1 (fun c => { c with dues := c.dues.filter (s.dueRuns e.1) }))) s
  (s1.parts.pick (fun _ q => !q.rolls.isEmpty)).foldl (fun (t : State) (e : Nat × Part) =>
    e.2.rolls.foldl (fun (t : State) r => t.sumUp e.1 r) (t.updPart e.1 (fun q => { q with rolls := [] }))) s1

/-- Work set aside under a mark: its engines stop and write records, then the summary (14 R364). -/
def State.setAside (s : State) (p reason ctx : Nat) (mark : HaltMark) (f : Agent → Bool) (h : Command → Bool) : State :=
  let (s1, num) := s.nextStop p
  let live (a : Agent) : Bool := a.part == p && f a && (a.isWarp || a.runs)
  let n := (s1.agents.filter live).length
  let r := s1.stopUnits p reason num live h
  ((r.1.stopAgents p reason num mark live).sumUp p ⟨num, ctx, reason, n + r.2⟩).quiesce p ctx

/-- A park that a resume keeps: the pair lock's queue, and an operation in flight; any other parked word executes
again (14 R352). -/
def Park.kept (p : Park) : Bool :=
  match p.wait with
  | .lock | .op _ => true
  | _ => false

/-- An agent goes on; the time for which it was held does not count for the watchdog (14 R357). DESIGN CHOICE
(notes/assumptions/80.md): a pending warp's time as ready runs on while it is held, for R344 names no such exception. -/
def Agent.resume (a : Agent) (tick : Nat) : Agent :=
  { a with halted := .none, parks := a.parks.filter Park.kept, xfaults := [], heldSince := none,
           lastIssue := match a.heldSince with
             | some t => a.lastIssue + (tick - t)
             | none => a.lastIssue }

/-- Nothing sets a command's work aside: its grid is not halted, not charged with a fault and not taken by the hardware's
checkpoint, or the thread that issued it is not halted (14 R362, R364, R370). -/
def State.cmdFree (s : State) (c : Command) : Bool :=
  if c.grid == 0 then !(s.context c.part c.ctx).halted && (s.agent c.agent).all (fun a => a.halted == .none)
  else ((s.part c.part).grids.find c.grid).all (fun g =>
    g.halted == .none && g.fault.isNone && !(g.fate == .checkpoint && g.hwRoute))

/-- Work resumed: its agents issue again, and its replay entries, which nothing else sets aside, dispatch first
(14 R364; 08 R222). -/
def State.takeUp (s : State) (p : Nat) (f : Agent → Bool) (h : Command → Bool) : State :=
  let r (a : Agent) : Agent := if a.part == p && f a then a.resume s.tick else a
  let t := { s with me := r s.me, others := s.others.mapV r }
  { t with cmds := s.cmds.mapV (fun c => if c.part == p && h c && t.cmdFree c then { c with stopped := false } else c) }

/-- Agents and commands of a context's work: its warps and its user threads. -/
def inContext (ctx : Nat) (a : Agent) : Bool := a.ctx == ctx && (a.isWarp || a.userThread)

/-- The grids of a partition changed where a test holds. -/
def State.mapGrids (s : State) (p : Nat) (f : Grid → Grid) : State :=
  s.updPart p (fun q => { q with grids := q.grids.mapV f })

def Grid.live (g : Grid) : Bool := g.st != .ended && g.ending.isNone

/-- A context has a grid that has not ended, or a started thread (14 R366; 15 R394). DESIGN CHOICE
(notes/assumptions/49.md): a context whose grids have all ended has no grid for ctxsv, as CCSTAT.LIVE says. -/
def State.contextLive (s : State) (p ctx : Nat) : Bool :=
  (s.part p).grids.anyV (fun g => g.ctx == ctx && g.st != .ended)
    || s.agents.any (fun a => a.part == p && a.ctx == ctx && a.runs)

/-- Agents that a mark may be put on: a time slice yields to every other stop, and a halt to a knell's (14 R373). -/
def Agent.takes (a : Agent) (mark : HaltMark) : Bool := if mark == .slice then a.halted == .none else a.halted != .knell

/-- halt of a context: its status (14 R364). -/
def State.haltCtx (s : State) (p ctx reason : Nat) (mark : HaltMark) : State × Nat :=
  match (s.part p).contexts.find ctx with
  | none => (s, 1)
  | some c =>
    if c.halted && mark == .halt then (s, 2)
    else
      let s1 := s.setAside p reason ctx mark (fun a => inContext ctx a && a.takes mark) (fun c => c.ctx == ctx)
      let s2 := s1.mapGrids p (fun g =>
        if g.ctx == ctx && g.live && (mark == .halt || g.halted == .none) then { g with halted := mark } else g)
      (if mark == .halt then s2.updContext p ctx (fun c => { c with halted := true }) else s2, 0)

/-- What a knell stops and nothing else holds: user threads, and warps and commands of grids that the hardware saves. Each
writes its record under the knell's number (14 R352, R367, R370, R373). -/
def State.knellStops (s : State) (p : Nat) : State :=
  match (s.part p).knell with
  | none => s
  | some k =>
    if !k.begun then s
    else
      let saved (h : Nat) : Bool := ((s.part p).grids.find h).any (fun g => g.live && g.fate == .checkpoint && g.hwRoute)
      let f (a : Agent) : Bool := a.part == p && (a.halted == .none || a.halted == .slice)
        && ((a.runs && a.userThread) || (a.isWarp && saved a.grid))
      let user (c : Command) : Bool := c.grid == 0 && (s.agent c.agent).any Agent.userThread
      let r := s.stopUnits p 3 k.num f (fun c => (saved c.grid || user c) && !c.stopped)
      (s.agents.filter f).foldl (fun (t : State) a => t.quiesce p a.ctx) (r.1.stopAgents p 3 k.num .knell f)

/-- resume of a context: its status (14 R364). -/
def State.resumeCtx (s : State) (p ctx : Nat) : State × Nat :=
  match (s.part p).contexts.find ctx with
  | none => (s, 1)
  | some c =>
    if !c.halted && !(s.part p).grids.anyV (fun g => g.ctx == ctx && g.halted == .halt) then (s, 2)
    else
      let s1 := (s.mapGrids p (fun g => if g.ctx == ctx then { g with halted := .none } else g)).updContext p ctx
        (fun c => { c with halted := false })
      let s2 := s1.takeUp p (fun a => inContext ctx a && a.halted != .knell && a.halted != .stop) (fun c => c.ctx == ctx)
      (s2.knellStops p, 0)

/-- halt and resume of a grid by its handle (14 R364). -/
def State.haltGrid (s : State) (p k : Nat) : State × Nat :=
  match (s.part p).grids.find k with
  | none => (s, 1)
  | some g =>
    if !g.live then (s, 1)
    else if g.halted == .halt then (s, 2)
    else
      let s1 := s.setAside p 4 g.ctx .halt (fun a => a.isWarp && a.grid == k && a.takes .halt) (fun c => c.grid == k)
      (s1.setGrid p k { g with halted := .halt }, 0)

def State.resumeGrid (s : State) (p k : Nat) : State × Nat :=
  match (s.part p).grids.find k with
  | none => (s, 1)
  | some g =>
    if !g.live then (s, 1)
    else if g.halted != .halt then (s, 2)
    else
      let s1 := s.setGrid p k { g with halted := .none }
      let s2 := s1.takeUp p (fun a => a.isWarp && a.grid == k && a.halted != .stop && a.halted != .knell) (fun c => c.grid == k)
      (s2.knellStops p, 0)

/-- Abort of a context: every grid ends ABORTED and its user threads become idle (15 R394). -/
def State.abortCtx (s : State) (p ctx : Nat) : State :=
  (s.endGrids p stAborted (fun g => g.ctx == ctx)).idleThreads (fun a => a.part == p && a.ctx == ctx && a.userThread)

/-! ### Quiescence (14 R362) -/

/-- Nothing of a context's set-aside work is in flight: accesses, registrations, and beats (14 R362). -/
def State.quiet (s : State) (p ctx : Nat) : Bool :=
  !s.accesses.anyV (fun a => a.part == p && a.ctx == ctx && (match s.agent a.agent with
      | some x => x.halted != .none
      | none => true))
    && !s.cmds.anyV (fun c => c.part == p && c.ctx == ctx && c.stopped && c.running.isSome)
    && !s.cores.anyV (fun c => c.mma.any (fun m =>
      (s.agent m.agent).any (fun a => a.part == p && a.ctx == ctx && a.halted != .none)))

/-- Its sections are pushed (14 R362, step 5). -/
def State.pushWork (s : State) (p : Nat) : State := s.flushSections p

/-! ### Slices (14 R365) -/

/-- The contexts of a partition that have work and that no supervisor has halted. -/
def State.slicing (s : State) (p : Nat) : List Nat :=
  ((s.part p).contexts.map (·.1)).filter (fun c => s.contextLive p c && !(s.context p c).halted
    && (s.clusters.anyV (fun k => k.part == p && k.ctx == c && !k.ended)))

/-- SLICE_EXPIRY: the running context is set aside with reason 2 and the other resumes (14 R365). -/
def State.sliceExpiry (s : State) (p : Nat) : State :=
  let q := s.part p
  let len := (q.reg 0x1D).toNat % 2 ^ 32
  let cs := s.slicing p
  if q.stop.isSome then s
  else if len == 0 || cs.length < 2 then
    -- both contexts issue together
    let s1 := s.mapGrids p (fun g => if g.halted == .slice then { g with halted := .none } else g)
    s1.takeUp p (fun a => a.halted == .slice) (·.stopped)
  else if s.tick < q.sliceStart + 1000 * len && cs.contains q.sliceCtx then s
  else
    let next := (cs.find? (fun c => q.sliceCtx < c)).getD (cs.headD 0)
    let s1 := (cs.filter (· != next)).foldl (fun t c =>
      if (t.part p).grids.anyV (fun g => g.ctx == c && g.live && g.halted == .none) then (t.haltCtx p c 2 .slice).1 else t) s
    let s2 := s1.mapGrids p (fun g => if g.ctx == next && g.halted == .slice then { g with halted := .none } else g)
    let s3 := s2.takeUp p (fun a => a.ctx == next && a.halted == .slice) (fun c => c.ctx == next && c.stopped)
    s3.updPart p (fun q => { q with sliceCtx := next, sliceStart := s.tick })

end Sys2Proof.Machine
end

