-- ==== Sys2Proof/Machine/Image.lean ====
section
/-! DEFINITION. Context images: what ctxsv and the knell's hardware route save, and what ctxrs restores (14 R366, R370;
15 R397). -/

namespace Sys2Proof.Config
open Sys2Proof.Machine

/-- What an image of another package holds, by its words after the header: a free value, for an image's body is not
architectural; none where another part revision wrote it (14 R366; 15 R400). (DESIGN CHOICE, notes/assumptions/10.md;
DESIGN CHOICE, notes/assumptions/49.md.) -/
opaque foreignImage : List Word → Option Image

end Sys2Proof.Config

namespace Sys2Proof.Machine

/-! ### What belongs to a context -/

/-- The agents of a context: the warps of the grids saved, and its user threads that run. -/
def State.imageAgents (s : State) (p ctx : Nat) (f : Nat → Bool) : List Agent :=
  s.agents.filter (fun a => a.part == p && a.ctx == ctx && ((a.isWarp && f a.grid) || (a.runs && a.userThread)))

/-- The row of an agent that a key names: its frame positions, its pair group's rows, its thread's registers. -/
def ownsRow (a : Agent) (k : Nat) : Bool :=
  match a.kind with
  | .warp c _ =>
    let i := rowIx k
    if rowTag k == 0 then
      i / 2 ^ 14 == c * 16 + a.frame && decide (a.base ≤ i / 256 % 64) && decide (i / 256 % 64 < a.base + a.width)
    else rowTag k == 1 && i / 2 ^ 13 == c * 16 + a.pairGroup
  | .conductor t => rowTag k == 2 && rowIx k / 256 == t
  | .management => false

/-- The cores where a context holds a position, with that position. -/
def State.coresOf (s : State) (p ctx : Nat) : List (Nat × Nat) :=
  s.cores.flatMap (fun (e : Nat × Core) =>
    if e.2.ctxs.getD 0 none == some (p, ctx) then [(e.1, 0)]
    else if e.2.ctxs.getD 1 none == some (p, ctx) then [(e.1, 1)] else [])

/-- The bank of a position of a core (12 R295, R320). -/
def Core.bank (c : Core) (pos : Nat) : Nat := if c.swapped then 1 - pos else pos

/-- A core's entries of one bank or half, keyed by relative core. -/
def pickPart {α : Type} (m : SMap α) (size sel rel : Nat) : SMap α :=
  (m.filter (fun e => e.1 / size == sel)).map (fun e => (rel * 2 ^ 20 + e.1 % size, e.2))

/-- The saved entries of a relative core put at a bank or half. -/
def putPart {α : Type} (m saved : SMap α) (size sel rel : Nat) : SMap α :=
  (saved.filter (fun e => e.1 / 2 ^ 20 == rel)).foldl (fun m e => SMap.set m (sel * size + e.1 % 2 ^ 20) e.2) m

/-! ### Saving (14 R366, R370) -/

/-- A saved agent: nothing of it waits; what was parked executes again. -/
def Agent.saved (a : Agent) : Agent := { a with parks := [], halted := .halt, xfaults := [], cache := [], fetched := [] }

/-- The KiB an image needs, a free value (14 R366). -/
def State.imageKib (s : State) : Nat := max 1 (Config.imageSize s.free).toNat

/-- An image's words: the header, then a body that is not architectural (14 R366).
(DESIGN CHOICE, notes/assumptions/49.md.) -/
def State.imageWords (s : State) (kib logn ctx : Nat) : List Word :=
  let body := (List.range (256 * kib - 16)).map (Config.imageWord s.free)
  let d := (Config.sm3 body).toNat
  [0x00010009, wordN kib, wordN (logn + ctx * 2 ^ 8), 0] ++ (List.range 8).map (fun i => BitVec.ofNat 32 (d / 2 ^ (32 * i)))
    ++ [0, 0, 0, 0] ++ body

/-- What an image of a context holds: its saved grids' work, its threads and its state.
(DESIGN CHOICE, notes/assumptions/49.md.) -/
def State.capture (s : State) (p ctx : Nat) (f : Nat → Bool) (table : Bool) : Image :=
  let q := s.part p
  let ags := s.imageAgents p ctx f
  let cls := s.clusters.pick (fun _ c => c.part == p && c.ctx == ctx && f c.grid)
  let own (c : Nat) : Bool := (cls.find c).isSome
  let cores := s.coresOf p ctx
  let cat {α : Type} (g : Nat → Nat → SMap α) : SMap α := cores.flatMap (fun e => g e.1 e.2)
  { part := p, ctx := ctx, logn := q.logn, words := s.imageWords s.imageKib q.logn ctx,
    agents := ags.map Agent.saved,
    clusters := cls,
    grids := q.grids.pick (fun k g => g.ctx == ctx && (f k || (table && g.st == .ended))),
    context := s.context p ctx,
    rows := s.rf.pick (fun k _ => ags.any (ownsRow · k)),
    rowPoison := s.rfPoison.pick (fun k _ => ags.any (ownsRow · k)),
    scratch := s.scratch.pick (fun k _ => own (k / 2 ^ 22)),
    scratchPoison := s.scratchPoison.pick (fun k _ => own (k / 2 ^ 22)),
    exact := s.exact.pick (fun k _ => decide (2 ^ 70 ≤ k) && own ((k - 2 ^ 70) / 2 ^ 20)),
    gongJoins := s.gongJoins.pick (fun k _ => own (k / 2 ^ 20)),
    acc := cat (fun c i => pickPart (s.coreOf c).acc (2 ^ 15) ((s.coreOf c).bank i) (c - 8 * p)),
    fixed := cat (fun c i => pickPart (s.coreOf c).fixed (2 ^ 8) ((s.coreOf c).bank i) (c - 8 * p)),
    weights := cat (fun c i => pickPart (s.coreOf c).weights (2 ^ 18) i (c - 8 * p)),
    panels := cat (fun c i => pickPart (s.coreOf c).panels (2 ^ 10) i (c - 8 * p)),
    cmds := s.cmds.pick (fun _ c => c.part == p && c.ctx == ctx && c.port.isNone && (f c.grid || c.grid == 0)),
    loaders := cores.map (fun e => (e.1 - 8 * p, (s.coreOf e.1).loader.filter (fun i =>
      (s.cmds.find i).any (fun c => c.ctx == ctx && c.part == p)))),
    trackers := cores.map (fun e => (e.1 - 8 * p, (s.coreOf e.1).tracker.filter (fun d => d.part == p && f d.grid))),
    locks := cls.flatMap (fun (e : Nat × Cluster) => e.2.slots.filterMap (fun sl =>
      (s.locks.find (lockKey e.2.core (sl / 2))).map (fun l =>
        (lockKey (e.2.core - 8 * p) (sl / 2), { l with waiters := [] })))),
    vtick := BitVec.ofNat 64 s.tick - (s.context p ctx).toff }

/-- A context's resources are free: its warps, clusters, commands, positions and tables are gone, its threads idle. -/
def State.freeContext (s : State) (p ctx : Nat) : State :=
  let s1 := (s.cmds.keysOf (fun c => c.part == p && c.ctx == ctx && c.port.isNone)).foldl State.releaseCommand s
  let s2 := s1.idleThreads (fun a => a.part == p && a.ctx == ctx && a.userThread)
  let s3 := s2.dropAgents (fun a => a.isWarp && a.part == p && a.ctx == ctx)
  let s4 := (s3.clusters.keysOf (fun c => c.part == p && c.ctx == ctx)).foldl State.dropCluster s3
  let s5 := (s4.coresOf p ctx).foldl (fun t e => t.updCore e.1 (fun c =>
    { (c.clearHalf e.2) with ctxs := c.ctxs.set e.2 none, tracker := c.tracker.filter (fun d =>
        !(d.part == p && (s.clusters.find d.cluster).any (fun k => k.ctx == ctx))) })) s4
  s5.updPart p (fun q => { q with
    grids := q.grids.filter (fun (e : Nat × Grid) => e.2.ctx != ctx),
    gateReady := q.gateReady.filter (fun e => e.1 / 2 ^ 32 != ctx),
    contexts := q.contexts.erase ctx })

/-! ### Restoring (14 R366) -/

/-- A cluster's own place on its core is free (13 R332; 14 R366, status 4). -/
def State.admitsAt (s : State) (c : Cluster) : Bool :=
  let cs := s.onCore c.core
  fitsWith cs ⟨c.part, c.ctx, c.frames.length, c.slots.length / 2, c.regE, c.scratch, c.acc⟩
    && c.frames.all (fun f => !cs.any (fun k => k.frames.contains f))
    && c.slots.all (fun i => !cs.any (fun k => k.slots.contains i))

/-- A cluster of an image as it stands in a partition and context. -/
def moveCluster (img : Image) (p ctx : Nat) (c : Cluster) : Cluster :=
  { c with part := p, ctx := ctx, grid := gridKey ctx (c.grid % 2 ^ 32), core := c.core + 8 * p - 8 * img.part }

/-- Every cluster is admitted beside those before it. -/
def State.admitsAll (s : State) (img : Image) (p ctx : Nat) : SMap Cluster → Bool
  | [] => true
  | (k, c) :: cs =>
    let m := moveCluster img p ctx c
    s.admitsAt m && State.admitsAll { s with clusters := s.clusters.set (s.nextId + k) m } img p ctx cs

/-- An agent of an image as it stands in a partition and context; `n` is what numbers are raised by. The time for which
it was saved does not count for the watchdog (14 R357). -/
def moveAgent (img : Image) (p ctx n tick : Nat) (a : Agent) : Agent :=
  { a with
    lastIssue := tick - (a.heldSince.getD a.lastIssue - a.lastIssue), heldSince := some tick,
    kind := (match a.kind with
      | .warp c sl => .warp (c + 8 * p - 8 * img.part) sl
      | .conductor t => .conductor (t + 8 * p - 8 * img.part)
      | .management => .management),
    part := p, ctx := ctx, grid := if a.grid == 0 then 0 else gridKey ctx (a.grid % 2 ^ 32), cluster := n + a.cluster,
    queues := a.queues.map (fun q => { q with entries := q.entries.map (fun e => { e with cmd := n + e.cmd }) }) }

/-- A row key in another partition. -/
def moveRow (img : Image) (p k : Nat) : Nat :=
  let u := 4 * (if rowTag k == 0 then 2 ^ 21 else if rowTag k == 1 then 2 ^ 20 else 2 ^ 11)
  k + u * p - u * img.part

/-- A core or a conductor core of an image in another partition, as Command.core numbers them. -/
def moveCore (img : Image) (p core : Nat) : Nat :=
  if core < 256 then core + 8 * p - 8 * img.part else core + p - img.part

/-- The position that a context holds on a core. -/
def State.positionOf (s : State) (core p ctx : Nat) : Nat := if (s.coreOf core).ctxs.getD 0 none == some (p, ctx) then 0 else 1

/-- A command of an image in a partition and context, whose positions are bound. -/
def State.moveCommand (s : State) (img : Image) (p ctx n : Nat) (c : Command) : Command :=
  { c with part := p, ctx := ctx, grid := if c.grid == 0 then 0 else gridKey ctx (c.grid % 2 ^ 32),
           cluster := n + c.cluster,
           core := moveCore img p c.core,
           half := if c.kind == .mldb then s.positionOf (moveCore img p c.core) p ctx else c.half,
           landed := [], forks := [],
           agent := if c.agent < 8192 then c.agent + 256 * p - 256 * img.part
             else if c.agent < 8448 then c.agent + 8 * p - 8 * img.part else c.agent,
           running := none, replay := true, stopped := true }

/-- The state of an image placed in a context, halted (14 R366; 15 R397). -/
def State.restore (s : State) (img : Image) (p ctx : Nat) : State :=
  let n := s.nextId
  let cls : SMap Cluster := img.clusters.map (fun e => (n + e.1, moveCluster img p ctx e.2))
  let s1 := cls.foldl (fun t e =>
    let r := t.bindContext e.2.core p ctx
    { r.1 with clusters := r.1.clusters.set e.1 { e.2 with ctxPos := r.2 } }) s
  let rels : List Nat := ((SMap.keys img.acc ++ SMap.keys img.weights ++ SMap.keys img.panels).map (· / 2 ^ 20))
    ++ SMap.keys img.loaders
  let s2 := rels.eraseDups.foldl (fun t rel =>
    let r := t.bindContext (8 * p + rel) p ctx
    r.1.updCore (8 * p + rel) (fun c => { c with
      acc := putPart (c.acc.drop (fun k => k / 2 ^ 15 == c.bank r.2)) img.acc (2 ^ 15) (c.bank r.2) rel,
      fixed := putPart (c.fixed.drop (fun k => k / 2 ^ 8 == c.bank r.2)) img.fixed (2 ^ 8) (c.bank r.2) rel,
      weights := putPart (c.weights.drop (fun k => k / 2 ^ 18 == r.2)) img.weights (2 ^ 18) r.2 rel,
      panels := putPart (c.panels.drop (fun k => k / 2 ^ 10 == r.2)) img.panels (2 ^ 10) r.2 rel,
      loader := c.loader ++ ((SMap.get [] img.loaders rel).map (n + ·)),
      tracker := c.tracker ++ ((SMap.get [] img.trackers rel).map (fun d =>
        { d with part := p, grid := gridKey ctx (d.grid % 2 ^ 32), cluster := n + d.cluster, cmds := d.cmds.map (n + ·),
                 reqs := [] })) })) s1
  let ags : List Agent := img.agents.map (moveAgent img p ctx n s.tick)
  let same {α : Type} (x : α) : α := x
  let s3 := s2.clearRows (fun k => ags.any (ownsRow · k))
  let s4 := { s3 with
    nextId := 2 * n,
    others := ags.foldl (fun m (a : Agent) => SMap.set m a.id a) s3.others,
    rf := SMap.putAll s3.rf img.rows (moveRow img p) same,
    rfPoison := SMap.putAll s3.rfPoison img.rowPoison (moveRow img p) same,
    scratch := SMap.putAll s3.scratch img.scratch (· + n * 2 ^ 22) same,
    scratchPoison := SMap.putAll s3.scratchPoison img.scratchPoison (· + n * 2 ^ 22) same,
    exact := SMap.putAll s3.exact img.exact (· + n * 2 ^ 20)
      (fun e => { e with part := p, grid := gridKey ctx (e.grid % 2 ^ 32) }),
    gongJoins := SMap.putAll s3.gongJoins img.gongJoins (· + n * 2 ^ 20) same,
    cmds := SMap.putAll s3.cmds img.cmds (n + ·) (s3.moveCommand img p ctx n),
    locks := SMap.putAll s3.locks img.locks (· + 128 * p) same }
  let back (g : Grid) : Grid :=
    { g with ctx := ctx, halted := if g.st == .ended then .none else .halt, fate := .undecided, ending := none,
             ckStart := none, hwRoute := false, code := some s.memNow }
  s4.updPart p (fun q => { q with
    grids := SMap.putAll (q.grids.filter (fun (e : Nat × Grid) => e.2.ctx != ctx)) img.grids
      (fun k => gridKey ctx (k % 2 ^ 32)) back,
    contexts := q.contexts.set ctx { img.context with toff := BitVec.ofNat 64 s.tick - img.vtick, halted := true } })

/-! ### Images in memory -/

/-- The place of an image's address: a carve-out offset where its bits [63:62] are 0b01, as a command address has them
(08 R201), else a global virtual address (14 R366). (DESIGN CHOICE, notes/assumptions/49.md.) -/
def State.imagePlace (s : State) (p ctx a : Nat) (need : Need) : Except XErr Place :=
  if a / 2 ^ 62 == 1 then (if s.noGroups p then .error noGroupFault else s.carvePlace p (a % 2 ^ 62))
  else s.xlateNow p ctx (BitVec.ofNat 64 a) need

/-- The first fault over the pages of a range. -/
def State.rangeFault (s : State) (p ctx a n : Nat) (need : Need) : Option (DWord × XErr) :=
  (pageStarts a n).findSome? (fun va =>
    match s.imagePlace p ctx va need with
    | .ok _ => none
    | .error e => some (BitVec.ofNat 64 va, e))

/-- The first page of a range that a write-block holds (04 R118). -/
def State.rangeBlock (s : State) (p ctx a n : Nat) : Option Nat :=
  (pageStarts a n).findSome? (fun va =>
    match s.imagePlace p ctx va { wr := true } with
    | .ok q => if q.wb then some (va / 65536) else none
    | .error _ => none)

/-- The piece of a word of an image at its place; the first of a line makes its line's request (17 R422). -/
def State.imagePiece (s : State) (va : Nat) (q : Place) : Piece :=
  { key := q.key / 4, pol := q.pol, region := q.region,
    counter := if q.key % 128 == 0 && q.pol != 2 then s.counterOf va q.leaf else none }

/-- One weak store of the issuing thread, accepted at once. -/
def State.storeNow (s : State) (a : Access) (p : Piece) (v : Word) : State :=
  match a.path p with
  | .host => s.hostPut p.key v
  | .bank => (s.reach a 0 p).bankWrite p.key v
  | _ => (s.touchHost p.key).ownerWrite 0 a p.key v p

/-- Words stored from an address up by the issuing thread (14 R366). -/
def State.storeWords (s : State) (addr : Nat) (ws : List Word) : State :=
  let a := s.newAccess .store 0
  (List.range ws.length).foldl (fun t i =>
    match t.imagePlace s.me.part s.me.ctx (addr + 4 * i) { wr := true } with
    | .ok q => t.storeNow a (t.imagePiece (addr + 4 * i) q) (ws.getD i 0)
    | .error _ => t) s

/-- Words read from an address up by the issuing thread; none where one is poisoned. -/
def State.loadWords (s : State) (addr n : Nat) : State × List Word :=
  let a := s.newAccess .load 0
  (List.range n).foldl (fun r i =>
    match r.1.imagePlace s.me.part s.me.ctx (addr + 4 * i) { rd := true } with
    | .ok q =>
      let t := r.1.obtain a (r.1.imagePiece (addr + 4 * i) q)
      (t.1, r.2 ++ [t.2])
    | .error _ => r) (s, [])

/-- Some word of a range is in state P. -/
def State.rangePoison (s : State) (addr n : Nat) : Bool :=
  (List.range n).any (fun i => match s.imagePlace s.me.part s.me.ctx (addr + 4 * i) { rd := true } with
    | .ok q => q.pol != 2 && s.regOf (q.key / 4) == .p
    | .error _ => false)

/-- A read of a word of the range has to wait. -/
def State.rangeWaits (s : State) (addr n : Nat) : Bool :=
  (List.range n).any (fun i => match s.imagePlace s.me.part s.me.ctx (addr + 4 * i) { rd := true } with
    | .ok q => s.obtainWaits (s.newAccess .load 0) (s.imagePiece (addr + 4 * i) q)
    | .error _ => false)

/-- The header of an image is well formed: its format, a size, its partition's and its context's numbers, and zeros
elsewhere (14 R366). -/
def headerOk (h : List Word) : Bool :=
  let w (i : Nat) : Nat := (h.getD i 0).toNat
  h.length == 16 && w 0 == 0x00010009 && w 1 != 0 && w 2 % 256 ≤ 5 && w 2 / 256 < 64 && w 3 == 0
    && (h.drop 12).all (· == 0)

/-- The image that words of memory hold, none where their digest does not match: one that this package wrote, or
another's (14 R366; 15 R400). -/
def State.findImage (s : State) (ws : List Word) : Option Image :=
  match s.images.find? (fun i => i.words == ws) with
  | some img => some img
  | none =>
    let digest := (List.range 8).map (fun i => BitVec.ofNat 32 ((Config.sm3 (ws.drop 16)).toNat / 2 ^ (32 * i)))
    if headerOk (ws.take 16) && (ws.drop 4).take 8 == digest then
      (Config.foreignImage (ws.drop 16)).map (fun img => { img with words := ws, logn := (ws.getD 2 0).toNat % 256 })
    else none

end Sys2Proof.Machine
end

