-- ==== Sys2Proof/Machine/Knell.lean ====
section
/-! DEFINITION. The knell: its post, its decisions, checkpoints and the deadline (14 R359, R367 to R372). -/

namespace Sys2Proof.Machine

/-! ### Checkpoints (14 R370) -/

/-- The warps of a grid. -/
def State.warpsOf (s : State) (p k : Nat) : List Agent := s.agents.filter (fun a => a.isWarp && a.part == p && a.grid == k)

/-- A grid's checkpoint begins: by its handlers where every warp of it has PE = 1, else by the hardware (14 R370). A
grid with no warp on a core has no handler to take it. (DEDUCED, notes/assumptions/45.md.) -/
def State.beginCheckpoint (s : State) (p k : Nat) : State :=
  match (s.part p).grids.find k with
  | none => s
  | some g =>
    let ws := s.warpsOf p k
    let handler := !ws.isEmpty && ws.all (fun a => bitN a.trapvec.toNat 0)
    let s1 := s.setGrid p k { g with fate := .checkpoint, ckStart := some s.tick, hwRoute := !handler }
    if handler then ws.foldl (fun t a => t.updAgent a.id (fun x => { x with preempt := true })) s1
    else (s1.knellStops p).quiesce p g.ctx

/-- A grid past XPRELIM moves to the hardware route (14 R370). (DEDUCED, notes/assumptions/45.md.) -/
def State.toHardware (s : State) (p k : Nat) : State :=
  match (s.part p).grids.find k with
  | none => s
  | some g =>
    ((s.setGrid p k { g with hwRoute := true }).knellStops p).quiesce p g.ctx

/-- Hardware-route grids of a context that wait to be written. -/
def Part.hwGrids (q : Part) (ctx : Nat) : List Nat :=
  (q.grids.pick (fun _ g => g.ctx == ctx && g.live && g.fate == .checkpoint && g.hwRoute)).keys

/-- Some grid of the context is still undecided or on its handlers: the one image waits for it. -/
def Part.undecided (q : Part) (ctx : Nat) : Bool :=
  q.grids.anyV (fun g => g.ctx == ctx && g.live && (g.fate == .undecided || (g.fate == .checkpoint && !g.hwRoute)))

/-- Where the next image of a checkpoint region goes: after the images its index names, whether or not an earlier
checkpoint wrote those entries (14 R370). (DESIGN CHOICE, notes/assumptions/49.md.) -/
def State.imageOffset (s : State) (p : Nat) : Nat :=
  let base := bitsN (s.preg p 0x1F) 51 16 * 2 ^ 16
  (List.range 64).foldl (fun m c =>
    let ws := s.getGpa p (base + 16 * c) 3
    let off := (ws.getD 0 0).toNat + (ws.getD 1 0).toNat * 2 ^ 32
    let kib := (ws.getD 2 0).toNat
    if off == 0 && kib == 0 then m else max m ((off + 1024 * kib + 65535) / 65536 * 65536)) 65536

/-- The hardware-route grids of a context, with its stopped threads, are written into one image; one that does not fit
ends its grids ABORTED (14 R370). -/
def State.writeCheckpoint (s : State) (p ctx : Nat) : State :=
  let ks := (s.part p).hwGrids ctx
  let kib := s.imageKib
  let r := s.preg p 0x1F
  let base := bitsN r 51 16 * 2 ^ 16
  let off := s.imageOffset p
  if r % 2 ^ 16 * 2 ^ 20 < off + 1024 * kib then ks.foldl (fun t k => t.endGrid p k stAborted) s.takeFree
  else
    let img := s.capture p ctx (fun k => ks.contains k) false
    let s1 := (s.putGpa p (base + off) img.words).putGpa p (base + 16 * ctx) (words64 off ++ [wordN kib])
    let s2 := { s1 with images := img :: s1.images }.takeFree
    ks.foldl (fun t k => t.endGrid p k stCheckpointed) s2

/-- Halts that the host asked for have completed: CCRES of the context's VFs, and PCRES once every context of the
partition is quiet (15 R394). -/
def State.closeCommands (s : State) (p ctx : Nat) : State :=
  let s1 := { s with vfs := s.vfs.mapV (fun v =>
    if v.open_ && v.first == p && v.ctx == ctx then { v with ccres := 0x80000000, open_ := false } else v) }
  if (s1.part p).cmdOpen && (s1.part p).contexts.keys.all (fun c => s1.quiet p c && !(s1.context p c).haltDue) then
    s1.updPart p (fun q => { q.setReg 0x118 0x80000000 with cmdOpen := false })
  else s1

/-- QUIESCENCE_COMPLETE of a context's set-aside work: its sections are pushed, and checkpointed grids of the hardware
route are written (14 R362, R370). -/
def State.quiesced (s : State) (p ctx : Nat) : State :=
  let saves := !((s.part p).hwGrids ctx).isEmpty && !(s.part p).undecided ctx
  if !s.quiet p ctx || !((s.context p ctx).quiescing || saves) then s
  else
    let s0 := (s.pushWork p).updContext p ctx (fun c => { c with quiescing := false })
    let s1 := if (s.context p ctx).haltDue then s0 else s0.closeCommands p ctx
    if saves then s1.writeCheckpoint p ctx else s1

/-! ### The post (14 R367) -/

/-- A knell begins to stop what it stops: user threads, and grids that are not DISCARDABLE, which it checkpoints
(14 R367). -/
def State.knellStart (s : State) (p : Nat) : State :=
  match (s.part p).knell with
  | none => s
  | some k =>
    if k.begun then s
    else
      let s1 := (s.updPart p (fun q => { q with knell := some { k with begun := true } })).knellStops p
      let ks := ((s.part p).grids.pick (fun _ g => g.live && !Desc.disc g.d)).keys
      (ks.foldl (fun t k => t.beginCheckpoint p k) s1).checkVacancy p

/-- A knell posted for a partition: its status. What it stops waits for a stop in progress (14 R373).
(DEDUCED, notes/assumptions/50.md.) -/
def State.postKnell (s : State) (p deadline : Nat) : State × Nat :=
  match s.parts.find p with
  | none => (s, 3)
  | some q =>
    let standing := (q.reg 0x1E).toNat
    if q.knell.isSome && standing ≤ deadline then (s, 1)
    else
      let status := if deadline ≤ s.tick then 2 else 0
      let (s1, num) := s.nextStop p
      let s1 := s1.setPreg p 0x1E (BitVec.ofNat 64 deadline)
      match q.knell with
      | some k => (s1.updPart p (fun q => { q with knell := some { k with num := num } }), status)
      | none =>
        let s2 := s1.updPart p (fun q => { q with
          knell := some { num := num, t0 := s.tick, grids := (q.grids.pick (fun _ g => g.st != .ended)).keys } })
        (if (s2.part p).stop.isSome then s2 else s2.knellStart p, status)

/-! ### Decisions (14 R368, R369) -/

/-- Clusters that have not retired. -/
def Grid.left (g : Grid) : Nat := Desc.ncl g.d - g.retired.length

/-- Clusters retired over the 1,000 µs before a tick, or since the grid's first cluster started, and that interval in
ticks: ρ is their ratio (14 R368). -/
def Grid.rate (g : Grid) (now : Nat) : Nat × Nat :=
  let from_ := max (now - 1000000) g.startTick
  ((g.retireTicks.filter (fun t => from_ ≤ t)).length, now - from_)

/-- T_run(g) ≤ S, in ticks; T_run is infinite where ρ is 0 (14 R368, R369). -/
def Grid.fits (g : Grid) (now : Nat) (s : Int) : Bool :=
  let r := g.rate now
  r.1 != 0 && (g.left * r.2 : Nat) ≤ s * (r.1 : Int)

/-- D(g) in bytes (14 R368). -/
def State.saveBytes (s : State) (p k : Nat) (g : Grid) : Nat :=
  let cls := (s.clusters.pick (fun _ c => c.part == p && c.grid == k)).map (·.2)
  let words := s.lines.foldl (fun n (e : Nat × BankLine) =>
    n + (e.2.words.pick (fun i b => (b.st == .o || b.st == .ol) && b.ctx == g.ctx && s.partWord p (e.1 * 32 + i))).length) 0
  let rows := (s.warpsOf p k).foldl (fun n a => n + 4 * a.width * a.regB) 0
  let ext := cls.foldl (fun n c => n + c.slots.length / 2 * (4 * 64 * c.regE)) 0
  4 * words + rows + ext + cls.foldl (fun n c => n + 131072 * c.acc + c.scratch) 0
    + 262144 * (s.coresOf p g.ctx).length + 1024 * (s.cmds.pick (fun _ c => c.ofGrid p k)).length

/-- T_ck(x) ≤ S: x / (n * 400 GB/s) + 200 µs, in ticks; 400 GB/s is 400 bytes a tick (14 R368). -/
def ckFits (n x : Nat) (s : Int) : Bool := (x : Int) + 200000 * (400 * n : Nat) ≤ s * (400 * n : Nat)

/-- A grid that a knell ends: its engines stop, each with its record under the knell's number, then it ends
(14 R352, R367, R371, R372). -/
def State.knellEnd (s : State) (p k status : Nat) : State :=
  let num := (((s.part p).knell).map (·.num)).getD 0
  let f (a : Agent) : Bool := a.isWarp && a.part == p && a.grid == k && (a.halted == .none || a.halted == .slice)
  let r := s.stopUnits p 3 num f (fun c => c.grid == k && !c.stopped)
  (r.1.stopAgents p 3 num .knell f).endGrid p k status

/-- The fate of one discardable grid, with the checkpoint bytes counted so far (14 R369). -/
def State.decide1 (s : State) (p k : Nat) (room : Int) : State :=
  match (s.part p).grids.find k, (s.part p).knell with
  | some g, some kn =>
    if !g.live then s
    else if g.fits s.tick room then s.setGrid p k { g with fate := .run }
    else
      let d := s.saveBytes p k g
      if ckFits (s.part p).slices (kn.cum + d) room then
        (s.updPart p (fun q => { q with knell := some { kn with cum := kn.cum + d } })).beginCheckpoint p k
      else (s.setGrid p k { g with fate := .discard }).knellEnd p k stDiscarded
  | _, _ => s

/-- Discardable grids by ascending conductor thread number, then launch order (14 R369). -/
def insertGrid (e : Nat × Grid) : List (Nat × Grid) → List (Nat × Grid)
  | [] => [e]
  | x :: xs =>
    if e.2.thread < x.2.thread || (e.2.thread == x.2.thread && e.2.order < x.2.order) then e :: x :: xs
    else x :: insertGrid e xs

def Part.discardable (q : Part) : List (Nat × Grid) :=
  (q.grids.pick (fun _ g => g.live && Desc.disc g.d)).foldl (fun l e => insertGrid e l) []

/-- S of R369 at a tick: the deadline less the tick less 150 µs. -/
def State.room (s : State) (p t0 : Nat) : Int := (s.preg p 0x1E : Int) - t0 - 150000

/-- KNELL_DECISION (14 R369): at tick t0, at most 10 µs after the post. -/
def State.knellDecide (s : State) (p : Nat) : State :=
  match (s.part p).knell with
  | none => s
  | some k =>
    if k.decided || !k.begun || (s.part p).stop.isSome then s
    else
      let q := s.part p
      let cum := (q.grids.pick (fun _ g => g.live && !Desc.disc g.d)).foldl (fun n (e : Nat × Grid) => n + s.saveBytes p e.1 e.2) 0
      let s1 := s.updPart p (fun q => { q with knell := some { k with decided := true, t0 := s.tick, cum := cum } })
      q.discardable.foldl (fun t e => t.decide1 p e.1 (s.room p s.tick)) s1

/-- KNELL_RECOMPUTE (14 R369): every 10 µs, each RUN grid that no longer fits is decided again. -/
def State.knellRecompute (s : State) (p : Nat) : State :=
  match (s.part p).knell with
  | none => s
  | some k =>
    if !k.decided || s.tick < k.t0 + 10000 || (s.part p).stop.isSome then s
    else
      let s1 := s.updPart p (fun q => { q with knell := some { k with t0 := s.tick } })
      ((s.part p).discardable.filter (fun e => e.2.fate == .run)).foldl (fun t e =>
        if e.2.fits s.tick (s.room p s.tick) then t else t.decide1 p e.1 (s.room p s.tick)) s1

/-- KNELL_DEADLINE (14 R372): what has not ended ends at once. -/
def State.knellDeadline (s : State) (p : Nat) : State :=
  match (s.part p).knell with
  | none => s
  | some _ =>
    if s.tick < s.preg p 0x1E then s
    else
      let ks := (s.part p).grids.pick (fun _ g => g.live)
      (ks.foldl (fun t e => t.knellEnd p e.1 (if Desc.disc e.2.d then stDiscarded else stAborted)) s).checkVacancy p

/-- PREEMPT_LIMIT_EXPIRY (14 R370): grids whose handlers have run past XPRELIM move to the hardware route. -/
def State.preemptLimit (s : State) (p : Nat) : State :=
  let lim := 1000 * (s.preg p 0x21 % 2 ^ 32)
  ((s.part p).grids.pick (fun _ g => g.live && g.fate == .checkpoint && !g.hwRoute
      && (match g.ckStart with
        | some t => decide (t + lim ≤ s.tick)
        | none => false))).foldl (fun t e => t.toHardware p e.1) s

/-! ### PREEMPT (14 R359) -/

/-- The address a thread of a pre-empted warp receives: the next word it would issue. A thread at a meeting point is
at its meeting address, which its %meet still names. -/
def preemptLink (a : Agent) (l : Nat) : DWord := ((a.threads[l]?).map (·.pc)).getD 0

/-- PREEMPT_DELIVERY at a word boundary of loop depth 0, deferred while a stop or a halt holds the warp (14 R359, R373): parked words are abandoned, every thread that has
not exited goes to the handler, and PE is cleared. -/
def State.deliverPreempt (s : State) : State :=
  let a := s.me
  if !a.preempt || !a.isWarp || !a.loops.isEmpty || a.halted != .none || (s.part a.part).stop.isSome
      || (s.part a.part).holds a.engine || a.parks.any (fun k => match k.wait with
      | .op _ => true
      | _ => false) then s
  else
    let lanes := (List.range a.threads.length).filter (fun l => match a.threads[l]? with
      | some t => t.live
      | none => false)
    let s1 := s.setRegs (lanes.flatMap (fun l =>
      [(l, a.regB - 2, lo32 (preemptLink a l)), (l, a.regB - 1, hi32 (preemptLink a l))]))
    (s1.updMe (fun x => { x with
      trapinfo := trapInfo 0x20 0 0 false, preempt := false, parks := [], xfaults := [],
      trapvec := x.trapvec &&& ~~~1#32,
      threads := x.threads.map (fun t => if t.live then t.sent a.codeBase a.handler else t) })).dropWaiter.settle

end Sys2Proof.Machine
end

