-- ==== Sys2Proof/Machine/System.lean ====
section
/-! DEFINITION. SYSTEM (14 R361, R364, R366, R367, R381 to R384) and words that R50 leaves unassigned. -/

namespace Sys2Proof.Machine

/-! ### The frame of a SYSTEM word (14 R381) -/

/-- An access of the issuing agent has not been performed. -/
def State.unsettled (s : State) : Bool := s.accesses.anyV (fun a => a.agent == s.me.id)

/-- A SYSTEM word: PRIVILEGE below supervisor level, operands of lane x, and its effect after every earlier access of
its thread (14 R381). -/
def State.systemWord (s : State) (fn : Nat) (w : W3) (effect : Nat → List Nat → State) : State :=
  s.privileged (s.w3 0x38 fn w (fun act => s.once act (fun x =>
    if s.unsettled then s.park .retry else effect x act)))

/-- A status to every active lane. -/
def State.status (s : State) (d : Nat) (act : List Nat) (k : Nat) : State :=
  s.finish (act.map (fun l => ⟨[(l, d, wordN k)], 0, 0⟩))

/-! ### csrr and csrw (14 R382) -/

/-- The partition and thread that a target names, none for PRIVILEGE: a supervisor's own partition; a partition by its
first slice for the vendor. A thread's number is relative to its partition. (DEDUCED, notes/assumptions/52.md.) -/
def State.target (s : State) (sel target : Nat) : Option (Nat × Nat) :=
  let p := if s.me.level == .vendor then bitsN target 15 8 else s.me.part
  let t := if s.me.level == .vendor then bitsN target 7 0 else target
  match s.parts.find p with
  | none => none
  | some q => if partSel sel then (if t == 0 then some (p, 0) else none)
    else if t < 8 * q.slices then some (p, 8 * p + t) else none

/-- The register at a selector, by its target. -/
def State.readCsr (s : State) (sel p t : Nat) : DWord :=
  if partSel sel then (s.part p).readReg sel
  else match s.agent (8192 + t) with
    | some a => a.threadReg sel
    | none => 0

def execCsrr (w : W3) (s : State) : Out :=
  .next (s.systemWord 0 w (fun x act =>
    let sel := w.a.toNat
    match s.target sel (s.nat32 x w.b.toNat) with
    | none => s.faultHere fcPrivilege x
    | some (p, t) => s.finish (act.map (fun l => ⟨resultOf w.ty l w.d.toNat (s.readCsr sel p t), 0, 0⟩))))

/-- Words of a register that a write of a type reaches: the lower, or both (14 R382). -/
def csrWords (t : Ty) : Nat := if t == .n64 then 3 else 1

/-- A write of a register that only the vendor level may write raises PRIVILEGE below it, before the guard (01 R27;
02 R52; 04 R107). -/
def execCsrw (w : W3) (s : State) : Out :=
  let sel := w.a.toNat
  let vendor := s.me.level == .vendor
  .next (if vendorSel sel && !vendor then s.faultHere fcPrivilege (s.group.headD 0)
    else s.systemWord 1 w (fun x _ =>
    match s.target sel (s.nat32 x w.c.toNat) with
    | none => s.faultHere fcPrivilege x
    | some (p, t) =>
      if partSel sel then (s.writeReg p sel (csrWords w.ty) (s.opB w x)).retire
      else (s.writeThreadReg t sel (csrWords w.ty) vendor (s.opB w x)).retire))

/-! ### tlbinv (04 R115; 14 R383) -/

/-- A range of pages meets the page of a level that holds a 64 KiB page. -/
def meetsPage (page count g level : Nat) : Bool :=
  count != 0 && page < spanPage level g + 2 ^ (levelShift level - 16) && spanPage level g < page + count

/-- A translation that a tlbinv covers: partition, context, page, and the level of the leaf that gave it, whose entry
holds every page of that size (04 R115). -/
def PkgOp.covers (o : PkgOp) (q c g : Nat) (level : Nat := 3) : Bool :=
  match o with
  | .tlbinv p form ctx page count _ =>
    match form with
    | 0 => q == p && c == ctx && meetsPage page count g level
    | 1 => q == p && c == ctx
    | 2 => q == p
    | _ => true

/-- A TLB entry that a tlbinv drops: some page of its leaf is covered, though the entry is of a smaller page (04 R109,
R115). -/
def PkgOp.coversEntry (o : PkgOp) (e : TlbEntry) : Bool := o.covers e.part e.ctx e.page e.leaf.level

/-- A walk-cache entry that a tlbinv drops (14 R383). -/
def PkgOp.drops (o : PkgOp) (e : WalkEntry) : Bool :=
  match o with
  | .tlbinv p form ctx page count _ =>
    let span := 2 ^ (levelShift e.level - 16)
    match form with
    | 0 => !e.stage2 && e.part == p && e.ctx == ctx && count != 0 && page < (e.at_ + 1) * span
        && e.at_ * span < page + count
    | 1 => !e.stage2 && e.part == p && e.ctx == ctx
    | 2 => !e.stage2 && e.part == p
    | _ => true

/-- Frames of the pages that form 0 covers: by the TLBs, and by the tables as they stand. -/
def State.coveredFrames (s : State) : PkgOp → List Nat
  | .tlbinv p form ctx page count _ =>
    if form != 0 then []
    else
      (s.tlb.filter (fun (e : Nat × TlbEntry) => (PkgOp.tlbinv p form ctx page count []).coversEntry e.2)).flatMap
          (fun e => (List.range count).filterMap (fun i =>
            if e.2.page ≤ page + i && page + i < e.2.page + 2 ^ (levelShift e.2.leaf.span - 16) then
              some (s.placeAt p ctx ((page + i) * 65536) e.2.leaf)
            else none))
        ++ (List.range count).filterMap (fun i => match s.walkPage p ctx ((page + i) * 65536) with
          | .ok (leaf, _) => some (s.placeAt p ctx ((page + i) * 65536) leaf)
          | .error _ => none)
      |>.filterMap (fun r => match r with
        | .place q => some (q.key / 65536)
        | _ => none)

/-- Frames whose words a tlbinv has written back: those of the pages of its page-range form as it began. -/
def PkgOp.frames : PkgOp → List Nat
  | .tlbinv _ _ _ _ _ fs => fs

/-- The translations that an operation covers leave the TLBs and the walk caches, and a walk that holds one reads its
tables again (04 R115; 14 R383). -/
def State.dropCovered (s : State) (o : PkgOp) : State :=
  { s with tlb := s.tlb.filter (fun (e : Nat × TlbEntry) => !o.coversEntry e.2),
           walks := s.walks.mapV (fun k => if o.covers k.part k.ctx k.page 1 then { k with found := none } else k),
           walkCache := s.walkCache.filter (fun (e : Nat × WalkEntry) => !o.drops e.2) }

/-- tlbinv begins: what it covers leaves the TLBs and the walk caches, and the thread parks until it completes.
(DEDUCED, notes/assumptions/52.md.) -/
def State.tlbinv (s : State) (form ctx page count : Nat) : State :=
  match s.parked with
  | some p => if p.done then s.retire else s
  | none =>
    let fs := s.coveredFrames (.tlbinv s.me.part form ctx page count [])
    let o : PkgOp := .tlbinv s.me.part form ctx page count fs
    (({ s with nextId := s.nextId + 1, ops := s.ops.set s.nextId o }).dropCovered o).park (.op s.nextId)

def execTlbinvRange (w : W3) (s : State) : Out :=
  .next (s.systemWord 2 w (fun x _ =>
    s.tlbinv 0 (bitsN (s.nat32 x w.c.toNat) 5 0) ((s.pair x w.a.toNat).toNat / 65536) (s.nat32 x w.b.toNat)))

def execTlbinvCtx (w : W3) (s : State) : Out :=
  .next (s.systemWord 2 w (fun x _ => s.tlbinv 1 (bitsN (s.nat32 x w.c.toNat) 5 0) 0 0))

def execTlbinvPart (w : W3) (s : State) : Out := .next (s.systemWord 2 w (fun _ _ => s.tlbinv 2 0 0 0))

/-- Form 3 requires vendor level (14 R383). -/
def execTlbinvAll (w : W3) (s : State) : Out :=
  .next (if s.me.level == .vendor then s.systemWord 2 w (fun _ _ => s.tlbinv 3 0 0 0)
    else s.faultHere fcPrivilege (s.group.headD 0))

/-! ### halt and resume (14 R364) -/

/-- A halt that has begun retires once its work is quiet and pushed (14 R362, R364).
(DEDUCED, notes/assumptions/46.md.) -/
def State.haltWait (s : State) (ctx d : Nat) (act : List Nat) : State :=
  if s.quiet s.me.part ctx then (s.pushWork s.me.part).status d act 0
  else (s.park .retry).updMe (fun a => { a with parks := a.parks.map (fun k =>
    if k.pc == s.issuePc then { k with fired := true } else k) })

/-- A halt: it waits where it has begun or where a stop is in progress (14 R373), else it begins, its status given at
once unless it is 0. -/
def State.halting (s : State) (ctx d : Nat) (act : List Nat) (begin_ : State × Nat) : State :=
  if s.parked.any (·.fired) then s.haltWait ctx d act
  else if (s.part s.me.part).stop.isSome then s.park .retry
  else if begin_.2 != 0 then begin_.1.status d act begin_.2
  else begin_.1.haltWait ctx d act

def execHaltGrid (w : W3) (s : State) : Out :=
  .next (s.systemWord 3 w (fun x act =>
    let k := (s.pair x w.a.toNat).toNat
    let ctx := ((s.part s.me.part).grids.get {} k).ctx
    s.halting ctx w.d.toNat act (s.haltGrid s.me.part k)))

def execHaltCtx (w : W3) (s : State) : Out :=
  .next (s.systemWord 3 w (fun x act =>
    let ctx := bitsN (s.nat32 x w.b.toNat) 5 0
    s.halting ctx w.d.toNat act (s.haltCtx s.me.part ctx 4 .halt)))

def execResumeGrid (w : W3) (s : State) : Out :=
  .next (s.systemWord 4 w (fun x act =>
    let r := s.resumeGrid s.me.part (s.pair x w.a.toNat).toNat
    r.1.status w.d.toNat act r.2))

def execResumeCtx (w : W3) (s : State) : Out :=
  .next (s.systemWord 4 w (fun x act =>
    let r := s.resumeCtx s.me.part (bitsN (s.nat32 x w.b.toNat) 5 0)
    r.1.status w.d.toNat act r.2))

/-! ### tret (14 R361) -/

def execTret (w : W3) (s : State) : Out :=
  .next (s.systemWord 5 w (fun x _ =>
    if s.me.xtepc.toNat % 8 != 0 then s.takeFault fcMisalignedTarget x 0 s.me.xtepc else s.trapReturn))

/-! ### ctxsv and ctxrs (14 R366) -/

/-- The KiB an image needs, and a status, to every active lane. -/
def State.saveResult (s : State) (d : Nat) (act : List Nat) (k kib : Nat) : State :=
  s.finish (act.map (fun l => ⟨[(l, d, wordN k), (l, d + 1, wordN kib)], 0, 0⟩))

/-- A fault of the issuing thread's access to an image. -/
def State.imageFault (s : State) (x addr n : Nat) (need : Need) (k : State) : State :=
  match s.rangeFault s.me.part s.me.ctx addr n need with
  | some (a, e) => s.takeFault e.code x e.detail a
  | none => k

/-- An effect on an image's range, once the walks of its pages can run (04 R112). -/
def State.imageWalked (s : State) (addr n : Nat) (k : State → State) : State :=
  s.walked s.me.part s.me.ctx (if addr < 2 ^ 62 then pageStarts addr n else []) k (wait := (·.park .retry))

/-- ctxsv of a context that is halted and quiet: the image is written, where no write-block holds its pages, and its
resources are freed (14 R366; 04 R118). -/
def State.saveContext (s : State) (x : Nat) (act : List Nat) (d addr ctx area : Nat) : State :=
  let p := s.me.part
  let kib := s.imageKib
  if area < kib then s.takeFree.saveResult d act 2 kib
  else if addr % 65536 != 0 then s.takeFault fcMisalignedAccess x 0 (BitVec.ofNat 64 addr)
  else s.imageWalked addr (1024 * kib) fun s =>
  s.imageFault x addr (1024 * kib) { wr := true } (match s.rangeBlock p s.me.ctx addr (1024 * kib) with
  | some page => s.park (.writeBlock page)
  | none =>
    let s1 := s.pushWork p
    let img := s1.capture p ctx (fun _ => true) true
    let s2 := s1.storeWords addr img.words
    (({ s2 with images := img :: s2.images }.takeFree).freeContext p ctx).saveResult d act 0 kib)

def execCtxsv (w : W3) (s : State) : Out :=
  .next (s.systemWord 6 w (fun x act =>
    let p := s.me.part
    let ctx := bitsN (s.nat32 x w.b.toNat) 5 0
    let d := w.d.toNat
    if ctx == s.me.ctx then s.takeFree.saveResult d act 1 s.imageKib
    else if !s.contextLive p ctx then s.takeFree.saveResult d act 3 s.imageKib
    else if !(s.context p ctx).halted && (s.part p).stop.isSome then s.park .retry
    else
      let s1 := if (s.context p ctx).halted then s else (s.haltCtx p ctx 4 .halt).1
      if !s1.quiet p ctx then s1.park .retry
      else s1.saveContext x act d (s.pair x w.a.toNat).toNat ctx (s.nat32 x w.c.toNat)))

/-- The statuses of ctxrs after the first, in order: the image found, or a status (14 R366). -/
def State.checkImage (s : State) (p ctx : Nat) (ws : List Word) : Except Nat Image :=
  match s.findImage ws with
  | none => .error 2
  | some img =>
    if img.logn != (s.part p).logn then .error 3
    else if !s.admitsAll img p ctx img.clusters then .error 4
    else .ok img

/-- Words of an image read; a poisoned one faults, and what cannot be read yet parks the word. -/
def State.readRange (s : State) (x addr n : Nat) (k : State → List Word → State) : State :=
  s.imageWalked addr (4 * n) fun s =>
  s.imageFault x addr (4 * n) { rd := true } (
    if s.rangePoison addr n then s.takeFault fcPoison x 0 (BitVec.ofNat 64 addr)
    else if s.rangeWaits addr n then s.park .retry
    else
      let r := s.loadWords addr n
      k r.1 r.2)

/-- An image read from memory: its header first, and the size that this gives only where it is well formed; a malformed
header is all that is read (14 R366). -/
def State.readImage (s : State) (x addr : Nat) (k : State → List Word → State) : State :=
  s.readRange x addr 16 (fun t h => if headerOk h then t.readRange x addr (256 * (h.getD 1 0).toNat) k else k t h)

def execCtxrs (w : W3) (s : State) : Out :=
  .next (s.systemWord 7 w (fun x act =>
    let p := s.me.part
    let ctx := bitsN (s.nat32 x w.b.toNat) 5 0
    let addr := (s.pair x w.a.toNat).toNat
    if s.contextLive p ctx then s.status w.d.toNat act 1
    else if addr % 65536 != 0 then s.takeFault fcMisalignedAccess x 0 (BitVec.ofNat 64 addr)
    else s.readImage x addr (fun s1 ws =>
      match s1.checkImage p ctx ws with
      | .error k => s1.status w.d.toNat act k
      | .ok img => (s1.restore img p ctx).status w.d.toNat act 0)))

/-! ### errclr (14 R384) -/

/-- The word keys of a range of words, or the first address that faults. -/
def State.clearKeys (s : State) (co : Bool) (a n : Nat) : Except (Nat × XErr) (List Nat) :=
  let p := s.me.part
  (List.range n).foldl (fun r i =>
    match r with
    | .error e => .error e
    | .ok ks =>
      let b := a + 4 * i
      if co then (if b < s.grantSize p then .ok (s.carveKey p b / 4 :: ks) else .error (b, xerr 8))
      else match s.gpa p b with
        | .ok (d, _, _) => .ok (d / 4 :: ks)
        | .error e => .error (b, e)) (.ok [])

/-- errclr: each word in state P becomes U and holds 0 (14 R384). -/
def State.errclr (s : State) (co : Bool) (w : W3) : State :=
  s.systemWord 8 w (fun x act =>
    let a := s.pair x w.a.toNat
    if a.toNat % 4 != 0 then s.takeFault fcMisalignedAccess x 0 a
    else match s.clearKeys co a.toNat (min (s.nat32 x w.b.toNat) (2 ^ 20)) with
      | .error (b, e) => s.takeFault e.code x e.detail (BitVec.ofNat 64 b)
      | .ok ks =>
        let bad := ks.filter (fun k => s.regOf k == .p)
        (bad.foldl (fun t k => t.bankPut k 0) s).status w.d.toNat act bad.length)

def execErrclr (w : W3) (s : State) : Out := .next (s.errclr false w)
def execErrclrCo (w : W3) (s : State) : Out := .next (s.errclr true w)

/-! ### knell (14 R367) -/

/-- A knell posted, its deadline applied at once where it has passed (14 R367, R372). -/
def State.knell (s : State) (p deadline : Nat) : State × Nat :=
  let r := s.postKnell p deadline
  (if r.2 == 2 then r.1.knellDeadline p else r.1, r.2)

def execKnell (w : W3) (s : State) : Out :=
  .next (s.systemWord 9 w (fun x act =>
    let b := s.nat32 x w.b.toNat
    let r := if s.me.level == .vendor then s.knell b (s.pair x w.a.toNat).toNat
      else if b == 0 then s.knell s.me.part (s.pair x w.a.toNat).toNat
      else (s, 3)
    r.1.status w.d.toNat act r.2))

/-- A word that 02 R50 leaves unassigned. -/
def execIllegalInstruction (s : State) : Out := .next (s.faultHere fcIllegalInstruction (s.group.headD 0))

end Sys2Proof.Machine
end

