-- ==== Sys2Proof/Machine/Serve.lean ====
section
/-! DEFINITION. The hardware's own steps in memory, translation and registration (04 R110 to R122; 05 R130 to R146;
06 R149, R152; 07 R176, R182). -/

namespace Sys2Proof.Machine

/-! ### Accesses -/

def execLoadDataReturn (req : Nat) (s : State) : Out := .next (s.dataReturn req)
def execStoreDrain (req : Nat) (s : State) : Out := .next (s.storeDrain req)
def execRegistrationRequest (req : Nat) (s : State) : Out := .next (s.applyReg req)
def execBankRead (req : Nat) (s : State) : Out := .next (s.bankRead req)
def execBankAccess (req : Nat) (s : State) : Out := .next (s.bankAccess req)
def execForwardReply (line : Nat) (s : State) : Out := .next (s.forwardReply line)

/-! ### Walks (04 R110 to R112) -/

/-- PAGE_WALK: a walk that one of its partition's walkers runs completes (04 R112), where no forward holds a line that it
reads (05 R131). -/
def State.pageWalk (s : State) (w : Nat) : State :=
  match s.walks.find w with
  | none => s
  | some k =>
    if !(s.walking k.part).contains w || (s.part k.part).holds (.walker k.part ((s.walking k.part).idxOf w))
        || s.walkStuck k then s
    else s.finishWalk w

def execPageWalk (walk : Nat) (s : State) : Out := .next (s.pageWalk walk)

/-! ### Counters and write-blocks (04 R118 to R122) -/

/-- The guest-physical address, size and contents of a notification record (04 R121). -/
def notifyWords (tick : Nat) (c : CountInc) (cnt q : Nat) : List Word :=
  words64 tick ++ words64 c.page ++ words64 c.entryAt ++ [wordN (c.ctx + c.size * 64 + cnt * 2 ^ 16), wordN q]

/-- ACCESS_COUNTER_INCREMENT: the oldest counted request is applied to its leaf entry; reaching THRESH, a record is
appended (04 R119 to R122). (DEDUCED, notes/assumptions/34.md.) -/
def State.countAccess (s : State) : State :=
  match s.counts with
  | [] => s
  | c :: rest =>
    let s1 := { s with counts := rest }
    let w := c.entry / 4 + 2
    if s.lineHeld w then s
    else if s1.regOf w == .p then s1
    else
      let v := (s1.current w).toNat
      let old := bitsN v 23 12
      let cnt := min 4095 (old + 1)
      let s2 := s1.bankWrite w (BitVec.ofNat 32 (v - old * 2 ^ 12 + cnt * 2 ^ 12))
      let thresh := s2.preg c.part 0x05 % 4096
      if thresh != 0 && old < thresh && cnt == thresh then
        (s2.append c.part notifyRing (notifyWords s2.tick c cnt)).1
      else s2

def execAccessCounterIncrement (s : State) : Out := .next s.countAccess

/-- Parks of an agent that a test holds of are ready to execute. -/
def State.ready (s : State) (id : Nat) (f : Park → Bool) : State :=
  s.updAgent id (fun a => { a with parks := a.parks.map (fun p => if f p then { p with done := true } else p) })

/-- The park waits on write-block and its retry's time has passed, in ticks (04 R118). -/
def Park.blockDue (p : Park) (tick limit : Nat) : Bool :=
  match p.wait with
  | .writeBlock _ => decide (p.since + limit ≤ tick)
  | _ => false

/-- The 16,384 clk after which an agent's blocked write is tried again, at its block's clock as it is now (00 R4;
04 R118). -/
def State.blockLimit (s : State) (agent : Nat) : Nat :=
  s.clkTicks (dieOf (Agent.core { kind := kindOf agent })) 16384

def execWriteBlockRetry (agent : Nat) (s : State) : Out :=
  .next (s.ready agent (·.blockDue s.tick (s.blockLimit agent)))

/-! ### Releases (05 R136; 06 R152) -/

/-- Releases with nothing left to push or to wait for complete; one at package scope or wider only after the earlier
ones of its owner (06 R152). -/
def State.finishReleases (s : State) : State :=
  s.releases.foldl (fun t (e : Nat × Release) =>
    match t.releases.find e.1 with
    | none => t
    | some r =>
      let earlier := !(t.releases.pick (fun k q => decide (k < e.1) && q.owner == r.owner && decide (3 ≤ q.scope))).isEmpty
      if r.taken && r.pushes.isEmpty && (if r.scope == 3 then !t.earlierUnsent e.1 r.owner else r.acks == 0 && !earlier)
      then t.endRelease e.1
      else t) s

/-- RELEASE_PUSH: the owner's list is taken once every write accepted before it has registered, and its next entry is
pushed to its bank (05 R136). -/
def State.releasePush (s : State) (id : Nat) : State :=
  match s.releases.find id with
  | none => s
  | some r =>
    if r.scope ≤ 2 || (!r.taken && (!r.waits.isEmpty || s.regReqs.anyV (fun q => q.owner == r.owner))) then s
    else
      let list := if r.taken then r.pushes else s.openLines.get [] r.owner
      let acks := r.acks + (if r.taken then 0 else s.portAcks r)
      let s1 := if r.taken then s else { s with openLines := s.openLines.erase r.owner }
      match list with
      | [] => ({ s1 with releases := s1.releases.set id { r with taken := true, pushes := [], acks := acks } }).finishReleases
      | l :: ls =>
        if (s1.forwards.find l).isSome then
          { s1 with releases := s1.releases.set id { r with taken := true, pushes := list, acks := acks } }
        else
          let s2 := s1.pushLine r.owner l
          ({ s2 with releases := s2.releases.set id { r with taken := true, pushes := ls, acks := acks + 1 } }).finishReleases

/-- PUSH_ACKNOWLEDGE: one of its banks has applied an entry (05 R136). -/
def State.pushAck (s : State) (id : Nat) : State :=
  match s.releases.find id with
  | none => s
  | some r =>
    if r.acks == 0 then s
    else ({ s with releases := s.releases.set id { r with acks := r.acks - 1 } }).finishReleases

def execReleasePush (rel : Nat) (s : State) : Out := .next (s.releasePush rel)
def execPushAcknowledge (rel : Nat) (s : State) : Out := .next (s.pushAck rel)

/-! ### Replacement, fills and drains (05 R137, R144, R146) -/

/-- A section cache replaces a line, one that an stnt has marked before the others of its set (05 R137; 07 R177). -/
def State.sectionWriteBack (s : State) (sec line : Nat) : State :=
  if (s.forwards.find line).isSome || s.notFirst sec line then s
  else
    s.giveUp sec line

def execSectionCacheWriteBack (sec line : Nat) (s : State) : Out := .next (s.sectionWriteBack sec line)

/-- The first words of a line poisoned, each with its record (05 R144; 14 R376). -/
def State.poisonWords (s : State) (p l kind n : Nat) : State :=
  (List.range n).foldl (fun t i =>
    (t.poisonWord (32 * l + i)).poisonRecord p (t.recordAddr (32 * l + i)) kind 0xFF 0 0) s

/-- All 32 words of a line poisoned. -/
def State.poisonLine (s : State) (p l kind : Nat) : State := s.poisonWords p l kind 32

/-- LLC_FILL: a line that holds no registered word is filled from memory, in place of one of its bank that a free value
names, or of none; a failing code poisons all 32 words (05 R126, R137, R144). -/
def State.llcFill (s : State) (l : Nat) (fails : Bool) : State :=
  match s.partOfLine l with
  | none => s
  | some p =>
    if (s.lines.get {} l).words.anyV (fun b => b.st != .p) then s
    else
      let can := s.replaceable p l
      let pick := Config.choice s.free % (can.length + 1)
      let s1 := match can[pick]? with
        | some x => s.replaceLine x
        | none => s
      let s2 := ((s1.takeFree).touchHost (32 * l)).needWay l
      if fails then s2.poisonLine p l 0 else s2

def execLlcFill (line : Nat) (codeFails : Bool) (s : State) : Out := .next (s.llcFill line codeFails)

/-- A line of a drained way unit: each owner's data is written into it, O words become OL, and R words are served by
the bank (05 R146). -/
def State.drainLine (s : State) (l : Nat) : State :=
  ((s.lines.get {} l).words.keys).foldl (fun t i =>
    let w := 32 * l + i
    let b := t.bankWord w
    match b.st with
    | .o => t.writeOl w
    | .r => (t.setMem w (t.current w)).setBank w { b with viaOl := true }
    | _ => t) s

/-- One line leaves a drained way unit: a line with registered words is written back and moves into a way that its
partition keeps in the bank, as an exact-sum entry's line does; another is dropped, a dirty one to memory first
(05 R146; 15 R390). -/
def State.leaveUnit (s : State) (l : Nat) : State :=
  if 2 ^ 66 ≤ l then { s with ways := s.ways.erase l }.needWay l
  else if (s.lines.get {} l).words.anyV (fun b => b.st != .p) then
    let s1 := s.drainLine l
    { s1 with ways := s1.ways.erase l }.needWay l
  else s.replaceLine l

/-- The lines of a partition in one of its way units. -/
def State.unitLines (s : State) (p unit : Nat) : List Nat :=
  (s.ways.keysOf (· == unit)).filter (fun l => s.partOfLine l == some p)

/-- WAY_UNIT_DRAIN: the unit's lines leave it and it becomes unassigned; the bank waits for the forwards of its lines
(05 R131, R146). -/
def State.drainUnit (s : State) (p unit : Nat) : State :=
  let ls := s.unitLines p unit
  if !(s.part p).draining.contains unit || ls.any (fun l => (s.forwards.find l).isSome) then s
  else (ls.foldl State.leaveUnit s).updPart p (fun q => { q with draining := q.draining.filter (· != unit) })

def execWayUnitDrain (part unit : Nat) (s : State) : Out := .next (s.drainUnit part unit)

/-! ### Waiting words (07 R196, R197) -/

/-- A watched wait is due: its watch has fired, or 65,536 ticks have passed (07 R196). -/
def Park.watchDue (p : Park) (tick : Nat) : Bool :=
  match p.wait with
  | .word _ true => p.fired || decide (p.since + 65536 ≤ tick)
  | _ => false

/-- A wait without a watch polls every 1,024 ticks (07 R197). -/
def Park.pollDue (p : Park) (tick : Nat) : Bool :=
  match p.wait with
  | .word _ false => decide (p.since + 1024 ≤ tick)
  | _ => false

/-- A waitm's limit has come (07 R196). -/
def Park.limitDue (p : Park) (tick : Nat) : Bool :=
  match p.wait with
  | .word _ _ => p.limit != 0 && decide (p.t0 + p.limit ≤ tick)
  | _ => false

def execWatchFire (agent : Nat) (s : State) : Out := .next (s.ready agent (·.watchDue s.tick))
def execWaitmPoll (agent : Nat) (s : State) : Out := .next (s.ready agent (·.pollDue s.tick))
def execWaitmLimitExpiry (agent : Nat) (s : State) : Out := .next (s.ready agent (·.limitDue s.tick))

/-! ### tlbinv completes (04 R115; 14 R383) -/

/-- It covers some translation of a context. -/
def PkgOp.concerns : PkgOp → Nat → Nat → Bool
  | .tlbinv p form ctx _ _ _, q, c =>
    match form with
    | 0 | 1 => q == p && c == ctx
    | 2 => q == p
    | _ => true

/-- Every registered word of the frames is written back and in U (04 R115). -/
def State.writeBackFrames (s : State) (fs : List Nat) : State :=
  ((s.lines.keys).filter (fun l => fs.contains (128 * l / 65536))).foldl (fun t l =>
    ((t.lines.get {} l).words.keys).foldl (fun t i =>
      let w := 32 * l + i
      if t.regOf w == .u || t.regOf w == .p then t else t.writeBack w) t) s

/-- Accesses translated before an operation began are still on their way, or registrations and forwards of what it
covers are. -/
def State.coveredBusy (s : State) (op : Nat) (o : PkgOp) : Bool :=
  !(s.accesses.pick (fun k a => decide (k < op) && a.pieces.any (fun p => !p.done && !p.scr
      && o.covers a.part a.ctx (p.addr.toNat / 65536) p.level))).isEmpty
    || !(s.regReqs.pick (fun k r => (decide (k < op) && o.concerns r.part r.ctx)
      || o.frames.contains (4 * r.word / 65536))).isEmpty
    || s.forwards.any (fun e => o.frames.contains (128 * e.1 / 65536))

/-- TLBINV_COMPLETION: no cache holds a covered translation, covered words are written back, and stalled writers
repeat their translation (04 R115; 14 R383). A writer, or a fault, of which only the page is known is taken with the
largest page that can hold it: it only repeats its translation. -/
def State.tlbinvDone (s : State) (op : Nat) : State :=
  match s.ops.find op with
  | none => s
  | some o =>
    if s.coveredBusy op o then s
    else
      let s1 := (s.writeBackFrames o.frames).dropCovered o
      let fix (a : Agent) : Agent :=
        let b := a.wake (fun w => match w with
          | .op n => n == op
          | .writeBlock page => o.covers a.part a.ctx page 1
          | _ => false)
        { b with xfaults := b.xfaults.filter (fun f => !o.covers a.part a.ctx f.page 1) }
      { s1 with
        ops := s1.ops.erase op,
        me := fix s1.me, others := s1.others.mapV fix }

def execTlbinvCompletion (op : Nat) (s : State) : Out := .next (s.tlbinvDone op)

end Sys2Proof.Machine
end

