-- ==== Sys2Proof/Machine/Engine.lean ====
section
/-! DEFINITION. The hardware's own steps in engines: dispatch, beats and completion of commands (08 R198 to R214), the
weight loader (12 R313 to R315), call replies (08 R221), the matrix unit's tail (12 R316), and requests to the host that
time out (14 R362). -/

namespace Sys2Proof.Machine

/-! ### Dispatch (08 R199, R222) -/

/-- Every byte of a command has been performed. -/
def Command.finished (c : Command) : Bool :=
  match c.kind with
  | .coll => c.pieces.all (fun p => p.len ≤ c.at_)
  | _ => (c.pieces.drop c.piece).all (fun p => p.len == 0)

/-- A command waits for an engine. A port's command that has sent its data waits for its peer. -/
def Command.queued (c : Command) : Bool :=
  c.running.isNone && c.ended.isNone && !c.stopped && c.kind != .mldb && !c.sent

/-- An engine executes a descriptor of a port's ring, which the ring's next one follows (15 R404). -/
def State.ringBusy (s : State) (port : Nat) : Bool := s.cmds.anyV (fun x => x.port == some port && x.running.isSome)

/-- A context's replay entries go before its new commands (08 R222), and a port's descriptors one after another. -/
def State.dispatchable (s : State) (p : Nat) (c : Command) : Bool :=
  c.part == p && c.queued && !c.port.any s.ringBusy
    && (c.replay || !s.cmds.anyV (fun x => x.part == p && x.ctx == c.ctx && x.replay && x.queued))

/-- A list from the element after one of it, round. -/
def rotateAfter (xs : List Nat) (last : Option Nat) : List Nat :=
  match last with
  | none => xs
  | some x => xs.drop (xs.idxOf x + 1) ++ xs.take (xs.idxOf x + 1)

/-- Where a partition's commands wait: its cores, its conductor cores and its ports, as Command.core numbers them. -/
def Part.sources (q : Part) (p : Nat) : List Nat :=
  (List.range (8 * q.slices)).map (8 * p + ·) ++ (List.range q.slices).map (256 + p + ·)
    ++ ((List.range 256).filter (bitN q.fport)).map (512 + ·)

/-- The turn of a source's queues. -/
def turnKey (source : Nat) : Nat := 1024 + source

/-- The next command of a partition: round-robin over its sources, each source's queues in turn, the oldest of a queue
first (08 R199). -/
def State.nextCommand (s : State) (p : Nat) : Option (Nat × Command) :=
  let q := s.part p
  (rotateAfter (q.sources p) (s.engineTurn.find p)).findSome? (fun src =>
    (rotateAfter [0, 1, 2, 3] (s.engineTurn.find (turnKey src))).findSome? (fun k =>
      (s.cmds.pick (fun _ c => c.core == src && c.queue == k && s.dispatchable p c)).head?))

/-- The partition that holds a copy engine (15 R386). -/
def State.partOfEngine (s : State) (e : Nat) : Option Nat :=
  (s.parts.find? (fun (x : Nat × Part) => x.2.engines.contains e)).map (·.1)

/-! ### Completion (08 R206, R209, R211, R214; 05 R138) -/

/-- The join an observer of a command's completion makes (06 R156). -/
def Command.join (c : Command) : Join := ⟨c.scope, c.mask, c.core⟩

/-- The owner of the core that issued a command. -/
def Command.issuer (c : Command) : Nat := if c.core < 256 then c.core / 8 else 0x060 + (c.core - 256)

/-- The field of a line that an engine held: the issuing section takes it where it is empty now and the section holds
none (05 R138). -/
def State.giveField (s : State) (l x : Nat) (one : Bool) : State :=
  let b := s.lines.get {} l
  if b.own0 == x || b.own1 == x then s
  else if one && b.own1 == 0x3FF then s.setLine l { b with own1 := x }
  else if !one && b.own0 == 0x3FF then s.setLine l { b with own0 := x }
  else s.takeField l x

/-- A line that a copy installs in a section's cache takes the tags of the issuing context; what has others goes
(06 R163). -/
def State.retag (s : State) (cache l : Nat) (region part ctx : Nat) : State :=
  let c := s.cleanLine cache l
  if c.region == region && c.part == part && c.ctx == ctx then s else s.setClean cache l ⟨region, part, ctx, []⟩

/-- A word handed to the issuing section's cache: R to it, the cache holding its data (05 R138); one that the section
writes itself meanwhile stays its own write's. -/
def State.handOver (s : State) (c : Command) (w : Nat) (one : Bool) : State :=
  if s.registering c.issuer w then s
  else
    let s0 := (s.giveField (lineOf w) c.issuer one).retag c.issuer (lineOf w) (c.regions.get 0 w) c.part c.ctx
    let s1 := s0.registerAs w c.issuer .r c.ctx
    let s2 := s1.setBank w { s1.bankWord w with viaOl := true }
    if s2.hasRoom c.issuer (lineOf w) then
      (s2.makeRoom c.issuer (lineOf w)).setCopy c.issuer w (s2.memWord w)
    else s2

/-- The words a command has landed as it completes: U, or handed over once its engines' owner fields are emptied
(05 R138); a forward of their lines is answered first (05 R131). -/
def State.settleWords (s : State) (id : Nat) (c : Command) : State :=
  let s0 := (c.landed.map (fun e => lineOf e.1)).eraseDups.foldl State.settleForward s
  let ws := (c.landed.filter (s0.stillLanded id)).map (fun e => (e.1, (s0.bankWord e.1).sel))
  let s1 := s0.unland id c
  if ctlXfer c.ctl then ws.foldl (fun (t : State) e => t.handOver c e.1 e.2) s1 else s1

/-- The gong update of a completion; nothing where its cluster has ended (08 R214, R223). -/
def State.gongUpdate (s : State) (c : Command) : State :=
  match s.clusters.find c.cluster with
  | none => s
  | some cl =>
    if !ctlGen c.ctl || cl.ended || 256 ≤ c.core then s
    else
      let k := scratchKey c.cluster (ctlGong c.ctl) / 4
      let s1 := s.setGong k ((s.gong k).complete c.bytes)
      { s1 with gongJoins := s1.gongJoins.set k (c.join :: s1.gongJoins.get [] k) }

/-- The tag update of a completion (08 R211). -/
def State.tagUpdate (s : State) (c : Command) : State :=
  if !ctlTen c.ctl then s
  else if c.core < 256 then
    match s.clusters.find c.cluster with
    | some cl => { s with clusters := s.clusters.set c.cluster { cl with tags := cl.tags.complete (ctlTag c.ctl) c.join } }
    | none => s
  else s.updAgent c.agent (fun a => { a with tags := a.tags.complete (ctlTag c.ctl) c.join })

/-- A command's status word (08 R209). -/
def Command.status (c : Command) : Word :=
  wordN (c.res + c.kind.code * 16 + ctlTag c.ctl * 2 ^ 8 + (if ctlTen c.ctl then 2 ^ 14 else 0) + c.seq * 2 ^ 16)

/-- A status word enters its agent's status queue (08 R209). -/
def State.deliverStatus (s : State) (id : Nat) (c : Command) : State :=
  s.updAgent c.agent (fun a => { a with queues := a.queues.mapIdx (fun i q =>
    if i == c.queue then q.deliver id c.status c.join else q) })

/-- A copy command completes: its words, its gong, its tag and its status word, in that order (08 R206). -/
def State.completeCommand (s : State) (id : Nat) : State :=
  match s.cmds.find id with
  | none => s
  | some c =>
    match c.running with
    | none => s
    | some _ =>
      if !c.finished || !c.forks.isEmpty || c.stopped || c.port.isSome then s
      else ((((s.settleWords id c).gongUpdate c).tagUpdate c).deliverStatus id c).dropCommand id

/-! ### Ports' descriptors (15 R404) -/

/-- A pair of words of a descriptor. -/
def descPair (d : List Word) (i : Nat) : DWord := pair64 (d.getD i 0) (d.getD (i + 1) 0)

/-- An address of a descriptor: a global virtual one, of a word (08 R201; 15 R404). (DEDUCED, notes/assumptions/67.md.) -/
def descAddrOk (a : DWord) : Bool := cmdForm a == 0 && a.toNat % 4 == 0

/-- A descriptor's fields meet R404. -/
def portDescOk (d : List Word) : Bool :=
  let w (i : Nat) : Nat := (d.getD i 0).toNat
  let ctl : Word := d.getD 5 0
  w 4 % 4 == 0 && w 4 ≤ 2 ^ 26 && !ctlTen ctl && !ctlGen ctl && !ctlXfer ctl && w 6 == 5 && w 7 == 0 && w 11 == 0
    && [0, 2, 8, 12].all (fun i => descAddrOk (descPair d i))

/-- Where a descriptor's status word goes, 0 for none. -/
def Command.statusAt (c : Command) : Nat := (c.desc.getD 12 0).toNat + (c.desc.getD 13 0).toNat * 2 ^ 32

/-- Descriptors of a port that were taken before one have still to end. -/
def State.portEarlier (s : State) (id port : Nat) : Bool :=
  !(s.cmds.pick (fun k x => decide (k < id) && x.port == some port)).isEmpty

/-- A descriptor ends, after those before it: its status word is written strongly through the port's context, where no
write-block holds it (04 R118), and TAIL moves past it. -/
def State.portDone (s : State) (id port status : Nat) (c : Command) : State :=
  let q := s.part c.part
  let k := ((List.range port).filter (bitN q.fport)).length
  let at_ := c.statusAt
  let held (s : State) : State := { s with cmds := s.cmds.set id { c with running := none, ended := some status } }
  if s.portEarlier id port then held s
  else s.walked c.part c.ctx (if at_ == 0 then [] else [at_]) (wait := held) fun s =>
  if at_ != 0 && s.heldBack c.part c.ctx at_ 4 then held s
  else
  let s1 := if at_ == 0 then s else s.putVirtual c.part c.ctx at_ [wordN (2 ^ 31 + status)]
  (s1.putGpa c.part (bitsN (s.preg c.part 0x23) 51 6 * 2 ^ 6 + 64 * k + 20) [wordN (c.seq + 1)]).dropCommand id

/-- COMMAND_COMPLETION: a copy command completes, or a port's command whose status word had to wait ends. -/
def State.commandDone (s : State) (id : Nat) : State :=
  match s.cmds.find id with
  | none => s
  | some c => match c.port, c.ended with
    | some port, some status => s.portDone id port status c
    | _, _ => s.completeCommand id

def execCommandCompletion (cmd : Nat) (s : State) : Out := .next (s.commandDone cmd)

/-- A port's command as an engine takes it: a bad field ends it with ENGINE_COMMAND, charged late (15 R404). -/
def State.portStart (s : State) (id : Nat) (c : Command) (port e : Nat) : State :=
  if portDescOk c.desc then s
  else
    (s.lateFault c.part c.grid c.ctx noAgent fcEngineCommand 0 0 0 (.copy e)).portDone id port 2 c

/-- COMMAND_DISPATCH: an idle engine of a partition takes its next command (08 R199). One with no bytes completes at
once (08 R206). -/
def State.dispatch (s : State) (e : Nat) : State :=
  match s.partOfEngine e with
  | none => s
  | some p =>
    if (s.part p).stop.isSome || s.engineDead.get false e || s.cmds.anyV (fun c => c.running == some e) then s
    else match s.nextCommand p with
      | none => s
      | some (id, c) =>
        let s1 := { s with
          cmds := s.cmds.set id { c with running := some e, replay := false },
          engineTurn := (s.engineTurn.set p c.core).set (turnKey c.core) c.queue }
        match c.port with
        | some port => s1.portStart id c port e
        | none => if c.finished then s1.completeCommand id else s1

def execCommandDispatch (engine : Nat) (s : State) : Out := .next (s.dispatch engine)

/-! ### Beats (08 R198, R204, R205; 05 R138, R139) -/

/-- Where an address of a command lies. -/
inductive CmdPlace where
  | mem (q : Place)
  | scr (k : Nat)                 -- a scratchpad byte
  | gone                          -- the scratchpad of a cluster that is gone, or, to be written, has ended
  deriving DecidableEq, Repr

/-- The place of a command address (08 R201; 04 R98 to R100; 07 R172). -/
def State.cmdPlace (s : State) (c : Command) (a : DWord) (n : Need) : Except XErr CmdPlace :=
  match cmdForm a with
  | 0 => (match s.xlateNow c.part c.ctx a n with
    | .ok q => .ok (.mem q)
    | .error e => .error e)
  | 1 =>
    let o := bitsN a.toNat 55 0
    if s.noGroups c.part then .error noGroupFault else (s.carvePlace c.part o).map .mem
  | 2 => if (s.clusters.find c.cluster).any (fun k => !(n.wr && k.ended)) then
      .ok (.scr (scratchKey c.cluster (bitsN a.toNat 21 0))) else .ok .gone
  | _ =>
    match s.clusters.find c.cluster with
    | none => .ok .gone
    | some me =>
      match s.clusters.find? (fun (x : Nat × Cluster) => x.2.part == me.part && x.2.grid == me.grid
          && x.2.group == me.group && x.2.core == me.core / 8 * 8 + bitsN a.toNat 26 24 && !(n.wr && x.2.ended)) with
      | some x => .ok (.scr (scratchKey x.1 (bitsN a.toNat 21 0)))
      | none => .ok .gone

/-- Who an engine's access belongs to (05 R140, R141). -/
def Command.party (c : Command) (e : Nat) : Party :=
  { part := c.part, ctx := c.ctx, grid := c.grid, agent := c.agent, issuer := 0x20000 + e, mode := c.racemode,
    pc := c.pc, engine := .copy e }

/-- A source word at its place: a caught race, a forward, or a plain read at the bank (05 R138, R139). DESIGN CHOICE
(notes/assumptions/43.md): 08 R223 speaks of destinations alone, and a source in the scratchpad of a cluster that is gone,
no other of its section group being left (07 R172), reads 0. -/
def State.sourceWord (s : State) (x : Nat) (by_ : Party) (q : CmdPlace) : State × Word :=
  match q with
  | .gone => (s, 0)
  | .scr k => (s, s.scratchWord (k / 4))
  | .mem q =>
    let w := q.key / 4
    if q.pol == 2 then (s, s.memWord w) else (((s.touchHost w).countMiss by_.part by_.ctx (lineOf w)).fillWay (lineOf w)).takeAt x w 3 by_

/-- A destination word registered to an engine in OL as its beat lands (05 R132, R133, R138). -/
def State.landWord (s : State) (e : Nat) (by_ : Party) (w : Nat) (v : Word) (ctx : Nat) : State :=
  let x := 0x020 + e
  let s0 := ((s.countMiss by_.part by_.ctx (lineOf w)).needWay (lineOf w)).takeField (lineOf w) x
  let race := s0.raceWith w x
  let y := s0.ownerOf w
  let s1 := if s0.regOf w != .u && s0.regOf w != .p && y != x then s0.revoke y w else s0
  let s2 := (((s1.registerAs w x .ol ctx).setMem w v).enterOpen x (lineOf w))
  (s2.reportMaybe x w race 4 by_).fireWatches w

/-- red(t, s) of a command at a destination word, under CANON the exact sum (08 R204; 03 R91). -/
def State.redAt (s : State) (c : Command) (w : Nat) (old v : Word) : State × Word :=
  let r := ctlRty c.ctl
  if c.canon && r != 0 then
    let t := s.exactAdd w (rtyType r) old v c.part c.grid
    (t.1, t.2.1)
  else (s.endExact w, redWord r old v)

/-- Sources of a collective joined to a destination word's own exact sum, in lane order (08 R204; 03 R91). -/
def State.redAll (s : State) (c : Command) (w : Nat) (old : Word) : List Word → State × Word
  | [] => (s, old)
  | v :: vs =>
    let r := s.redAt c w old v
    r.1.redAll c w r.2 vs

/-- The sum of a collective's sources at one element: each in lane order, exact under CANON (08 R204; 03 R91). -/
def collSum (c : Command) (vs : List Word) : Word :=
  let r := ctlRty c.ctl
  match vs with
  | [] => 0
  | [x] => x
  | x :: rest =>
    if c.canon && r != 0 then
      ((rest.foldl (fun (m : ExactSum) v => m.accept (rtyType r) v) (ExactSum.start x (rtyType r) 0 0)).canon (rtyType r)).1
    else rest.foldl (redWord r) x

/-- What a destination word becomes: its sources', or with RED its own value's with them (08 R204). -/
def State.destValue (s : State) (c : Command) (w : Nat) (old : Word) (vs : List Word) : State × Word :=
  if ctlRed c.ctl then s.redAll c w old vs
  else (s.endExact w, if c.kind == .coll then collSum c vs else vs.headD 0)

/-- A destination word written: landed, or in a scratchpad, or to the host (08 R204, R205).
(DEDUCED, notes/assumptions/41.md.) -/
def State.destWord (s : State) (id e : Nat) (c : Command) (q : CmdPlace) (vs : List Word) : State :=
  match q with
  | .gone => s
  | .scr k => s.scratchWrite (k / 4) (if c.kind == .coll then collSum c vs else vs.headD 0)
  | .mem q =>
    let w := q.key / 4
    if q.pol == 2 then
      let r := s.destValue c w (s.memWord w) vs
      r.1.setMem w r.2
    else
      let s0 := s.touchHost w
      let r := s0.destValue c w (s0.current w) vs
      let s1 := r.1.landWord e (c.party e) w r.2 c.ctx
      { s1 with cmds := match s1.cmds.find id with
          | some k => s1.cmds.set id { k with landed := k.landed.set w e, regions := k.regions.set w q.region }
          | none => s1.cmds }

/-- The beat a command performs next: its sources' addresses, its destination and its length (08 R198). -/
def Command.beat (c : Command) : List DWord × DWord × Nat :=
  let left := c.pieces.drop c.piece |>.dropWhile (fun p => p.len == 0)
  let p : CmdPiece := left.headD ⟨0, 0, 0⟩
  let off : DWord := BitVec.ofNat 64 c.at_
  let d := p.dst + off
  let n := min (512 - d.toNat % 512) (p.len - c.at_)
  (if c.kind == .coll then c.pieces.map (·.src + off) else [p.src + off], d, n)

/-- The command once a beat of n bytes has been performed. -/
def Command.advance (c : Command) (n : Nat) : Command :=
  let skip := (c.pieces.drop c.piece |>.takeWhile (fun p => p.len == 0)).length
  let i := if c.kind == .coll then 0 else c.piece + skip
  let len := ((c.pieces[i]?).map (·.len)).getD 0
  if c.kind != .coll && len ≤ c.at_ + n then { c with piece := i + 1, at_ := 0 } else { c with piece := i, at_ := c.at_ + n }

/-- A word's state is P where it lies in memory, or a byte of it is poisoned in a scratchpad. -/
def State.placePoison (s : State) (q : CmdPlace) : Bool :=
  match q with
  | .gone => false
  | .scr k => s.scratchBad (k / 4) 15
  | .mem q => q.pol != 2 && s.regOf (q.key / 4) == .p

/-- What holds a beat at a place: a forward of its line, or a write-block where it writes (04 R118; 05 R131). -/
def State.placeBusy (s : State) (q : CmdPlace) (write : Bool) : Bool :=
  match q with
  | .mem q => (write && q.wb) || (q.pol != 2 && s.lineHeld (q.key / 4))
  | _ => false

/-- The fault of one word of a beat: translation, then poison (04 R117; 05 R144). -/
def State.wordFault (s : State) (c : Command) (a : DWord) (n : Need) (poison : Bool) : Option (Nat × Nat × DWord) :=
  match s.cmdPlace c a n with
  | .error e => some (e.code, e.detail, a)
  | .ok q => if poison && s.placePoison q then some (fcPoison, 0, a) else none

/-- A destination word's old value is read: a reduction of it (08 R204). -/
def Command.readsDst (c : Command) : Bool := ctlRed c.ctl

/-- What a destination needs of its page: a reduction needs RD too (04 R116). -/
def Command.dstNeed (c : Command) : Need := { wr := true, rd := c.readsDst }

/-- A request of a command at an address, where it reaches a bank, is counted (04 R119). -/
def State.requestAt (s : State) (c : Command) (a : DWord) : State :=
  if cmdForm a != 0 then s
  else match s.xlateNow c.part c.ctx a {} with
    | .ok q => if q.pol == 2 then s else s.countDue (countOn c.part c.ctx a.toNat q.leaf) (lineOf (q.key / 4))
    | .error _ => s

/-- Offsets of a beat's words. -/
def beatWords (n : Nat) : List DWord := (List.range (n / 4)).map (fun i => BitVec.ofNat 64 (4 * i))

/-- The first fault of a beat. -/
def State.beatFault (s : State) (c : Command) : Option (Nat × Nat × DWord) :=
  let b := c.beat
  (beatWords b.2.2).findSome? (fun o =>
    (b.1.findSome? (fun a => s.wordFault c (a + o) { rd := true } true)).orElse (fun _ =>
      if c.port.isSome then none else s.wordFault c (b.2.1 + o) c.dstNeed c.readsDst))

/-- A beat waits. -/
def State.beatWaits (s : State) (c : Command) : Bool :=
  let b := c.beat
  let busy (a : DWord) (n : Need) (write : Bool) : Bool :=
    match s.cmdPlace c a n with
    | .ok q => s.placeBusy q write
    | .error _ => false
  (beatWords b.2.2).any (fun o => b.1.any (fun a => busy (a + o) { rd := true } false)
    || (c.port.isNone && busy (b.2.1 + o) c.dstNeed true))

/-- The place of an address that translates. (DEDUCED, notes/assumptions/41.md.) -/
def State.placeOf (s : State) (c : Command) (a : DWord) (n : Need) : CmdPlace :=
  match s.cmdPlace c a n with
  | .ok q => q
  | .error _ => .gone

/-- The sources of one word, read in order. -/
def State.sourceWords (s : State) (c : Command) (e : Nat) : List DWord → State × List Word
  | [] => (s, [])
  | a :: as =>
    let r := (s.requestAt c a).sourceWord (0x020 + e) (c.party e) (s.placeOf c a { rd := true })
    let q := r.1.sourceWords c e as
    (q.1, r.2 :: q.2)

/-- One word of a beat performed. -/
def State.beatWord (s : State) (id e : Nat) (c : Command) (srcs : List DWord) (d : DWord) : State :=
  let r := s.sourceWords c e srcs
  (r.1.requestAt c d).destWord id e c (r.1.placeOf c d c.dstNeed) r.2

/-- The words of a port's beat, read and sent as bulk data (15 R403, R404). -/
def State.sendBeat (s : State) (e port : Nat) (c : Command) : State :=
  let b := c.beat
  let r := s.sourceWords c e ((beatWords b.2.2).map (fun o => b.1.headD 0 + o))
  let pt : Port := r.1.ports.get {} port
  { r.1 with ports := r.1.ports.set port { pt with
      sent := pt.sent ++ [.data b.2.1 r.2 (ctlRed c.ctl) (BitVec.ofNat 2 (ctlRty c.ctl))] } }

/-- A command that faults: its grid is charged, or its thread's queue, and its remainder becomes a replay entry
(04 R117; 14 R363). DESIGN CHOICE (notes/assumptions/79.md): a conductor thread's command goes to the replay ring, as a
faulted grid's does, and neither its place in its status queue nor its tag's count ends; a port's descriptor ends with no
status word. -/
def State.commandFault (s : State) (id : Nat) (c : Command) (eng : EngineId) (code detail : Nat) (a : DWord) : State :=
  let s1 := s.lateFault c.part c.grid c.ctx c.agent code detail c.pc a eng
  if c.port.isSome then s1.dropCommand id
  else if c.grid == 0 then s1.killCommand id
  else { s1 with cmds := match s1.cmds.find id with
    | some k => s1.cmds.set id { k with stopped := true }
    | none => s1.cmds }

/-- The command that an engine runs. -/
def State.runningOn (s : State) (e : Nat) : Option (Nat × Command) := (s.cmds.pick (fun _ c => c.running == some e)).head?

/-- A command changed where it stands. -/
def State.updCmd (s : State) (id : Nat) (f : Command → Command) : State :=
  match s.cmds.find id with
  | some c => { s with cmds := s.cmds.set id (f c) }
  | none => s

/-- An engine's next beat goes out: its command runs, nothing holds the engine back, and every word translates and
meets no poison. -/
def State.beatGoes (s : State) (e : Nat) (c : Command) : Bool :=
  !((s.part c.part).holds (.copy e) || c.stopped || !c.forks.isEmpty || c.finished) && (s.beatFault c).isNone && !s.beatWaits c

/-- The virtual addresses that a range of a command begins and ends at. -/
def spanOf (a : DWord) (n : Nat) : List Nat := if cmdForm a == 0 && n != 0 then [a.toNat, a.toNat + n - 4] else []

/-- The virtual addresses of a beat, whose pages are walked (04 R112). -/
def Command.beatAddrs (c : Command) : List Nat :=
  let b := c.beat
  b.1.flatMap (fun a => spanOf a b.2.2) ++ (if c.port.isSome then [] else spanOf b.2.1 b.2.2)

/-- A port's command whose bytes are all sent sends the message that completes it, and leaves its engine (15 R404). -/
def State.sendDone (s : State) (id port : Nat) : State :=
  match s.cmds.find id with
  | some c =>
    if !c.finished then s
    else
      let pt : Port := s.ports.get {} port
      { s with cmds := s.cmds.set id { c with running := none, sent := true },
               ports := s.ports.set port { pt with sent := pt.sent ++ [.complete (descPair c.desc 8) (c.desc.getD 10 0)] } }
  | none => s

/-- A beat performed, its pages translated: a fault stops the command; each line that it reads or writes is one request
(17 R422). -/
def State.beatNow (s : State) (e id : Nat) (c : Command) : State :=
    match s.beatFault c with
      | some (code, detail, a) => s.commandFault id c (.copy e) code detail a
      | none =>
        if s.beatWaits c then s
        else
          let b := c.beat
          let step (t : State) : State := (t.oncePerLine s.counts.length).updCmd id (fun k => k.advance b.2.2)
          match c.port with
          | some port => (step (s.sendBeat e port c)).sendDone id port
          | none =>
            step (((beatWords b.2.2).foldl (fun (t : State) o => t.beatWord id e c (b.1.map (· + o)) (b.2.1 + o)) s).countEvent
              c.part c.ctx 14 b.2.2)

/-- COPY_BEAT: an engine performs its command's next beat (08 R198, R204), once nothing holds the beat and the walks of its
pages can run (04 R112). -/
def State.copyBeat (s : State) (e : Nat) : State :=
  match s.runningOn e with
  | none => s
  | some (id, c) =>
    if (s.part c.part).holds (.copy e) || c.stopped || !c.forks.isEmpty then s
    else match c.finished, c.port with
      | true, some port => s.sendDone id port
      | true, none => s
      | false, _ =>
        if (s.beatFault c).isNone && s.beatWaits c then s else s.walked c.part c.ctx c.beatAddrs (·.beatNow e id c)

def execCopyBeat (engine : Nat) (s : State) : Out := .next (s.copyBeat engine)

/-! ### The weight loader (12 R313 to R315) -/

/-- Who a weight load's reads belong to: the issuing core (05 R140, R141). -/
def Command.loaderParty (c : Command) : Party :=
  { part := c.part, ctx := c.ctx, grid := c.grid, agent := c.agent, issuer := c.core, mode := c.racemode, pc := c.pc,
    engine := .matrix c.core }

/-- The leaf of a source page, with its read permission. -/
def State.leafNow (s : State) (p ctx : Nat) (a : DWord) : Except XErr Leaf :=
  if 2 ^ 56 ≤ a.toNat then .error (xerr 1)
  else match s.walkPage p ctx a.toNat with
    | .error f => .error f.e
    | .ok (leaf, _) => match leaf.denies { rd := true } with
      | some x => .error x
      | none => .ok leaf

/-- Consecutive source words read at the bank, or the fault of the first that has one. -/
def State.loadWords8 (s : State) (c : Command) : List DWord → Except (Nat × Nat × DWord) (State × List Word)
  | [] => .ok (s, [])
  | a :: as =>
    match s.wordFault c a { rd := true } true with
    | some f => .error f
    | none =>
      let r := (s.requestAt c a).sourceWord (c.core / 8) c.loaderParty (s.placeOf c a { rd := true })
      match r.1.loadWords8 c as with
      | .error f => .error f
      | .ok (t, ws) => .ok (t, r.2 :: ws)

/-- The bytes of words. -/
def bytesOf (ws : List Word) : List Byte :=
  ws.flatMap (fun w => (List.range 4).map (fun i => BitVec.ofNat 8 (w.toNat / 2 ^ (8 * i))))

/-- One block of a panel: its scale byte, and its element bytes where it is no zero block (12 R314). -/
def State.loadBlock (s : State) (c : Command) (src : DWord) (bytes b : Nat) :
    Except (Nat × Nat × DWord) (State × Byte × List Byte) :=
  let a := src + BitVec.ofNat 64 (bytes * b)
  let read (t : State) (k : Byte) (zero : List Byte → Bool) : Except (Nat × Nat × DWord) (State × Byte × List Byte) :=
    match t.loadWords8 c ((List.range (bytes / 4)).map (fun i => a + BitVec.ofNat 64 (4 * i))) with
    | .error f => .error f
    | .ok (t1, ws) => if zero (bytesOf ws) then .ok (t1, 0x80, []) else .ok (t1, k, bytesOf ws)
  if c.ty != 0 then
    read s 0 (fun bs => (List.range 32).all (fun i => bs.getD (2 * i) 0 == 0 && (bs.getD (2 * i + 1) 0 &&& 0x7F) == 0))
  else match s.leafNow c.part c.ctx a with
    | .error e => .error (e.code, e.detail, a)
    | .ok leaf =>
      match s.scalePlace c.part a.toNat leaf with
      | .error e => .error (e.code, e.detail, a)
      | .ok q =>
        let q1 : CmdPlace := .mem { q with key := q.key / 4 * 4 }
        if s.placePoison q1 then .error (fcPoison, 0, a)
        else
          let counter := if q.pol == 2 then none else countOn c.part c.ctx a.toNat leaf
          let r := (s.countDue counter (lineOf (q.key / 4))).sourceWord (c.core / 8) c.loaderParty q1
          let k : Byte := BitVec.ofNat 8 (r.2.toNat / 2 ^ (8 * (q.key % 4)))
          if k == 0x80 then .ok (r.1, 0x80, []) else read r.1 k (fun bs => bs.all (· == 0))

/-- Blocks of a panel in order from one of them on: scale bytes and element bytes. -/
def State.loadBlocks (s : State) (c : Command) (src : DWord) (bytes b : Nat) :
    Nat → Except (Nat × Nat × DWord) (State × List (Byte × List Byte))
  | 0 => .ok (s, [])
  | n + 1 =>
    match s.loadBlock c src bytes b with
    | .error f => .error f
    | .ok (t, k, es) =>
      match t.loadBlocks c src bytes (b + 1) n with
      | .error f => .error f
      | .ok (u, bs) => .ok (u, (k, es) :: bs)

/-- The tag a panel takes, none where its page is not formatted as ty 0 asks (12 R299, R313, R314). -/
def State.panelFormat (s : State) (c : Command) (src : DWord) : Except (Nat × Nat × DWord) Nat :=
  if c.ty == 5 then .ok 65
  else if c.ty == 6 then .ok 66
  else if cmdForm src != 0 then .error (fcEngineCommand, 0, 0)
  else match s.leafNow c.part c.ctx src with
    | .error e => .error (e.code, e.detail, src)
    | .ok leaf => if !leaf.fmt || leaf.geom == 0 then .error (fcEngineCommand, 0, 0) else .ok (1 + leaf.fcode)

/-- One beat of the panel that a loader's command has at hand: the blocks of its next 512 bytes (12 R314, R318). -/
def State.loadBeat (s : State) (c : Command) (p : CmdPiece) : Except (Nat × Nat × DWord) (State × Nat × List (Byte × List Byte)) :=
  match s.panelFormat c p.src with
  | .error f => .error f
  | .ok tag =>
    if c.at_ != 0 && tag != c.tag then .error (fcEngineCommand, 0, 0)
    else
      let bytes := if c.ty == 0 then 32 else 64
      match s.loadBlocks c p.src bytes (c.at_ / bytes) (512 / bytes) with
      | .error f => .error f
      | .ok (t, bs) => .ok (t, tag, bs)

/-- Lines that the loader's next beat reads are held by a forward. -/
def State.loadWaits (s : State) (c : Command) (p : CmdPiece) : Bool :=
  !s.forwards.isEmpty && (List.range 4).any (fun i =>
    match s.cmdPlace c (p.src + BitVec.ofNat 64 (c.at_ + 128 * i)) { rd := true } with
    | .ok q => s.placeBusy q false
    | .error _ => false)

/-- A loader's beat has been read: its blocks are on their way into the weight buffer, where an mma may meet each of them
(12 R314, R315). -/
def State.stageBeat (s : State) (id : Nat) (c : Command) (tag : Nat) (bs : List (Byte × List Byte)) : State :=
  s.updCmd id (fun k => { k with at_ := k.at_ + 512, staged := c.staged ++ bs, tag := tag })

/-- A panel whose beats have all been read takes its place in the weight buffer (12 R314). -/
def State.placePanel (s : State) (id : Nat) (c : Command) (p : CmdPiece) : State :=
  (s.updCore c.core (fun k => k.putPanel c.half p.dst.toNat c.tag c.staged)).updCmd id (fun k =>
    { k with piece := k.piece + 1, at_ := 0, staged := [], tag := 0 })

/-- An mldb whose panels are all loaded completes: the gong and tag updates of 08 R206 (12 R314). -/
def State.loadDone (s : State) (id : Nat) : State :=
  match s.cmds.find id with
  | none => s
  | some c => if c.pieces.length ≤ c.piece then ((s.gongUpdate c).tagUpdate c).dropCommand id else s

/-- WEIGHT_LOAD_COMPLETE: the loader of a core performs the next 512-byte beat of the mldb at the head of its queue, places
a panel whose beats it has performed, and with the last panel completes it (12 R314, R318; 14 R352).
(DESIGN CHOICE, notes/assumptions/40.md.) -/
def State.loadWeights (s : State) (id : Nat) : State :=
  match s.cmds.find id with
  | none => s
  | some c =>
    if c.kind != .mldb || (s.loads c.core).head? != some id || !c.forks.isEmpty
        || (s.part c.part).holds (.matrix c.core) then s
    else match c.pieces[c.piece]? with
      | none => s.loadDone id
      | some p =>
        if p.len ≤ c.at_ then (s.placePanel id c p).loadDone id
        else if s.loadWaits c p then s
        else s.walked c.part c.ctx (spanOf (p.src + BitVec.ofNat 64 c.at_) 512) fun s =>
        match s.loadBeat c p with
          | .error (code, detail, a) => s.commandFault id c (.matrix c.core) code detail a
          | .ok (t, tag, bs) => (t.oncePerLine s.counts.length).stageBeat id c tag bs

def execWeightLoadComplete (cmd : Nat) (s : State) : Out := .next (s.loadWeights cmd)

/-! ### Call replies (08 R221) -/

/-- A word of a partition's guest-physical memory read at the bank by an agent. -/
def State.readGpa (s : State) (a : Agent) (at_ : Nat) : State × Word :=
  match s.gpa a.part at_ with
  | .error _ => (s, 0)
  | .ok (d, _, _) => s.takeAt a.owner (d / 4) 0
      { part := a.part, ctx := a.ctx, grid := a.grid, agent := a.id, issuer := issuerCode a.core a.id,
        mode := a.racemode.toNat, pc := 0, engine := a.engine }

/-- A pending call whose record carries its reply sequence takes its reply word. -/
def State.fetchReply (s : State) (id : Nat) (k : Call) : State :=
  match s.agent id with
  | none => s
  | some a =>
    let held := match s.gpa a.part (k.record + 320 + 4 * k.pos) with
      | .ok (d, _, _) => s.lineHeld (d / 4)
      | .error _ => false
    if held || k.reply.isSome || k.cancelled || (s.getGpa a.part (k.record + 32) 1).headD 0 != k.seq then s
    else
      let r := s.readGpa a (k.record + 320 + 4 * k.pos)
      r.1.updAgent id (fun a => { a with calls := a.calls.map (fun c =>
        if c.pos == k.pos && c.record == k.record && c.seq == k.seq then { c with reply := some r.2 } else c) })

/-- CALL_REPLY_FETCH: the replies of an agent's answered records are read and held (08 R221). -/
def execCallReplyFetch (agent : Nat) (s : State) : Out :=
  .next (match s.agent agent with
    | some a => a.calls.foldl (fun (t : State) k => t.fetchReply agent k) s
    | none => s)

/-! ### The matrix unit (12 R316) -/

/-- MMA_ROWS_READY: the oldest mma's rows are ready. -/
def execMmaRowsReady (core : Nat) (s : State) : Out := .next (s.updCore core (fun c => { c with mma := c.mma.tail }))

/-! ### Requests to the host (14 R362) -/

/-- The poison map's record of a host request that timed out (14 R376). -/
def State.hostRecord (s : State) (p ctx who w : Nat) : State := s.poisonRecord p (s.recordAddr w) 8 ctx who 0

/-- The word key of a command's address in host memory that nothing of the package holds (POL 2). -/
def State.hostWord (s : State) (c : Command) (n : Need) (a : DWord) : Option Nat :=
  match s.cmdPlace c a n with
  | .ok (.mem q) => if q.pol == 2 then some (q.key / 4) else none
  | _ => none

/-- A read of an access returns poison, and a write of it is dropped. -/
def State.pieceTimeout (s : State) (req : Nat) : State :=
  match s.pieceOf req with
  | none => s
  | some (a, p) =>
    if p.done || a.path p != .host then s
    else if !a.kind.reads && !s.mayWrite req a p then s
    else
      let s1 := s.hostRecord a.part a.ctx (if a.core < 256 then a.core else a.agent - 8192) p.key
      match a.kind with
      | .atomic _ => s1.atomPoison req a p (a.partner req)
      | _ => s1.donePiece req { p with poison := a.kind.returns }

/-- A copy engine's beat: a source word that the host does not return is poison, which stops its command (05 R144); what
it writes to the host is dropped, and its command goes on. -/
def State.beatTimeout (s : State) (e : Nat) : State :=
  match s.runningOn e with
  | none => s
  | some (id, c) =>
    if !s.beatGoes e c then s
    else
      let b := c.beat
      let os := beatWords b.2.2
      match (os.flatMap (fun o => b.1.map (· + o))).find? (fun a => (s.hostWord c { rd := true } a).isSome) with
      | some a => (s.hostRecord c.part c.ctx (0x020 + e) ((s.hostWord c { rd := true } a).getD 0)).commandFault id c (.copy e)
          fcPoison 0 a
      | none =>
        match (if c.port.isSome then [] else os.filterMap (fun o => s.hostWord c c.dstNeed (b.2.1 + o))) with
        | [] => s
        | w :: ws =>
          let s1 := os.foldl (fun (t : State) o => (t.sourceWords c e (b.1.map (· + o))).1) s
          ((w :: ws).foldl (fun (t : State) w => t.hostRecord c.part c.ctx (0x020 + e) w) s1).updCmd id (fun k => k.advance b.2.2)

/-- A weight loader's read that the host does not return is poison, which stops its command (05 R144; 12 R314). -/
def State.loaderTimeout (s : State) (core : Nat) : State :=
  match s.loads core with
  | [] => s
  | id :: _ => match s.cmds.find id with
    | none => s
    | some c =>
      match (s.part c.part).holds (.matrix c.core) || !c.forks.isEmpty, c.pieces[c.piece]? with
      | false, some p =>
        if p.len ≤ c.at_ then s
        else
        let a := p.src + BitVec.ofNat 64 c.at_
        (match s.hostWord c { rd := true } a with
        | some w => (s.hostRecord c.part c.ctx c.core w).commandFault id c (.matrix c.core) fcPoison 0 a
        | none => s)
      | _, _ => s

/-- A fill of the last-level cache from the host returns poison for the whole line; a dirty line's write to the host is
dropped as the line is replaced (05 R126, R144; 15 R390). -/
def State.lineTimeout (s : State) (l : Nat) : State :=
  match s.partOfLine l with
  | none => s
  | some p =>
    if 128 * l < hostCopyBase || hostBase ≤ 128 * l || (s.forwards.find l).isSome then s
    else if (s.hostLines.find l).isNone then
      ({ s with hostLines := s.hostLines.set l false }.fillWay l).poisonLine p l 8
    else
      let b := s.lines.get {} l
      let s1 := (s.writeBackLine l b.own0).writeBackLine l b.own1
      if s1.hostLines.get false l then
        ({ s1 with hostLines := s1.hostLines.set l false }.replaceLine l).hostRecord p 0xFF 0 (32 * l)
      else s

/-- What a HOST_COMPLETION_TIMEOUT names: a line of the last-level cache, a core's weight loader, a copy engine, or a
piece of an access. (DESIGN CHOICE, notes/assumptions/76.md.) -/
inductive HostReq where
  | line (l : Nat)
  | loader (core : Nat)
  | engine (e : Nat)
  | piece (req : Nat)
  deriving DecidableEq, Repr

/-- The request of a number: lines from 2^70 on, loaders from 2^69 on, engines from 2^68 on, pieces below. -/
def hostReq (req : Nat) : HostReq :=
  if 2 ^ 70 ≤ req then .line (req - 2 ^ 70)
  else if 2 ^ 69 ≤ req then .loader (req - 2 ^ 69)
  else if 2 ^ 68 ≤ req then .engine (req - 2 ^ 68)
  else .piece req

/-- HOST_COMPLETION_TIMEOUT: a read returns poison; a write is dropped; the poison map records it (14 R362, R376). -/
def State.hostTimeout (s : State) (req : Nat) : State :=
  match hostReq req with
  | .line l => s.lineTimeout l
  | .loader core => s.loaderTimeout core
  | .engine e => s.beatTimeout e
  | .piece r => s.pieceTimeout r

def execHostCompletionTimeout (req : Nat) (s : State) : Out := .next (s.hostTimeout req)

end Sys2Proof.Machine
end

