-- ==== Sys2Proof/Machine/Paired.lean ====
section
/-! DEFINITION. The paired word (02 R46, R47; 10 R272): each slot as the full-word operation of its name. -/

namespace Sys2Proof.Machine

/-- The signed immediate of a slot (02 R46). -/
def slotImm (m : BitVec 5) : DWord := m.signExtend 64

/-- One lane of a slot: the result for d from the old d and from b, and its status (10 R272). -/
def slotVal (op : SlotOp) (t : Ty) (m : BitVec 5) (rnd : Rnd) (d b : DWord) : DWord × Nat :=
  let fp := fmtOf t
  match op with
  | .nop => (d, 0)
  | .iadd => plain (wrapTo t (ival t d + ival t b))
  | .isub => plain (wrapTo t (ival t d - ival t b))
  | .imul => plain (wrapTo t (ival t d * ival t b))
  | .imin => plain (wrapTo t (min (ival t d) (ival t b)))
  | .imax => plain (wrapTo t (max (ival t d) (ival t b)))
  | .and => plain (d &&& b)
  | .or => plain (d ||| b)
  | .xor => plain (d ^^^ b)
  | .andn => plain (d &&& ~~~b)
  | .shl => plain (shiftLeft t d (uval .n32 b))
  | .shr => plain (shiftRight t d (uval .n32 b))
  | .sar => plain (shiftArith t d (uval .n32 b))
  | .mov => plain b
  | .not => plain (bitNot t b)
  | .popc => plain (BitVec.ofNat 64 (popCount (uval t b) 32))
  | .clz => plain (BitVec.ofNat 64 (leadingZeros (uval t b) 32))
  | .iaddi => plain (wrapTo t (ival t d + (slotImm m).toInt))
  | .shli => plain (shiftLeft t d m.toNat)
  | .shri => plain (shiftRight t d m.toNat)
  | .sari => plain (shiftArith t d m.toNat)
  | .movi => plain (slotImm m)
  | .icmp => plain (boolVal (intCond t m.toNat d b))
  | .fadd => zipElems t d b (fun _ x y => fpAdd fp rnd x y)
  | .fsub => zipElems t d b (fun _ x y => fpSub fp rnd x y)
  | .fmul => zipElems t d b (fun _ x y => fpMul fp rnd x y)
  | .fmin => zipElems t d b (fun _ x y => fpMinMax fp false x y)
  | .fmax => zipElems t d b (fun _ x y => fpMinMax fp true x y)
  | .fabs => mapElems t b (fun _ x => (fpAbs fp x, 0))
  | .fneg => mapElems t b (fun _ x => (fpNeg fp x, 0))
  | .fcmp => fcmpVal t m.toNat d b

/-- Slots that read d (02 R46). -/
def slotReadsD : SlotOp → Bool
  | .nop | .mov | .not | .popc | .clz | .movi | .fabs | .fneg => false
  | _ => true

/-- The registers a slot names, and those it reads. -/
def slotNamed (x : Slot) : List Nat :=
  if x.op == .nop then [] else x.d.toNat :: (if x.op.readsB then [x.b.toNat] else [])
def slotSources (x : Slot) : List Nat :=
  (if slotReadsD x.op then [x.d.toNat] else []) ++ (if x.op.readsB then [x.b.toNat] else [])

/-- A slot's result in a lane: its write, and the status it sets. -/
def State.slotOut (s : State) (x : Slot) (l : Nat) : LaneOut :=
  if x.op == .nop then ⟨[], 0, 0⟩
  else
    let r := slotVal x.op x.ty x.m (s.mode (x.m.setWidth 3) false l 0)
      ((s.reg l x.d.toNat).setWidth 64) ((s.reg l x.b.toNat).setWidth 64)
    ⟨[(l, x.d.toNat, lo32 r.1)], r.2, 0⟩

/-- Both slots read all their sources, for all lanes, before either writes (02 R47). -/
def execPairedWord (p : PairWord) (s : State) : Out :=
  .next (s.guarded 0 false (slotNamed p.s0 ++ slotNamed p.s1) (slotSources p.s0 ++ slotSources p.s1)
    (fun act => s.finish (act.flatMap (fun l => [s.slotOut p.s0 l, s.slotOut p.s1 l]))))

end Sys2Proof.Machine
end

