-- ==== Sys2Proof/Machine/Fetch.lean ====
section
/-! DEFINITION. Fetching a word (02 R30, R31, R54) and the interlock of pending registers (09 R231). -/

namespace Sys2Proof.Machine

/-- What a fetch gives. -/
inductive Fetched where
  | word (w : DWord)
  | fault (code detail : Nat)
  | miss (page : Nat)
  deriving DecidableEq, Repr

/-- The word at a place: its two halves at one moment. -/
def State.wordAt (s : State) (q : Place) : Fetched :=
  let k := q.key / 4
  if q.pol == 2 then .word (pair64 (s.memWord k) (s.memWord (k + 1)))
  else if s.regOf k == .p || s.regOf (k + 1) == .p then .fault fcPoison 0
  else .word (pair64 (s.current k) (s.current (k + 1)))

/-- The word at a place as the issuing agent may still see it: at its grid's launch boundary, or as a conductor thread
fetched it first (02 R31). -/
def State.oldWord (s : State) (q : Place) : Option DWord :=
  if s.me.isWarp then
    ((s.part s.me.part).grids.find s.me.grid).bind (fun g => g.code.map (fun m =>
      let k := if g.codeLines.contains (lineOf (q.key / 4)) then q.key / 4 else throughKey (q.key / 4)
      pair64 (Memory.word m k) (Memory.word m (k + 1))))
  else s.me.fetched.find (s.issuePc.toNat / 8)

/-- A word that is fetched, where software has written it since: the old word or the new one, by a free value for each
fetch (02 R31). DESIGN CHOICE (notes/assumptions/77.md): a conductor thread, too, may find the old word or the new one
until its next acquire. -/
def State.oldOrNew (s : State) (old : Option DWord) (new : DWord) : State × DWord :=
  match old with
  | none => (s, new)
  | some w => if w == new then (s, new) else (s.takeFree, if Config.choice s.free % 2 == 0 then w else new)

/-- A fetch reaches the place of its word: it is counted, and its line is filled (04 R119; 05 R126). -/
def State.reachCode (s : State) (q : Place) : State :=
  if q.pol == 2 then s
  else (((s.countDue (s.counterOf s.issuePc.toNat q.leaf) (lineOf (q.key / 4))).touchHost (q.key / 4)).countMiss
    s.me.part (countsIn s.me.id s.me.ctx) (lineOf (q.key / 4))).fillWay (lineOf (q.key / 4))

/-- The issuing agent's word at `issuePc`, which a conductor thread keeps until its next acquire (02 R31). -/
def State.fetch (s : State) : State × Fetched :=
  match s.locate .g s.issuePc { ex := true } with
  | .fault e => (s, .fault e.code e.detail)
  | .miss page => (s, .miss page)
  | .place q =>
    let s1 := s.reachCode q
    match s1.wordAt q with
    | .word w =>
      let r := s1.oldOrNew (s.oldWord q) w
      (if r.1.me.isWarp then r.1
        else r.1.updMe (fun a => { a with fetched := a.fetched.set (s.issuePc.toNat / 8) r.2 }), .word r.2)
    | r => (s1, r)

/-! ### The interlock (09 R231) -/

/-- A word that reads or writes %iexc or %fexc by name, which waits for the status of every earlier word (09 R228, R230;
10 R252). (DEDUCED, notes/assumptions/73.md.) -/
def namesFexc : Instr → Bool
  | .smov w => w.a.toNat == 17 || w.a.toNat == 18
  | .smovw w => w.a.toNat == 17 || w.a.toNat == 18
  | _ => false

/-- The registers a word reads or writes, its guard among them (09 R231). -/
def Instr.named (i : Instr) : List Nat :=
  let guard (g : BitVec 8) : List Nat := if g == 0 then [] else [g.toNat]
  match i.fields with
  | .w3 major fn w => guard w.g ++ (match w3Shape major fn w with
      | some h => w3Named h w
      | none => [])
  | .wi _ fn w => (if fn == 10 then [w.d.toNat] else fieldRegs .tyf w.ty w.d)
      ++ (if fn == 8 then [] else if fn == 9 then [] else fieldRegs .tyf w.ty w.a)
  | .wm major fn w => guard w.g ++ addrRegs w.sp w.a ++ (if major == 0x18 && fn == 4 then [] else groupRegs w.d w.sz.toNat)
  | .wb _ fn w => guard w.g ++ (match fn with
      | 1 | 3 | 4 | 5 => pairRegs w.reg
      | 2 => [w.reg.toNat]
      | _ => [])
  | .pair p => slotNamed p.s0 ++ slotNamed p.s1
  | .word | .step => []

/-- The pending write that a word of an agent awaits: of its lowest-numbered such register (09 R231; 16 R408). -/
def Agent.awaits (a : Agent) (i : Instr) : Option Pend :=
  let ns := if namesFexc i then 256 :: Instr.named i else Instr.named i
  (a.pend.filter (fun p => ns.contains (rowReg p.row))).foldl (fun m p => match m with
    | none => some p
    | some q => if rowReg p.row < rowReg q.row then some p else some q) none

/-- The group at an address may issue as far as parks go: it has threads, and no unfinished wait holds it. -/
def Agent.open_ (a : Agent) (pc : DWord) : Bool :=
  !(a.groupAt pc).isEmpty && (match a.parkAt pc with
    | none => true
    | some p => p.done || p.ready)

/-- The addresses of an agent's groups, by its lowest threads. -/
def Agent.groupPcs (a : Agent) : List DWord :=
  ((a.threads.filter (fun t => t.st == .runnable)).map (·.pc)).eraseDups

end Sys2Proof.Machine
end

