-- ==== Sys2Proof/Machine/Sched.lean ====
section
/-! DEFINITION. The scheduler of a core and what it delivers to warps and threads: the three sets (13 R342 to R345), the
end of a fuse wait (09 R239), the watchdog (14 R357), PREEMPT (14 R359) and the stall sampler (16 R408). -/

namespace Sys2Proof.Machine

/-! ### The three sets (13 R342) -/

/-- Places of a core's active set. -/
def activePlaces : Nat := 8

/-- Some group of an agent may issue, as far as parks go. -/
def Agent.anyOpen (a : Agent) : Bool := a.groupPcs.any a.open_

/-- A warp of the pending set that may be chosen. -/
def Agent.readyPending (a : Agent) : Bool := a.isWarp && a.sched == .pending && a.halted == .none && a.anyOpen

/-- A warp that takes an active place. -/
def Agent.inActive (a : Agent) : Bool := a.isWarp && a.sched == .active && a.halted == .none

/-- A warp enters the pending set. -/
def Agent.toPending (a : Agent) (tick : Nat) : Agent := { a with sched := .pending, readySince := tick, cache := [] }

/-- The moves that its own groups bring about: parked where every group waits, pending once one may go on (13 R342). -/
def Agent.regroup (a : Agent) (tick : Nat) : Agent :=
  if !a.isWarp then a
  else match a.sched with
    | .active => if a.halted != .none then a.toPending tick else if a.anyOpen then a
      else { a with sched := .parked, cache := [], spinning := false }
    | .parked => if a.anyOpen then a.toPending tick else a
    | .pending => a

/-- Warps of a core that a test picks. -/
def State.coreWarps (s : State) (core : Nat) (f : Agent → Bool) : List Agent :=
  s.agents.filter (fun a => a.isWarp && a.core == core && f a)

/-- The first of a list under a strict order, earlier ones on a tie by slot. -/
def firstBy (key : Agent → Nat) : List Agent → Option Agent
  | [] => none
  | a :: as =>
    match firstBy key as with
    | none => some a
    | some b => if key a < key b || (key a == key b && a.slot < b.slot) then some a else some b

/-- The pending warp promoted next: the longest-ready one that is not spinning, else a spinning one (13 R345). -/
def nextPending (ws : List Agent) : Option Agent :=
  match firstBy (·.readySince) (ws.filter (fun a => !a.spinning)) with
  | some a => some a
  | none => firstBy (·.readySince) ws

/-- A warp enters its core's active set. -/
def State.promote (s : State) (id : Nat) : State :=
  ({ s with nextId := s.nextId + 1 }).updAgent id (fun a => { a with sched := .active, entered := s.nextId })

/-- Free places of a core's active set are filled (13 R342, R345). -/
def State.fillCore (s : State) (core : Nat) : Nat → State
  | 0 => s
  | n + 1 =>
    if activePlaces ≤ (s.coreWarps core Agent.inActive).length then s
    else match nextPending (s.coreWarps core Agent.readyPending) with
      | none => s
      | some a => (s.promote a.id).fillCore core n

/-- THE SETS AFTER A STEP: warps move as their groups park and wake, and free places are filled (13 R342). -/
def State.schedule (s : State) : State :=
  let s1 := { s with me := s.me.regroup s.tick, others := s.others.mapV (·.regroup s.tick) }
  ((s1.agents.filter Agent.readyPending).map Agent.core).eraseDups.foldl (fun (t : State) c => t.fillCore c activePlaces) s1

/-- A spinning active warp to demote first, the one that entered earliest (13 R345). -/
def firstSpinning (ws : List Agent) : Option Agent := firstBy (·.entered) (ws.filter (·.spinning))

/-- The active warp that a rotation demotes: a spinning one first, else the one that entered earliest (13 R344). -/
def rotated (ws : List Agent) : Option Agent :=
  match firstSpinning ws with
  | some a => some a
  | none => firstBy (·.entered) ws

/-- WARP_ROTATION: a pending warp ready for 128 clk takes the place of an active one where none is free (13 R344). -/
def State.rotate (s : State) (core : Nat) : State :=
  let act := s.coreWarps core Agent.inActive
  match firstBy (·.readySince) (s.coreWarps core Agent.readyPending), rotated act with
  | some p, some a =>
    if s.tick < p.readySince + s.clkTicks (dieOf core) 128 || act.length < activePlaces then s
    else (s.updAgent a.id (·.toPending s.tick)).promote p.id
  | _, _ => s

def execWarpRotation (core : Nat) (s : State) : Out := .next (s.rotate core)

/-- SPIN_DEMOTION: a spinning warp leaves the active set while a warp that is not spinning is ready and the set is full
or holds more than six spinning warps (13 R345). -/
def State.demoteSpin (s : State) (core : Nat) : State :=
  let act := s.coreWarps core Agent.inActive
  let wanting := s.coreWarps core (fun a => a.readyPending && !a.spinning)
  match firstSpinning act with
  | none => s
  | some a =>
    if wanting.isEmpty || (act.length < activePlaces && (act.filter (·.spinning)).length ≤ 6) then s
    else ((s.updAgent a.id (·.toPending s.tick)).countEvent a.part a.ctx 7 1).schedule

def execSpinDemotion (core : Nat) (s : State) : Out := .next (s.demoteSpin core)

/-! ### The end of a fuse wait (09 R239) -/

/-- FUSE_WAIT_EXPIRY: 1,024 clk after its issue, or once its partner has ended, a fuse results in 1. -/
def State.fuseExpiry (s : State) (id : Nat) : State :=
  match s.agent id with
  | none => s
  | some a =>
    match a.parks.find? (fun p => p.fusing && !p.done) with
    | none => s
    | some p =>
      match p.wait with
      | .fuse d => if a.halted != .none then s else s.during id p.pc (fun t =>
          let gone := match t.fuseCheck with
            | .error k => k == 1
            | .ok _ => false
          if p.t0 + t.clkTicks (dieOf t.me.core) 1024 ≤ t.tick || gone then (t.codeTo d t.group 1).retire else t)
      | _ => s

def execFuseWaitExpiry (agent : Nat) (s : State) : Out := .next (s.fuseExpiry agent)

/-! ### The watchdog (14 R357) -/

/-- XWDOG's period in ticks; 0 where it is disabled. -/
def State.watchPeriod (s : State) (p : Nat) : Nat := (s.preg p 0x22 % 2 ^ 32) * 1024

/-- A warp or a user-level conductor thread that has issued nothing for one period, the time at a stop point apart. -/
def State.overdue (s : State) (a : Agent) : Bool :=
  s.watchPeriod a.part != 0 && a.halted == .none && a.heldSince.isNone && (a.isWarp || (a.runs && a.level == .user))
    && a.threads.any Thread.live && decide (a.lastIssue + s.watchPeriod a.part ≤ s.tick)

/-- WATCHDOG is raised at the next word of an agent that is overdue. -/
def State.watchdog (s : State) (id : Nat) : State :=
  match s.agent id with
  | none => s
  | some a =>
    if s.overdue a then s.during id a.nextPc (fun t => t.faultHere fcWatchdog (t.me.threads.findIdx Thread.live)) else s

def execWatchdog (agent : Nat) (s : State) : Out := .next (s.watchdog agent)

/-! ### PREEMPT (14 R359) -/

def execPreemptDelivery (agent : Nat) (s : State) : Out :=
  .next (s.during agent (match s.agent agent with
    | some a => a.nextPc
    | none => 0) State.deliverPreempt)

/-! ### The stall sampler (16 R408) -/

/-- The pending write that the word of an agent at `pc` awaits. -/
def State.waitsFor (s : State) (id : Nat) (pc : DWord) : Option Pend :=
  let t := s.focus id pc
  match t.fetch.2 with
  | .word w => (match decode w with
    | .ok i => t.me.awaits i
    | .error _ => none)
  | _ => none

/-- The sample of a word that waits for nothing but a register, if for that. -/
def State.registerWait (s : State) (a : Agent) (pc : DWord) : Nat × DWord :=
  match s.waitsFor a.id pc with
  | some q => (1, q.pc)
  | none => (0, 0)

/-- The reason of a sample, and its producer's address. A word parked for a register awaits the word whose write it
is. Reasons 2 and 3 are of the clock alone (notes/assumptions/9.md). -/
def State.stallReason (s : State) (a : Agent) : Nat × DWord :=
  let pc := a.nextPc
  let held := ((a.threads.find? Thread.live).map Thread.st).any (· != ThreadSt.runnable)
  if a.halted != .none then (7, 0)
  else if a.sched == .pending then (6, 0)
  else if held then (5, 0)
  else match a.parkAt pc with
    | some p =>
      (match p.wait with
      | .reg n => (match a.pend.find? (fun q => q.req == n) with
        | some q => (1, q.pc)
        | none => s.registerWait a pc)
      | _ => if p.done then (0, 0) else (4, 0))
    | none => s.registerWait a pc

/-- The next occupied slot of a core from a slot on, round. -/
def State.nextSlot (s : State) (core from_ : Nat) : Option Agent :=
  ((List.range 32).map (fun i => (from_ + i) % 32)).findSome? (fun sl => s.agent (core * 32 + sl))

/-- STALL_SAMPLE: a core's sampler takes the next warp by slot, once every 2^PERIOD clk while PCSMPCTL.EN is 1. -/
def State.stallSample (s : State) (core : Nat) : State :=
  let c := s.coreOf core
  match s.nextSlot core c.sampleSlot with
  | none => s
  | some a =>
    let ctl := s.preg a.part 0x198
    if !bitN ctl 0 || s.tick < c.sampleTick + s.clkTicks (dieOf core) (2 ^ bitsN ctl 5 1) then s
    else
      let r := s.stallReason a
      let s1 := (s.append a.part sampleRing (fun q => s.tickWords ++ words64 a.nextPc.toNat ++ words64 r.2.toNat
        ++ [wordN (r.1 + a.slot * 2 ^ 8 + a.ctx * 2 ^ 16), wordN (core + q % 2 ^ 16 * 2 ^ 16)])).1
      s1.updCore core (fun c => { c with sampleSlot := (a.slot + 1) % 32, sampleTick := s.tick })

def execStallSample (core : Nat) (s : State) : Out := .next (s.stallSample core)

end Sys2Proof.Machine
end

