-- ==== Sys2Proof/Machine/Lifecycle.lean ====
section
/-! DEFINITION. The lives of clusters, grids and stops: placement and start (13 R333 to R336), a grid's end (13 R337),
the stop line's roll call (14 R352 to R356), quiescence and slices (14 R362, R365), and the knell's timers
(14 R369 to R372). -/

namespace Sys2Proof.Machine

/-! ### Clusters and grids -/

def execGatedChimeWait (part grid cluster : Nat) (s : State) : Out := .next (s.gatedChime part grid cluster)
def execClusterAdmission (part : Nat) (s : State) : Out := .next (s.admitNext part)
def execClusterStart (cluster : Nat) (s : State) : Out := .next (s.startCluster cluster)

/-- Accesses, registration requests, commands and detached work of a grid are outstanding (06 R157; 13 R346). -/
def State.outstanding (s : State) (p k : Nat) : Bool :=
  s.accesses.anyV (fun a => a.part == p && a.grid == k) || s.regReqs.anyV (fun r => r.part == p && r.grid == k) || s.cmds.anyV (·.ofGrid p k)
    || s.cores.anyV (fun c => c.tracker.any (fun d => d.part == p && d.grid == k))

/-- Some warp of a grid has a thread that has not exited. -/
def State.gridRuns (s : State) (p k : Nat) : Bool := (s.warpsOf p k).any (fun a => a.threads.any Thread.live)

/-- A fault of a stop in progress has been charged to the grid. -/
def Part.chargedWith (q : Part) (k : Nat) : Bool := q.stop.any (fun st => st.charged.any (fun e => e.1 == k))

/-- Every cluster of a grid has retired. -/
def Grid.allRetired (g : Grid) : Bool := g.placed == g.units && g.retired.length == Desc.ncl g.d

/-- GRID_COMPLETION (13 R337): a grid ends DONE once every cluster has retired and its work has drained, and
CHECKPOINTED, where its handlers save it, once its last warp has exited (14 R370); where a write-block held its record, the record is
written (13 R340). -/
def State.gridCompletion (s : State) (p k : Nat) : State :=
  match (s.part p).grids.find k with
  | none => s
  | some g =>
    if g.st == .ended then s
    else if g.ending.isSome then s.writeRecord p k
    else if s.outstanding p k || s.gridRuns p k || (s.part p).chargedWith k then s
    else if g.fate == .checkpoint && !g.hwRoute then s.endGrid p k stCheckpointed
    else if g.allRetired then s.endGrid p k stDone
    else s

def execGridCompletion (part grid : Nat) (s : State) : Out := .next (s.gridCompletion part grid)

/-! ### The stop line (14 R352 to R356) -/

/-- The view of an engine; none for a warp slot that holds no warp. (DEDUCED, notes/assumptions/66.md.) -/
def State.stopView (s : State) (p : Nat) (e : EngineId) : Option StopView :=
  let killed (c : Command) : Nat := if (s.part p).chargedWith c.grid then 1 else 0
  match e with
  | .warp c sl => (s.agent (c * 32 + sl)).map (fun a => { pc := a.nextPc, grid := a.grid, ctx := a.ctx })
  | .conductor t => (s.agent (8192 + t)).map (fun a => if a.runs then { pc := a.nextPc, ctx := a.ctx } else {})
  | .copy k => some (match s.runningOn k with
    | some (_, c) => { grid := c.grid, ctx := c.ctx, replays := killed c }
    | none => {})
  | .matrix c => some ((s.matrixView c (fun _ => true) (fun _ => true) killed).getD {})
  | .walker q w => some ((s.walkerView q w (fun _ => true)).getD {})

/-- A matrix unit reaches its stop point at the end of its mma (14 R352). -/
def State.mmaRuns (s : State) : EngineId → Bool
  | .matrix c => !(s.coreOf c).mma.isEmpty
  | _ => false

/-- The walk that a walker has still to read to its end before it stops (14 R352). -/
def State.walkOn (s : State) : EngineId → Option (Nat × Walk)
  | .walker p w => ((s.walking p)[w]?).bind (fun i => (s.walks.find i).map (fun k => (i, k)))
  | _ => none

/-- A walker reads its walk to its end, whose result it delivers as it resumes; other engines have none (14 R352). -/
def State.endWalk (s : State) (e : EngineId) : State :=
  match s.walkOn e with
  | some (i, _) => s.readWalk i
  | none => s

/-- ENGINE_STOP_POINT: an engine reaches its stop point, writes its record and acknowledges (14 R352 to R355). -/
def State.stopPoint (s : State) (p : Nat) (e : EngineId) : State :=
  match (s.part p).stop with
  | none => s
  | some st =>
    if st.reached.contains e || !(s.enginesOf p).contains e || s.mmaRuns e || (s.walkOn e).any (fun x => s.walkStuck x.2) then s
    else match s.stopView p e with
      | none => s
      | some v =>
        let own := st.faults.find? (fun f => f.engine == e)
        let cause := st.first.any (fun f => f.engine == e)
        let skid := if cause then 0 else (Config.skid s.free).toNat
        let s0 := s.endWalk e
        let s1 := match own with
          | some f => s0.stopRecord p e (if cause then f.tick else s.tick) (match e with
              | .warp _ _ => f.pc
              | _ => v.pc) f.addr st.num f.info f.grid f.ctx f.reason skid v.replays
          | none => s0.stopRecord p e s.tick v.pc 0 st.num 0 v.grid v.ctx 1 skid v.replays
        let held (a : Agent) : Agent := { a with heldSince := some (a.heldSince.getD s.tick) }
        let s2 := match e with
          | .warp c sl => s1.updAgent (c * 32 + sl) held
          | .conductor t => s1.updAgent (8192 + t) held
          | _ => s1
        s2.takeFree.updPart p (fun q => { q with
          stop := some { st with reached := e :: st.reached, acks := st.acks + 1 } })

def execEngineStopPoint (part : Nat) (engine : EngineId) (s : State) : Out := .next (s.stopPoint part engine)

/-- Every engine of a partition has acknowledged its stop (14 R355). -/
def State.allReached (s : State) (p : Nat) (st : Stop) : Bool := (s.enginesOf p).all st.reached.contains

/-- Engines that no other mark holds resume (14 R352, R356). -/
def State.releaseStop (s : State) (p : Nat) : State :=
  let free (a : Agent) : Bool := a.halted == .none || a.halted == .stop
  s.takeUp p free (fun _ => false)

/-- A thread of a partition and a grid's faulted end (14 R356): each grid charged ends FAULTED with its first code. -/
def State.endCharged (s : State) (p : Nat) (st : Stop) : State :=
  st.charged.foldl (fun (t : State) e => t.endGrid p e.1 stFaulted) s

/-- What waited for the end of a stop: halts that the host asked for, then a knell (14 R373). -/
def State.afterStop (s : State) (p : Nat) : State :=
  let due := (s.part p).contexts.keysOf (·.haltDue)
  let s1 := due.foldl (fun (t : State) c => ((t.updContext p c (fun x => { x with haltDue := false })).haltCtx p c 4 .halt).1) s
  (s1.knellStart p).knellStops p

/-- ROLL_CALL_COMPLETE: the summary is written, the charged grids end FAULTED, the other engines resume, and the host
is signalled (14 R355, R356; 15 R395). -/
def State.rollCall (s : State) (p : Nat) : State :=
  match (s.part p).stop with
  | none => s
  | some st =>
    if !s.allReached p st then s
    else
      let f : FaultRec := st.first.getD ⟨0, 0, 0, 0, 0, 0xFF, 0, .walker 0 0, 0⟩
      let s1 := s.summary p f.pc f.addr f.info st.num f.grid f.ctx st.reason st.acks
      let s2 := (s1.endCharged p st).updPart p (fun q => { q with stop := none })
      ((s2.releaseStop p).afterStop p).fireVf p none 1

def execRollCallComplete (part : Nat) (s : State) : Out := .next (s.rollCall part)

/-! ### Quiescence, slices and the knell's timers -/

def execQuiescenceComplete (part ctx : Nat) (s : State) : Out := .next (s.quiesced part ctx)
def execSliceExpiry (part : Nat) (s : State) : Out := .next (s.sliceExpiry part)

/-- An event of the knell for every partition. -/
def State.eachPart (s : State) (f : State → Nat → State) : State := s.parts.keys.foldl f s

def execKnellDecision (s : State) : Out := .next (s.eachPart State.knellDecide)
def execKnellRecompute (s : State) : Out := .next (s.eachPart State.knellRecompute)
def execKnellDeadline (s : State) : Out := .next (s.eachPart State.knellDeadline)
def execPreemptLimitExpiry (s : State) : Out := .next (s.eachPart State.preemptLimit)

end Sys2Proof.Machine
end

