-- ==== Sys2Proof/Machine/Host.lean ====
section
/-! DEFINITION. The host and the vendor firmware: BAR accesses (04 R100; 05 R139; 06 R168; 15 R393), control pages
(15 R394; 16 R409), Function Level Reset (15 R396), the partition and VF tables (15 R385, R392), and register writes of
the firmware (13 R322; 14 R382). -/

namespace Sys2Proof.Machine

/-! ### Answers -/

def State.answer (s : State) (o : HostOut) : State := { s with hostOut := s.hostOut ++ [o] }

/-- A function's number in a race record (05 R141). -/
def fnCode : HostFn → Nat
  | .pf => 0x40000
  | .vf n => 0x40001 + n

/-- A VF that answers. (DEDUCED, notes/assumptions/60.md.) -/
def State.vfOn (s : State) (n : Nat) : Option VfEntry :=
  match s.vfs.find n with
  | some v => if v.en && !v.off && (s.parts.find v.first).isSome then some v else none
  | none => none

/-! ### Memory through BAR 2 -/

/-- The partition whose window holds a device-physical address. -/
def State.windowOf (s : State) (a : Nat) : Option Nat := (s.parts.find? (fun (e : Nat × Part) => s.inWindow e.1 a)).map (·.1)

/-- The host's part in its accesses: mode 1, no grid (05 R140, R141). -/
def hostParty (fn : HostFn) (p : Nat) : Party :=
  { part := p, ctx := 0xFF, grid := 0, agent := noAgent, issuer := fnCode fn, mode := 1, pc := 0 }

/-- The words of an access of `size` bytes. -/
def barWords (a size : Nat) : List Nat := (List.range ((a % 4 + size + 3) / 4)).map (a / 4 + ·)

/-- The bytes of word i of an access that it covers. -/
def barMask (a size i : Nat) : Nat :=
  (List.range 4).foldl (fun m b => if a ≤ 4 * (a / 4 + i) + b && 4 * (a / 4 + i) + b < a + size then m + 2 ^ b else m) 0

/-- Words taken at the bank in order. -/
def State.takeWords (s : State) (by_ : Party) : List Nat → State × List Word
  | [] => (s, [])
  | w :: ws =>
    let r := s.takeAt 0x180 w 5 by_
    let q := r.1.takeWords by_ ws
    (q.1, r.2 :: q.2)

/-- Words as one number, the lowest first. -/
def joinWords (ws : List Word) : Nat := ws.foldr (fun w n => w.toNat + 2 ^ 32 * n) 0

/-- The forwards of some lines that are outstanding are answered: an access that the bank holds for them comes after
(05 R131). (DESIGN CHOICE, notes/assumptions/59.md.) -/
def State.settleForwards (s : State) (ws : List Nat) : State :=
  if s.forwards.isEmpty then s else ws.foldl (fun t w => t.forwardReply (lineOf w)) s

/-- A host read at device-physical bytes: strong, at the bank, registering nothing; a poisoned word is answered as
poison (05 R139; 06 R168; 14 R374). (DESIGN CHOICE, notes/assumptions/59.md.) -/
def State.barLoad (s : State) (fn : HostFn) (p a size : Nat) : State :=
  let ws := barWords a size
  let s0 := s.settleForwards ws
  if ws.any (fun w => s0.regOf w == .p) then s0.answer .poisoned
  else
    let r := s0.takeWords (hostParty fn p) ws
    r.1.answer (.data (BitVec.ofNat 4096 (joinWords r.2 / 2 ^ (8 * (a % 4)) % 2 ^ (8 * size))))

/-- One word of a host write; bytes for a poisoned word that do not fill it are dropped. -/
def State.barStore1 (s : State) (by_ : Party) (w mask : Nat) (v : Word) : State :=
  if s.regOf w == .p && mask != 15 then s
  else
    let r := s.takeAt 0x180 w 5 by_
    r.1.bankWrite w (mergeBytes mask r.2 v)

/-- HOSTW: a host or fabric write reached a partition that logs (15 R394). (DEDUCED, notes/assumptions/57.md.) -/
def State.markHostw (s : State) (p : Nat) : State :=
  let r := s.preg p 0x158
  if bitN r 0 then s.setPreg p 0x158 (BitVec.ofNat 64 (r ||| 4)) else s

/-- A host write at device-physical bytes (05 R139; 06 R168). -/
def State.barStore (s : State) (fn : HostFn) (p a size : Nat) (v : BitVec 4096) : State :=
  let ws := barWords a size
  let x := v.toNat % 2 ^ (8 * size) * 2 ^ (8 * (a % 4))
  ((List.range ws.length).foldl (fun (t : State) i =>
    t.barStore1 (hostParty fn p) (a / 4 + i) (barMask a size i) (wordN (x / 2 ^ (32 * i)))) (s.settleForwards ws)).markHostw p

/-! ### Control pages (15 R394; 16 R409) -/

/-- Offsets of the registers of a partition control page, each in an 8-byte place. -/
def partPage : List Nat :=
  [0x00, 0x08, 0x10, 0x18, 0x20, 0x40, 0x48, 0x50, 0x58, 0x80, 0x88, 0x90, 0x98, 0xA0, 0xA8, 0xB0, 0xB8, 0xC0, 0xC8, 0xD0, 0xD8]

def ctxPage : List Nat := [0x00, 0x08, 0x10]

/-- An access that a control page accepts: 4 or 8 bytes, naturally aligned, at a register.
(DESIGN CHOICE, notes/assumptions/59.md.) -/
def pageAccess (page : List Nat) (o size : Nat) : Bool := (size == 4 || size == 8) && o % size == 0 && page.contains (o / 8 * 8)

/-- The 8 bytes at a place of a partition control page; what is write-only reads as 0. -/
def State.partPlace (s : State) (p o : Nat) : DWord :=
  if o == 0x00 || o == 0x10 then 0
  else if o == 0x20 then (s.part p).reg 0x13
  else if 0xC0 ≤ o then ((s.part p).reg (0x104 + o)) <<< 32 ||| (s.part p).reg (0x100 + o)
  else (s.part p).reg (0x100 + o)

/-- The 8 bytes at a place of a context control page. -/
def State.ctxPlace (s : State) (v : VfEntry) (o : Nat) : DWord :=
  match o with
  | 0x00 => BitVec.ofNat 64 ((if s.contextLive v.first v.ctx then 1 else 0) + (if (s.context v.first v.ctx).halted then 2 else 0))
  | 0x10 => v.ccres.setWidth 64
  | _ => 0

/-- What an access of 4 or 8 bytes takes of a place. -/
def halfOf (x : DWord) (o size : Nat) : DWord :=
  if size == 8 then x else (x >>> (8 * (o % 8))) &&& 0xFFFFFFFF

/-- The result of a command in a RES register. -/
def resWord (k : Nat) : Word := wordN (2 ^ 31 + k)

/-- A halt that the host asks for: during a stop it waits for the stop's end (14 R373). -/
def State.hostHalt (s : State) (p ctx : Nat) : State × Nat :=
  if (s.part p).stop.isNone then s.haltCtx p ctx 4 .halt
  else match (s.part p).contexts.find ctx with
    | none => (s, 1)
    | some c => if c.halted then (s, 2) else (s.updContext p ctx (fun x => { x with haltDue := true }), 0)

/-- CCCMD: halt, resume or abort of a VF's context (15 R394). A halt completes once its work is quiet.
(DEDUCED, notes/assumptions/58.md.) -/
def State.ctxCommand (s : State) (n : Nat) (v : VfEntry) (cmd : Nat) : State :=
  let p := v.first
  let set (t : State) (v1 : VfEntry) : State := { t with vfs := t.vfs.set n v1 }
  match cmd with
  | 1 =>
    let r := s.hostHalt p v.ctx
    let t := set r.1 { v with ccres := if r.2 == 0 then 0 else resWord r.2, open_ := r.2 == 0 }
    if r.2 == 0 && t.quiet p v.ctx && !(t.context p v.ctx).haltDue then (t.pushWork p).closeCommands p v.ctx else t
  | 2 =>
    let r := s.resumeCtx p v.ctx
    set r.1 { v with ccres := resWord r.2, open_ := false }
  | 3 => set (s.abortCtx p v.ctx) { v with ccres := resWord 0, open_ := false }
  | _ => set s { v with ccres := resWord 0, open_ := false }

/-- The status of a command over every context: 0 where one took it, else 1 where there is none, else 2. -/
def allStatus (ks : List Nat) : Nat := if ks.isEmpty then 1 else if ks.contains 0 then 0 else ks.headD 0

/-- PCCMD: halt, resume or abort of every context of a partition (15 R394). (DEDUCED, notes/assumptions/58.md.) -/
def State.partCommand (s : State) (p cmd : Nat) : State :=
  let cs := (s.part p).contexts.keys
  let each (f : State → Nat → State × Nat) : State × List Nat :=
    cs.foldl (fun (r : State × List Nat) c =>
      let q := f r.1 c
      (q.1, q.2 :: r.2)) (s, [])
  let set (t : State) (k : Nat) (wait : Bool) : State := t.updPart p (fun q =>
    { q.setReg 0x118 (if wait then 0 else (resWord k).setWidth 64) with cmdOpen := wait })
  match cmd with
  | 1 =>
    let r := each (fun t c => t.hostHalt p c)
    let k := allStatus r.2
    let t := set r.1 k (k == 0)
    if k == 0 && cs.all (fun c => t.quiet p c && !(t.context p c).haltDue) then (t.pushWork p).closeCommands p 0x40 else t
  | 2 =>
    let r := each (fun t c => t.resumeCtx p c)
    set r.1 (allStatus r.2) false
  | 3 => set (cs.foldl (fun (t : State) c => t.abortCtx p c) s) 0 false
  | _ => set s 0 false

/-- PCKNELL: a knell posted by the host, its status in PCKRES (14 R367; 15 R394). -/
def State.hostKnell (s : State) (p deadline : Nat) : State :=
  let r := s.knell p deadline
  r.1.setPreg p 0x108 ((resWord r.2).setWidth 64)

/-- A write of 4 or 8 bytes to a partition control page (15 R394). -/
def State.writePartPage (s : State) (p o size : Nat) (v : DWord) : State :=
  let at_ := o / 8 * 8
  let words := if size == 8 then 3 else if o % 8 == 0 then 1 else 2
  let x := if words == 2 then v <<< 32 else v
  if at_ == 0x00 then (if size == 8 then s.hostKnell p v.toNat else s)
  else if at_ == 0x10 then (if bitN words 0 then s.partCommand p (v.toNat % 4) else s)
  else if 0xC0 ≤ at_ then
    let s1 := if bitN words 0 then s.writeReg p (0x100 + at_) 1 x else s
    if bitN words 1 then s1.writeReg p (0x104 + at_) 1 (x >>> 32) else s1
  else s.writeReg p (0x100 + at_) words x

/-- A write of 4 or 8 bytes to a context control page. -/
def State.writeCtxPage (s : State) (n : Nat) (e : VfEntry) (o : Nat) (v : DWord) : State :=
  if o == 0x08 then s.ctxCommand n e (v.toNat % 4) else s

/-! ### BAR accesses (15 R393) -/

/-- Vectors of a function (15 R393). -/
def vectorsOf : HostFn → Nat
  | .pf => 1
  | .vf _ => 2

/-- The key of a word of a function's MSI-X table. -/
def msixKey (fn : HostFn) (word : Nat) : Nat :=
  (match fn with
  | .pf => 0
  | .vf n => 1 + n) * 8 + word

/-- What a word of an MSI-X table holds at reset: its vector is masked. (PRESUMED, notes/assumptions/59.md.) -/
def msixReset (word : Nat) : Word := if word % 4 == 3 then 1 else 0

/-- The 8 bytes at an offset of BAR 4: the table, sixteen bytes for each vector, then the pending bits, none of which is
set. (PRESUMED, notes/assumptions/59.md.) -/
def State.msixPlace (s : State) (fn : HostFn) (o : Nat) : DWord :=
  let word (w : Nat) : Word := if w < 4 * vectorsOf fn then s.msix.get (msixReset w) (msixKey fn w) else 0
  pair64 (word (o / 4)) (word (o / 4 + 1))

/-- What a word of an MSI-X table keeps of a value written: an address of whole words, data, or the mask bit.
(PRESUMED, notes/assumptions/59.md.) -/
def msixValue (word : Nat) (v : Word) : Word :=
  match word % 4 with
  | 0 => v &&& 0xFFFFFFFC
  | 3 => v &&& 1
  | _ => v

/-- A word of BAR 4 written; the pending bits are read-only. -/
def State.writeMsix (s : State) (fn : HostFn) (w : Nat) (v : Word) : State :=
  if w < 4 * vectorsOf fn then { s with msix := s.msix.put (msixReset w) (msixKey fn w) (msixValue w v) } else s

/-- The MSI-X table of a function takes its reset values. -/
def State.resetMsix (s : State) (fn : HostFn) : State :=
  { s with msix := s.msix.drop (fun k => k / 8 == msixKey fn 0 / 8) }

/-- Where a BAR access goes. -/
inductive BarPlace where
  | memory (part addr : Nat)
  | partPage (part off : Nat)
  | ctxPage (vf : Nat) (v : VfEntry) (off : Nat)
  | blank                         -- a partition control page of a VF without SUP: reads 0, ignores writes
  | msix (off : Nat)
  | firmware                      -- the mailbox, whose contents the spec does not give
  | none

/-- An access of up to 512 bytes that lies in one window (15 R391). -/
def State.barMemory (s : State) (p a size : Nat) : BarPlace :=
  if 1 ≤ size && size ≤ 512 && s.inWindow p a && s.inWindow p (a + size - 1) then .memory p a else .none

/-- The place of an access to BAR 4: 4 or 8 bytes, naturally aligned, in the table or the pending bits. -/
def msixAccess (fn : HostFn) (off size : Nat) : BarPlace :=
  if (size == 4 || size == 8) && off % size == 0 && off < 16 * vectorsOf fn + 8 then .msix off else .none

/-- The place of an access of a function (15 R392, R393). -/
def State.barPlace (s : State) (fn : HostFn) (bar off size : Nat) : BarPlace :=
  match fn with
  | .pf =>
    (match bar with
    | 0 =>
      if off < 4096 then .firmware
      else if (s.parts.find (off / 4096 - 1)).isSome && off < 2 ^ 18 && pageAccess partPage (off % 4096) size then
        .partPage (off / 4096 - 1) (off % 4096)
      else .none
    | 2 => if off < 2 ^ 41 then (match s.windowOf off with
        | some p => s.barMemory p off size
        | none => .none) else .none
    | 4 => msixAccess .pf off size
    | _ => .none)
  | .vf n =>
    match s.vfOn n with
    | none => .none
    | some v =>
      match bar with
      | 0 =>
        if off < 4096 then (if pageAccess ctxPage off size then .ctxPage n v off else .none)
        else if 8192 ≤ off then .none
        else if !v.sup then .blank
        else if pageAccess partPage (off % 4096) size then .partPage v.first (off % 4096) else .none
      | 2 => if off < 2 ^ (36 + (s.part v.first).logn) then s.barMemory v.first (v.first * 2 ^ 36 + off) size else .none
      | 4 => msixAccess (.vf n) off size
      | _ => .none

/-- BAR_READ. -/
def State.barRead (s : State) (fn : HostFn) (bar off size : Nat) : State :=
  match s.barPlace fn bar off size with
  | .memory p a => s.barLoad fn p a size
  | .partPage p o => s.answer (.data ((halfOf (s.partPlace p (o / 8 * 8)) o size).setWidth 4096))
  | .ctxPage _ v o => s.answer (.data ((halfOf (s.ctxPlace v (o / 8 * 8)) o size).setWidth 4096))
  | .msix o => s.answer (.data ((halfOf (s.msixPlace fn (o / 8 * 8)) o size).setWidth 4096))
  | .blank => s.answer (.data 0)
  | .firmware => s.takeFree.answer (.data ((Config.word s.free).setWidth 4096))
  | .none => s.answer .unsupported

/-- A write to the mailbox: one of 32 bytes is a request for an attestation report, with its nonce (16 R415); any other is
ignored. (DESIGN CHOICE, notes/assumptions/59.md.) -/
def State.mailboxWrite (s : State) (size : Nat) (v : BitVec 4096) : State :=
  if size == 32 then { s with platform := { s.platform with nonce := some (v.setWidth 256) } } else s

/-- BAR_WRITE. -/
def State.barWrite (s : State) (fn : HostFn) (bar off size : Nat) (v : BitVec 4096) : State :=
  match s.barPlace fn bar off size with
  | .memory p a => s.barStore fn p a size v
  | .partPage p o => s.writePartPage p o size (v.setWidth 64)
  | .ctxPage n e o => s.writeCtxPage n e o (v.setWidth 64)
  | .msix o =>
    let t := s.writeMsix fn (o / 4) (v.setWidth 32)
    if size == 8 then t.writeMsix fn (o / 4 + 1) ((v >>> 32).setWidth 32) else t
  | .firmware => s.mailboxWrite size v
  | .blank => s
  | .none => s.answer .unsupported

/-- (DESIGN CHOICE, notes/assumptions/18.md.) -/
def execBarRead (fn : HostFn) (bar off size : Nat) (s : State) : Out := .next (s.barRead fn bar off size)
def execBarWrite (fn : HostFn) (bar off size : Nat) (value : BitVec 4096) (s : State) : Out :=
  .next (s.barWrite fn bar off size value)

/-! ### Commands (15 R394) -/

/-- A command of a VF that answers. -/
def State.vfCommand (s : State) (n cmd : Nat) : State :=
  match s.vfOn n with
  | some v => s.ctxCommand n v cmd
  | none => s

def execContextHaltCmd (vf : Nat) (s : State) : Out := .next (s.vfCommand vf 1)
def execContextResumeCmd (vf : Nat) (s : State) : Out := .next (s.vfCommand vf 2)
def execContextAbortCmd (vf : Nat) (s : State) : Out := .next (s.vfCommand vf 3)
def execPartitionHaltCmd (part : Nat) (s : State) : Out := .next (s.partCommand part 1)
def execPartitionResumeCmd (part : Nat) (s : State) : Out := .next (s.partCommand part 2)
def execPartitionAbortCmd (part : Nat) (s : State) : Out := .next (s.partCommand part 3)
def execPcknell (part : Nat) (deadline : BitVec 64) (s : State) : Out := .next (s.hostKnell part deadline.toNat)

/-! ### Function Level Reset (15 R396) -/

/-- A VF's reset: its context aborts and is halted no longer, and its control page and its vectors take their resets
(15 R394, R396). -/
def State.vfReset (s : State) (n : Nat) : State :=
  match s.vfOn n with
  | none => s
  | some v =>
    let t := ((s.abortCtx v.first v.ctx).updContext v.first v.ctx (fun c => { c with halted := false, haltDue := false })).resetMsix (.vf n)
    { t with vfs := t.vfs.set n { v with ccres := 0, open_ := false } }

def execVfFunctionLevelReset (vf : Nat) (s : State) : Out := .next (s.vfReset vf)

/-- A partition reset and its signal to the host (14 R375; 15 R395). -/
def State.resetAndSignal (s : State) (p : Nat) : State := if (s.parts.find p).isSome then (s.resetPart p).firePf else s

/-- The PF's reset: every partition is reset, and every VF disabled. (DEDUCED, notes/assumptions/60.md.) -/
def State.pfReset (s : State) : State :=
  let t := s.parts.keys.foldl State.resetAndSignal s
  { t with msix := [], vfs := t.vfs.mapV (fun v => { v with off := true, ccres := 0, open_ := false }) }

def execPfFunctionLevelReset (s : State) : Out := .next s.pfReset
def execPartitionReset (part : Nat) (s : State) : Out := .next (s.resetAndSignal part)

/-! ### The tables (15 R385, R392) -/

/-- A partition-table entry from its bytes; reserved fields are ignored (00 R6). -/
def readEntryBytes (e : BitVec 512) : PartEntry :=
  let f (hi lo : Nat) : Nat := e.toNat / 2 ^ lo % 2 ^ (hi - lo + 1)
  { first := f 7 0, logn := f 15 8, en := f 16 16 == 1, cegrp := f 63 32, rate := f 79 64, burst := f 95 80, fport := f 383 128 }

/-- Two entries share a slice, an engine group or a port. -/
def PartEntry.overlaps (a b : PartEntry) : Bool :=
  (decide (a.first < b.first + 2 ^ b.logn) && decide (b.first < a.first + 2 ^ a.logn)) || a.cegrp &&& b.cegrp != 0
    || a.fport &&& b.fport != 0

/-- The limits of an entry's fields. -/
def PartEntry.limits (e : PartEntry) : Bool :=
  e.logn ≤ 5 && e.first % 2 ^ e.logn == 0 && e.first + 2 ^ e.logn ≤ 32 && 1 ≤ e.burst && e.cegrp != 0

/-- An entry needs a link that has failed (16 R413). -/
def PartEntry.needs (e : PartEntry) : LinkId → Bool
  | .host => false
  | .compute d => e.first < 4 * d + 4 && 4 * d < e.first + 2 ^ e.logn
  | .edge d => e.fport / 2 ^ (64 * d) % 2 ^ 64 != 0
  | .port p => bitN e.fport p

/-- An entry needs a memory stack, which carries the channel groups of two slices (01 R13; 16 R413). -/
def PartEntry.needsStack (e : PartEntry) (m : Nat) : Bool := e.first < 2 * m + 2 && 2 * m < e.first + 2 ^ e.logn

/-- A copy engine of an entry still runs a command of another partition, which it leaves once that completes
(15 R386). -/
def State.engineLeaving (s : State) (e : PartEntry) : Bool :=
  s.cmds.anyV (fun c => c.part != e.first && c.running.any (fun k => bitN e.cegrp (k / 2)))

/-- An entry may be enabled at an index of the table. (DEDUCED, notes/assumptions/61.md.) -/
def State.entryOk (s : State) (i : Nat) (e : PartEntry) : Bool :=
  e.limits && (s.ptable.pick (fun k x => k != i && x.en && x.overlaps e)).isEmpty
    && !s.platform.failedLinks.any e.needs && !s.platform.failedStacks.any e.needsStack && !s.engineLeaving e

/-- A partition holds no work: no grid that has not ended, and no thread that runs. -/
def State.vacant (s : State) (p : Nat) : Bool :=
  !(s.part p).grids.anyV (fun g => g.st != .ended) && !s.agents.any (fun a => a.part == p && a.runs)

/-- PARTITION_TABLE_WRITE: an entry is enabled only where it is valid; an enabled one keeps its slices, may change its
engines, rate and ports, and is disabled only as a partition reset has left it (15 R385, R386).
(DEDUCED, notes/assumptions/61.md.) -/
def State.writeTable (s : State) (i : Nat) (bits : BitVec 512) : State :=
  if 32 ≤ i then s
  else
    let e := readEntryBytes bits
    let old := s.ptable.get {} i
    if old.en then
      if e.en then
        if e.first == old.first && e.logn == old.logn && s.entryOk i e then
          { s with ptable := s.ptable.set i e }.updPart e.first (fun q => { q with
            cegrp := e.cegrp, rate := e.rate, burst := e.burst, fport := e.fport })
        else s
      else if s.vacant old.first && !(s.part old.first).touched then { s with ptable := s.ptable.set i e, parts := s.parts.erase old.first } else s
    else if e.en && s.entryOk i e then
      { s with ptable := s.ptable.set i e, parts := s.parts.set e.first (newPart e) }.resetThreads e.first (2 ^ e.logn)
    else { s with ptable := s.ptable.set i { e with en := false } }

def execPartitionTableWrite (index : Nat) (entry : BitVec 512) (s : State) : Out := .next (s.writeTable index entry)

/-- VF_TABLE_WRITE (15 R392). -/
def State.writeVf (s : State) (n : Nat) (bits : BitVec 64) : State :=
  if 1024 ≤ n then s
  else
    let x := bits.toNat
    let first := bitsN x 12 8
    { s with vfs := s.vfs.set n { s.vfs.get {} n with
        en := bitN x 0 && (s.parts.find first).isSome, sup := bitN x 1, first := first, ctx := bitsN x 21 16, off := false } }

def execVfTableWrite (vf : Nat) (entry : BitVec 64) (s : State) : Out := .next (s.writeVf vf entry)

/-! ### Register writes of the firmware (13 R322, R323; 05 R146; 14 R382) -/

/-- THREAD_START: RUN = 1 written to an idle thread. -/
def execThreadStart (thread : Nat) (s : State) : Out := .next (s.startThread thread)

def execLlcmapWrite (part : Nat) (value : BitVec 64) (s : State) : Out := .next (s.writeLlcmap part 3 value)

/-- A fabric port of a partition bound to one peer and one local context, or unbound (15 R402). The value holds the
peer's number in bits [63:32], the context in bits [21:16] and whether it is bound in bit 0.
(DESIGN CHOICE, notes/assumptions/53.md.) -/
def State.bindPort (s : State) (p k : Nat) (v : DWord) : State :=
  if !bitN (s.part p).fport k then s
  else { s with ports := s.ports.set k { s.ports.get {} k with
    bound := bitN v.toNat 0, part := p, ctx := bitsN v.toNat 21 16, peer := bitsN v.toNat 63 32 } }

/-- REGISTER_WRITE: a register written whole, at vendor level; a thread is numbered within its partition. -/
def State.writeCtl (s : State) (p : Nat) (v : DWord) : CtlReg → State
  | .csr sel => if partSel sel then s.writeReg p sel 3 v else s
  | .thread t sel => if threadSel sel && t < 8 * (s.part p).slices then s.writeThreadReg (8 * p + t) sel 3 true v else s
  | .pcLogBase => s.writeReg p 0x140 3 v
  | .pcLogTail => s.writeReg p 0x150 3 v
  | .pcLogCtl => s.writeReg p 0x158 3 v
  | .pcSmpBase => s.writeReg p 0x180 3 v
  | .pcSmpTail => s.writeReg p 0x190 3 v
  | .pcSmpCtl => s.writeReg p 0x198 3 v
  | .pcCntBase => s.writeReg p 0x1A0 3 v
  | .pcCntTail => s.writeReg p 0x1B0 3 v
  | .pcCntCtl => s.writeReg p 0x1B8 3 v
  | .pcCerr k => if k < 8 then s.writeReg p (0x1C0 + 4 * k) 1 v else s
  | .port k => s.bindPort p k v
  | .debugAt => { s with platform := { s.platform with debugAt := some v.toNat } }

/-- (DESIGN CHOICE, notes/assumptions/70.md: the firmware's request of a debug stop, which concerns no partition.) -/
def execRegisterWrite (part : Nat) (reg : CtlReg) (value : BitVec 64) (s : State) : Out :=
  .next (if reg == .debugAt || (s.parts.find part).isSome then s.writeCtl part value reg else s)

end Sys2Proof.Machine
end

