-- ==== Sys2Proof/Machine/Platform.lean ====
section
/-! DEFINITION. The platform: hardware errors and resets (14 R374 to R376), links (15 R401), fabric ports (15 R402 to
R404), bring-up, debug stops and attestation (16 R410 to R415). -/

namespace Sys2Proof.Machine

/-! ### Errors (14 R374) -/

def execCorrectableError (part kind : Nat) (s : State) : Out := .next (s.countCorrectable part kind)

/-- A record of the poison map with a register and lane, a tile and row, or a scratchpad address (14 R376).
(DEDUCED, notes/assumptions/47.md.) -/
def State.poisonNote (s : State) (p kind ctx who lo hi : Nat) : State := s.poisonRecord p 0 kind ctx who (lo + hi * 2 ^ 32)

/-- Reason-5 errors: a stop number, a summary, and the SUP VFs' vector (14 R374; 15 R395). -/
def State.summary5 (s : State) (p : Nat) : State :=
  let r := s.nextStop p
  (r.1.summary p 0 0 0 r.2 0 0xFF 5 0).fireVf p none 1

/-- A word of the device or of the last-level cache is poisoned where its current data stand there (05 R144). -/
def State.poisonData (s : State) (p w kind : Nat) : State :=
  let b := s.bankWord w
  if b.st == .u || b.st == .ol || (b.st == .r && b.viaOl) then
    (s.poisonWord w).poisonRecord p (s.recordAddr w) kind 0xFF 0 0
  else s

/-- A word of a section cache is poisoned (14 R374). (DEDUCED, notes/assumptions/63.md.) -/
def State.poisonSection (s : State) (p slice w : Nat) : State :=
  let b := s.bankWord w
  let holds := s.ownerOf w == slice && (b.st == .o || (b.st == .r && !b.viaOl))
  if holds || (s.cleanOf (sectionCache slice) w).isSome then
    ((s.poisonWord w).dropClean (sectionCache slice) w).poisonRecord p (s.recordAddr w) 2 0xFF slice 0
  else s

/-- A register element is poisoned: its core or thread, its register and its lane (14 R374, R376). -/
def State.poisonRegister (s : State) (p row : Nat) : State :=
  let i := rowIx row
  let who := if rowTag row == 0 then i / 2 ^ 18 else if rowTag row == 1 then i / 2 ^ 17 else i / 256
  let pos := if rowTag row == 0 then i / 256 % 64 else if rowTag row == 1 then i / 128 % 64 else 0
  let ctx := ((s.agents.find? (fun a => ownsRow a row)).map (·.ctx)).getD 0xFF
  { s with rfPoison := s.rfPoison.put false row true }.poisonNote p 4 ctx who (rowReg row) pos

/-- The context of a position of a core. -/
def State.ctxAt (s : State) (core pos : Nat) : Nat :=
  match (s.coreOf core).ctxs.getD pos none with
  | some (_, c) => c
  | none => 0xFF

/-- A copy engine's control error: its command ends, its grid is FAULTED with POISON, whose stop's record of the engine has
reason 5, and it waits for its reset (14 R374, R375). -/
def State.engineError (s : State) (p e : Nat) : State :=
  let record (grid ctx : Nat) : State :=
    let r := s.nextStop p
    r.1.stopRecord p (.copy e) s.tick 0 0 r.2 0 grid ctx 5 0 0
  let s2 := match s.runningOn e with
    | some (id, c) => ((if c.grid == 0 then record 0 c.ctx else s).lateFault c.part c.grid c.ctx c.agent fcPoison 0 c.pc 0
        (.copy e) (reason := 5)).killCommand id
    | none => record 0 0xFF
  ({ s2 with engineDead := s2.engineDead.set e true }).fireVf p none 1

/-- A walker's control error: its walk ends, and its requesters are faulted with POISON (14 R374).
(DESIGN CHOICE, notes/assumptions/65.md.) -/
def State.walkerError (s : State) (p w : Nat) : State :=
  let unit : EngineId := .walker p (w % (8 * (s.part p).slices))
  let record (addr : DWord) (ctx : Nat) : State :=
    let r := s.nextStop p
    r.1.stopRecord p unit s.tick 0 addr r.2 0 0 ctx 5 0 0
  match s.walks.find w with
  | none => (record 0 0xFF).fireVf p none 1
  | some k =>
    let s1 := if k.agents.any (fun id => (s.agent id).any (·.grid != 0)) then s
      else record (BitVec.ofNat 64 (k.page * 65536)) k.ctx
    let s2 := k.agents.foldl (fun (t : State) id => match t.agent id with
      | some a => t.lateFault p a.grid a.ctx id fcPoison 0 a.nextPc 0 unit (reason := 5)
      | none => t) { s1 with walks := s1.walks.erase w }
    s2.fireVf p none 1

/-- A conductor core's error: its threads stop, until the partition's reset (14 R374). -/
def State.coreError (s : State) (p c : Nat) : State :=
  let r := s.nextStop p
  let mine (a : Agent) : Bool := a.runs && a.core == 256 + c
  let s1 := (s.agents.filter mine).foldl (fun (t : State) a =>
    (t.stopRecord p a.engine s.tick a.nextPc 0 r.2 0 0 a.ctx 5 0 0).setAgent { a with
      xqctl := a.xqctl &&& ~~~0x200, parks := [], threads := a.threads.map (fun x => { x with st := .exited }) }) r.1
  let s2 := s1.updPart p (fun q => { q with deadCores := c :: q.deadCores.filter (· != c) })
  (s2.summary p 0 0 0 r.2 0 0xFF 5 (s.agents.filter mine).length).fireVf p none 1

/-- A slice's control-state error: the slice stops, until the partition's reset (14 R374). -/
def State.sliceError (s : State) (slice : Nat) : State :=
  match s.partOf slice with
  | none => s
  | some p => (s.updPart p (fun q => { q with
      deadSlices := slice :: q.deadSlices.filter (· != slice),
      deadCores := slice :: q.deadCores.filter (· != slice) })).summary5 p

/-- UNCORRECTABLE_ERROR at each place of the package (14 R374). -/
def State.strike (s : State) (p : Nat) : ErrorSite → State
  | .memory w =>
    if s.partWord p w && s.regOf w == .u then (List.range 32).foldl (fun t i =>
      let x := 32 * lineOf w + i
      if t.regOf x == .u then t.poisonData p x 0 else t) s
    else s
  | .llc w => if s.partWord p w then s.poisonData p w 1 else s
  | .sectionWord sl w => if s.partWord p w then s.poisonSection p sl w else s
  | .scratch c a =>
    (match s.clusters.find c with
    | some k => { s with scratchPoison := s.scratchPoison.put false (scratchKey c a) true }.poisonNote p 3 k.ctx k.core a 0
    | none => s)
  | .l1 core w => (s.dropCleanLine (l1Cache core) (lineOf w)).countCorrectable p 2
  | .register row => s.poisonRegister p row
  | .accumulator core bank tile row col =>
    let e : Acc := (s.coreOf core).acc.get {} (accKey bank tile row col)
    let bad : Acc := { e with poison := true }
    (s.updCore core (fun c => { c with acc := c.acc.put {} (accKey bank tile row col) bad })).poisonNote p 5
      (s.ctxAt core bank) core tile row
  | .weight core half unit =>
    (s.updCore core (fun c => { c with panels := c.panels.drop (fun u =>
      u / 1024 == half && u % 1024 ≤ unit && unit < u % 1024 + 33) })).poisonNote p 6 (s.ctxAt core half) core unit half
  | .sliceControl sl => s.sliceError sl
  | .copyEngine e => s.engineError p e
  | .walker w => s.walkerError p w
  | .link l => { s with platform := { s.platform with retraining := l :: s.platform.retraining.filter (· != l) } }.countCorrectable p 7
  | .conductorCore c => s.coreError p c
  | .belfryBase => { s with platform := { s.platform with halted := true } }

def execUncorrectableError (part : Nat) (site : ErrorSite) (s : State) : Out :=
  .next (if (s.parts.find part).isSome || site == .belfryBase then s.strike part site else s)

/-! ### Resets of engines and links (14 R375; 05 R145; 15 R401) -/

/-- ENGINE_RESET: the engine's registered words are handled under 05 R145; a command it still ran is dispatched again.
(DEDUCED, notes/assumptions/64.md.) -/
def State.resetEngine (s : State) (e : Nat) : State :=
  let home := ((s.runningOn e).map (fun c => c.2.part)).orElse (fun _ => s.partOfEngine e)
  let s1 := match home with
    | some p => s.loseOwnerOf p (0x020 + e)
    | none => s
  { s1 with engineDead := s1.engineDead.erase e,
            cmds := s1.cmds.mapV (fun c => if c.running == some e then { c with running := none, replay := true, landed := [] } else c) }
    |>.firePf

def execEngineReset (engine : Nat) (s : State) : Out := .next (s.resetEngine engine)

/-- The partition that holds a fabric port. -/
def State.partOfPort (s : State) (port : Nat) : Option Nat :=
  (s.parts.find? (fun (x : Nat × Part) => bitN x.2.fport port)).map (·.1)

/-- An owner of a partition lost, where a partition has it. -/
def State.loseOf (s : State) (part : Option Nat) (owner : Nat) : State :=
  match part with
  | some p => s.loseOwnerOf p owner
  | none => s

/-- The owners behind a link are lost: section caches of a compute die, ports of an edge die, one port (05 R145). -/
def State.loseLink (s : State) : LinkId → State
  | .host => s
  | .compute d => (List.range 4).foldl (fun (t : State) i => t.loseOf (t.partOf (4 * d + i)) (4 * d + i)) s
  | .edge d => (List.range 64).foldl (fun (t : State) i => t.loseOf (t.partOfPort (64 * d + i)) (0x080 + 64 * d + i)) s
  | .port p => s.loseOf (s.partOfPort p) (0x080 + p)

/-- A link's retrain is over. -/
def State.retrained (s : State) (l : LinkId) : State :=
  { s with platform := { s.platform with retraining := s.platform.retraining.filter (· != l) } }

/-- LINK_RESET. -/
def State.resetLink (s : State) (l : LinkId) : State := ((s.loseLink l).retrained l).firePf

def execLinkReset (link : LinkId) (s : State) : Out := .next (s.resetLink link)

/-- Modules of a link's narrow plane (15 R401). -/
def narrowModules : LinkId → Nat
  | .compute _ => 2
  | .edge _ => 4
  | .host | .port _ => 0

/-- LINK_RETRAIN: a link retrains without loss, or a module leaves service; with the last module of a narrow plane the
die's slices are reset as for a crossbar error, or an edge die's ports are (15 R401). The host's link or a port's that an
error has sent into the retrain is reset where it fails (14 R374). (DEDUCED, notes/assumptions/64.md.) -/
def State.retrain (s : State) (l : LinkId) (m : Nat) (ok : Bool) : State :=
  if ok then s.retrained l
  else if narrowModules l == 0 && s.platform.retraining.contains l then s.resetLink l
  else if s.platform.failedModules.contains (l, m) then s
  else
    let failed := (l, m) :: s.platform.failedModules
    let s1 := { s with platform := { s.platform with failedModules := failed } }.retrained l
    let n := narrowModules l
    if n == 0 || n ≤ m || !(List.range n).all (fun i => failed.contains (l, i)) then s1
    else
      let s2 := { s1 with platform := { s1.platform with failedLinks := l :: s1.platform.failedLinks } }
      match l with
      | .compute d => (List.range 4).foldl (fun (t : State) i => t.sliceError (4 * d + i)) s2
      | _ => s2.resetLink l

def execLinkRetrain (link : LinkId) (module : Nat) (ok : Bool) (s : State) : Out := .next (s.retrain link module ok)

/-! ### Fabric ports (15 R402 to R404) -/

/-- A port's table entry: ring base, SIZE, HEAD and TAIL, with the address of the entry.
(DESIGN CHOICE, notes/assumptions/53.md.) -/
def State.portEntry (s : State) (p port : Nat) : List Word :=
  let k := ((List.range port).filter (bitN (s.part p).fport)).length
  s.getGpa p (bitsN (s.preg p 0x23) 51 6 * 2 ^ 6 + 64 * k) 6

/-- One descriptor of a port's ring becomes a command for the partition's copy engines.
(DESIGN CHOICE, notes/assumptions/67.md.) -/
def State.portCommand (s : State) (p port ring size : Nat) (i : Nat) : State :=
  let d := s.getGpa p (ring + 64 * (i % 2 ^ size)) 16
  let w (j : Nat) : Nat := (d.getD j 0).toNat
  let c : Command :=
    { kind := .cpy, queue := 0, agent := noAgent, core := 512 + port, part := p, ctx := (s.ports.get {} port).ctx,
      grid := w 14 + w 15 * 2 ^ 32, cluster := 0, pc := 0, scope := 5, ctl := d.getD 5 0, seq := i, racemode := 1,
      canon := false, pieces := [⟨pair64 (d.getD 0 0) (d.getD 1 0), pair64 (d.getD 2 0) (d.getD 3 0), w 4⟩], size := 0,
      bytes := w 4, port := some port, desc := d,
      forks := ((s.part p).portBy.get [] port).filter (fun r => (s.releases.find r).isSome) }
  { s with cmds := s.cmds.set s.nextId c, nextId := s.nextId + 1 }

/-- Descriptors of a port that were taken, that no engine has started, and that a HEAD past TAIL + 2^SIZE has overwritten,
are skipped (15 R404). -/
def State.skipOver (s : State) (port head size : Nat) : State :=
  { s with cmds := s.cmds.filter (fun e => !(e.2.port == some port && e.2.running.isNone && !e.2.sent && e.2.ended.isNone
      && decide (2 ^ size < (head + 2 ^ 32 - e.2.seq) % 2 ^ 32))) }

/-- PORT_SEND: HEAD has advanced. Every descriptor up to HEAD is taken, but for those a HEAD past TAIL + 2^SIZE has
overwritten; each waits for the releases that the writes of HEAD began (15 R404; 06 R156). DESIGN CHOICE
(notes/assumptions/53.md): a port whose table entry has a SIZE outside 4 to 12 sends nothing. -/
def State.portSend (s : State) (port : Nat) (head : Nat) : State :=
  match s.partOfPort port with
  | none => s
  | some p =>
    let e := s.portEntry p port
    let w (j : Nat) : Nat := (e.getD j 0).toNat
    let size := w 2 % 256
    let taken := (s.part p).ported.get 0 port
    if bitsN (s.preg p 0x23) 51 6 == 0 || w 4 != head || size < 4 || 12 < size || !(s.ports.get {} port).bound then s
    else
      let new := (head + 2 ^ 32 - taken) % 2 ^ 32
      let excess := (head + 2 ^ 32 - w 5) % 2 ^ 32 > 2 ^ size
      let first := if excess then new - min new (2 ^ size) else 0
      let s1 := (List.range (new - first)).foldl (fun (t : State) i =>
        t.portCommand p port (w 0 / 4096 * 4096 + w 1 * 2 ^ 32) size ((taken + first + i) % 2 ^ 32))
        (if excess then s.skipOver port head size else s)
      s1.updPart p (fun q => { q with
        ported := q.ported.set port head,
        portBy := q.portBy.set port ((q.portBy.get [] port).filter (fun r => (s.releases.find r).isSome)) })

def execPortSend (port : Nat) (head : BitVec 32) (s : State) : Out := .next (s.portSend port head.toNat)

/-- The fabric's part in an access: mode 1, no grid (05 R140, R141). (DESIGN CHOICE, notes/assumptions/67.md.) -/
def portParty (p port : Nat) : Party :=
  { part := p, ctx := 0xFF, grid := 0, agent := noAgent, issuer := 0x30000 + port, mode := 1, pc := 0 }

/-- A word that arrives on a port: registered to the port, its data held there (05 R130; 15 R404). A reduction leaves a
poisoned word as it is. (DEDUCED, notes/assumptions/68.md.) DESIGN CHOICE (notes/assumptions/77.md): through a page with
POL = 1 too it registers to the port, for R139 does not say that a port's write there takes place at the bank. -/
def State.portWord (s : State) (p port : Nat) (q : Place) (v : Word) (red : Option Nat) : State :=
  let w := q.key / 4
  let x := 0x080 + port
  let s0 := s.touchHost w
  match red with
  | some r =>
    if q.pol == 2 then s0.hostPut w (redWord r (s0.memWord w) v)
    else if s0.regOf w == .p then s0
    else
      let t := s0.register w x 0xFF
      ((t.1.setCopy x w (redWord r (s0.current w) v)).reportMaybe x w t.2 1 (portParty p port)).fireWatches w
  | none =>
    if q.pol == 2 then s0.hostPut w v
    else
      let t := s0.register w x 0xFF
      ((t.1.setCopy x w v).reportMaybe x w t.2 1 (portParty p port)).fireWatches w

/-- Data written through a port's bound context: words in order until one does not translate (15 R404), each a counted
request to its page (04 R119), and each a write that a log notes (15 R394). -/
def State.portWords (s : State) (p ctx port : Nat) (red : Option Nat) (a : DWord) : List Word → State
  | [] => s
  | v :: vs =>
    match s.xlateNow p ctx a { wr := true, rd := red.isSome } with
    | .error _ => { s with ports := s.ports.set port { s.ports.get {} port with faulted := true } }
    | .ok q =>
      let counter := if q.pol == 2 then none else countOn p ctx a.toNat q.leaf
      (((s.countDue counter (lineOf (q.key / 4))).portWord p port q v red).markHostw p).portWords p ctx port red (a + 4) vs

/-- A write-block or a forward holds data back (04 R118; 05 R131). -/
def State.portWaits (s : State) (p ctx : Nat) (a : DWord) (n : Nat) : Bool :=
  (List.range n).any (fun i => match s.xlateNow p ctx (a + BitVec.ofNat 64 (4 * i)) { wr := true } with
    | .ok q => q.wb || (q.pol != 2 && s.lineHeld (q.key / 4))
    | .error _ => false)

/-- A message at a port has to wait. -/
def State.messageWaits (s : State) (pt : Port) : FabricMsg → Bool
  | .data dst ws _ _ => !pt.faulted && s.portWaits pt.part pt.ctx dst ws.length
  | .complete chime _ => chime != 0 && !pt.faulted && s.portWaits pt.part pt.ctx chime 1

/-- The virtual addresses that a message writes at. -/
def msgAddrs (pt : Port) : FabricMsg → List Nat
  | .data dst ws _ _ => if pt.faulted || ws.isEmpty then [] else [dst.toNat, dst.toNat + 4 * ws.length - 4]
  | .complete chime _ => if pt.faulted || chime == 0 then [] else [chime.toNat]

/-- The message that releases a descriptor's data: release, chime, and the acknowledgement (15 R404).
(DEDUCED, notes/assumptions/68.md.) -/
def State.portComplete (s : State) (p port : Nat) (pt : Port) (chime : DWord) (v : Word) : State :=
  let ack (t : State) (f : Bool) : State := { t with ports := t.ports.set port { pt with faulted := false, acks := pt.acks ++ [f] } }
  if pt.faulted then ack s true
  else
    let s1 := s.flushOwners [0x080 + port]
    if chime == 0 then ack s1 false
    else match s1.xlateNow p pt.ctx chime { wr := true } with
      | .error _ => ack s1 true
      | .ok q => ack ((s1.putPlace p pt.ctx chime.toNat q v).markHostw p) false

/-- A message at a port is carried out. -/
def State.portMessage (s : State) (port : Nat) (pt : Port) : FabricMsg → State
  | .data dst ws red rty =>
    if pt.faulted then s
    else ((s.portWords pt.part pt.ctx port (if red then some rty.toNat else none) dst ws).oncePerLine s.counts.length).updPart
      pt.part (fun q => { q with touched := true })
  | .complete chime v => s.portComplete pt.part port pt chime v

/-- The messages of a port, in order, until one has to wait. -/
def State.portRun (s : State) (port : Nat) : List FabricMsg → State
  | [] => s
  | m :: ms =>
    let pt : Port := s.ports.get {} port
    let held (t : State) : State := { t with ports := t.ports.set port { pt with held := m :: ms } }
    if s.messageWaits pt m then held s
    else s.walked pt.part pt.ctx (msgAddrs pt m) (wait := held) fun t => (t.portMessage port pt m).portRun port ms

/-- FABRIC_INBOUND: a message arrives behind those that the port holds, and what need not wait is carried out, in order
(15 R402 to R404). -/
def State.fabricIn (s : State) (port : Nat) (m : FabricMsg) : State :=
  let pt : Port := s.ports.get {} port
  if !pt.bound || s.partOfPort port != some pt.part then { s with ports := s.ports.set port { pt with drops := pt.drops + 1 } }
  else { s with ports := s.ports.set port { pt with held := [] } }.portRun port (pt.held ++ [m])

/-- Messages that ports hold go on where nothing holds them any more (04 R118). -/
def State.portsRun (s : State) : State :=
  (s.ports.pick (fun _ pt => !pt.held.isEmpty)).foldl (fun (t : State) (e : Nat × Port) =>
    { t with ports := t.ports.set e.1 { e.2 with held := [] } }.portRun e.1 e.2.held) s

def execFabricInbound (port : Nat) (msg : FabricMsg) (s : State) : Out := .next (s.fabricIn port msg)

/-- PORT_REMOTE_ACK: the peer acknowledges a port's oldest descriptor that has been sent (15 R404). -/
def State.portAck (s : State) (port : Nat) (faulted : Bool) : State :=
  match (s.cmds.pick (fun _ c => c.port == some port && c.sent && c.ended.isNone)).head? with
  | some (id, c) => s.portDone id port (if faulted then 3 else 1) c
  | none => s

def execPortRemoteAck (port : Nat) (faulted : Bool) (s : State) : Out := .next (s.portAck port faulted)

/-! ### Bring-up and the module (16 R410 to R415) -/

/-- The boot ROM's check of a firmware image (16 R414). (DESIGN CHOICE, notes/assumptions/69.md.) -/
def Platform.accepts (q : Platform) : Bool :=
  q.image.signature == Config.sm2 q.fusedKey q.image.digest && decide (q.fusedMin.toNat ≤ q.image.version.toNat)

/-- The package as power and reset leave it: nothing of the package's own state is kept (16 R412, R413).
(DEDUCED, notes/assumptions/70.md; DEDUCED, notes/assumptions/72.md.) -/
def State.cold (s : State) (powered ready : Bool) : State :=
  { State.reset with
    product1T := s.product1T, plan := s.plan, free := s.free, hostOut := s.hostOut,
    mem := s.mem.drop (fun k => decide (k < hostBase)),
    platform := { image := s.platform.image, fusedKey := s.platform.fusedKey, identity := s.platform.identity,
                  fusedMin := s.platform.fusedMin, powered := powered, ready := ready } }

/-- The package comes up; READY follows only a firmware image that the boot ROM accepts, and the mailbox reports the
links and stacks that failed to train, which are free values (16 R413, R414).
(DESIGN CHOICE, notes/assumptions/70.md.) -/
def State.bringUp (s : State) : State :=
  let links := Config.untrainedLinks s.free
  let memStacks := Config.untrainedStacks s.free
  let t := (s.cold true s.platform.accepts).takeFree
  let u := { t with platform := { t.platform with failedLinks := links, failedStacks := memStacks } }
  if s.platform.accepts then u.answer (.bringUp links memStacks) else u

/-- POWER_GOOD (16 R413). -/
def execPowerGood (s : State) : Out := .next s.bringUp

/-- A package reset leads to a bring-up where the package has power (14 R374; 16 R413). -/
def execPackageReset (s : State) : Out := .next (if s.platform.powered then s.bringUp else s)

/-- STANDBY removes package power: no state is kept (16 R412). -/
def execStandby (s : State) : Out := .next (s.cold false false)

/-- CLOCK_AND_VOLTAGE_CHANGE: the blocks set their own clocks, so that bounds in clk take longer or shorter; nothing
else changes (00 R4; 16 R411). (DESIGN CHOICE, notes/assumptions/9.md.) -/
def State.setClocks (s : State) : State :=
  { s with clocks := (List.range 9).map (fun b => (b, Config.clock s.free b)), free := s.free + 1 }

def execClockAndVoltageChange (s : State) : Out := .next s.setClocks

/-- At the tick that a debug stop has been requested for, every partition ends, its grids ABORTED, and the clocks stop
(16 R410). (DEDUCED, notes/assumptions/70.md.) -/
def State.debugStop (s : State) : State :=
  if !s.platform.debugAt.any (fun t => decide (t ≤ s.tick)) then s
  else
    let t := s.parts.keys.foldl (fun (t : State) p =>
      (t.endGrids p stAborted (fun _ => true)).idleThreads (fun a => a.part == p)) s
    { t with platform := { t.platform with clocksStopped := true, scanned := true, debugAt := none } }

/-- DEBUG_STOP: the stop that the firmware has requested, where its tick has come. -/
def execDebugStop (s : State) : Out := .next s.debugStop

/-- Words of a number, the lowest first. -/
def wordsOfNat (n : Nat) (x : Nat) : List Word := (List.range n).map (fun i => wordN (x / 2 ^ (32 * i)))

/-- A digest's bytes as SM3 writes them, the most significant first. -/
def bigWords (n : Nat) (x : Nat) : List Word :=
  (List.range n).map (fun i =>
    let w := x / 2 ^ (32 * (n - 1 - i)) % 2 ^ 32
    wordN (w % 256 * 2 ^ 24 + w / 256 % 256 * 2 ^ 16 + w / 65536 % 256 * 256 + w / 2 ^ 24))

/-- A partition-table entry as it lies in the belfry (15 R385). -/
def PartEntry.words (e : PartEntry) : List Word :=
  [wordN (e.first + e.logn * 2 ^ 8 + (if e.en then 2 ^ 16 else 0)), wordN e.cegrp, wordN (e.rate + e.burst * 2 ^ 16), 0]
    ++ wordsOfNat 8 e.fport ++ List.replicate 4 0

/-- A VF-table entry (15 R392). -/
def VfEntry.words (e : VfEntry) : List Word :=
  [wordN ((if e.en then 1 else 0) + (if e.sup then 2 else 0) + e.first * 2 ^ 8 + e.ctx * 2 ^ 16), 0]

/-- The two tables, as the report's digest covers them. -/
def State.tableWords (s : State) : List Word :=
  (List.range 32).flatMap (fun i => (s.ptable.get {} i).words) ++ (List.range 1024).flatMap (fun i => (s.vfs.get {} i).words)

/-- The report for a nonce, signed by the identity key (16 R415). (DESIGN CHOICE, notes/assumptions/69.md.) -/
def State.attest (s : State) (nonce : BitVec 256) : State :=
    let q := s.platform
    let body := [0x00010009, q.image.version] ++ bigWords 8 q.image.digest.toNat ++ bigWords 8 (Config.sm3 s.tableWords).toNat
      ++ wordsOfNat 8 nonce.toNat ++ words64 s.tick ++ bigWords 16 q.identity.toNat
    let sig := Config.sm2 (Config.sm3 (wordsOfNat 16 q.identity.toNat)) (Config.sm3 body)
    { s with platform := { q with report := body ++ bigWords 16 sig.toNat, nonce := none } }

/-- ATTESTATION_REPORT: the firmware answers a mailbox request with the report for its nonce (16 R415). -/
def execAttestationReport (s : State) : Out :=
  .next (match s.platform.ready, s.platform.nonce with
  | true, some n => s.attest n
  | _, _ => s)

end Sys2Proof.Machine
end

