-- ==== Sys2Proof/Machine/Sfu.lean ====
section
/-! DEFINITION. The special functions (10 R269 to R271). The value returned inside R271's bound is a free value
(Config.sfu); the bound itself is checked against the function computed to 240 fraction bits. -/

namespace Sys2Proof.Machine

/-- The special functions by fn (10 R269). -/
inductive SfuFn where
  | rcp | rsq | sqrt | ex2 | lg2 | sin | cos | tanh
  deriving DecidableEq, Repr

/-- The fn number. -/
def SfuFn.code : SfuFn → Nat
  | .rcp => 0 | .rsq => 1 | .sqrt => 2 | .ex2 => 3 | .lg2 => 4 | .sin => 5 | .cos => 6 | .tanh => 7

/-- Fraction bits of the fixed-point values below. -/
def fxBits : Nat := 256
def fxOne : Int := 2 ^ 256
def fxMul (a b : Int) : Int := a * b / fxOne
def fxDiv (a b : Int) : Int := a * fxOne / b

/-- `num * 2^e` in fixed point, rounded down. -/
def fxOf (num : Int) (e : Int) : Int :=
  if 0 ≤ e + 256 then num * 2 ^ (e + 256).toNat else num / 2 ^ (-(e + 256)).toNat

/-- The integer square root, by `k` result bits from the top. -/
def isqrtLoop (n r : Nat) : Nat → Nat
  | 0 => r
  | k + 1 => if (r + 2 ^ k) * (r + 2 ^ k) ≤ n then isqrtLoop n (r + 2 ^ k) k else isqrtLoop n r k

def isqrt (n : Nat) : Nat := isqrtLoop n 0 (n.log2 / 2 + 1)

/-- The sum of `term / k!`-like series: each further term is the last times `step k`. -/
def fxSeries (step : Nat → Int → Int) (term acc : Int) (k : Nat) : Nat → Int
  | 0 => acc
  | n + 1 => fxSeries step (step k term) (acc + term) (k + 1) n

/-- e^x for |x| at most 1. -/
def fxExp (x : Int) : Int := fxSeries (fun k t => fxMul t x / ((k : Int) + 1)) fxOne 0 0 80

/-- Σ ± z^(2k+1) / (2k+1): atanh z, or atan z with alternating signs. -/
def fxOdd (alt : Bool) (z2 pow acc : Int) (k : Nat) : Nat → Int
  | 0 => acc
  | n + 1 =>
    let t := pow / (2 * (k : Int) + 1)
    fxOdd alt z2 (fxMul pow z2) (if alt && k % 2 == 1 then acc - t else acc + t) (k + 1) n

def fxAtanh (z : Int) : Int := fxOdd false (fxMul z z) z 0 0 90
def fxAtan (z : Int) : Int := fxOdd true (fxMul z z) z 0 0 120

def fxLn2 : Int := 2 * fxAtanh (fxOne / 3)
def fxPi : Int := 16 * fxAtan (fxOne / 5) - 4 * fxAtan (fxOne / 239)

/-- sin x for x reduced below π in magnitude. -/
def fxSinReduced (x : Int) : Int :=
  fxSeries (fun k t => -(fxMul (fxMul t x) x / ((2 * (k : Int) + 2) * (2 * (k : Int) + 3)))) x 0 0 70

/-- x less the nearest multiple of 2π. -/
def fxReduce (x : Int) : Int :=
  let tau := 2 * fxPi
  x - tau * ((x + fxPi) / tau)

def fxSin (x : Int) : Int := fxSinReduced (fxReduce x)

/-- 2^x for x between −400 and 400. -/
def fxEx2 (x : Int) : Int :=
  let n := x / fxOne
  let e := fxExp (fxMul (x - n * fxOne) fxLn2)
  if 0 ≤ n then e * 2 ^ n.toNat else e / 2 ^ (-n).toNat

/-- tanh x. -/
def fxTanh (x : Int) : Int :=
  let y := max (-100 * fxOne) (min (100 * fxOne) x)
  let e := fxEx2 (fxDiv (2 * y) fxLn2)
  fxDiv (e - fxOne) (e + fxOne)

/-- log2 of `man * 2^exp`. -/
def fxLg2 (man : Nat) (exp : Int) : Int :=
  let l := man.log2
  let z := fxDiv ((man : Int) - 2 ^ l) ((man : Int) + 2 ^ l)
  (exp + l) * fxOne + fxDiv (2 * fxAtanh z) fxLn2

/-- The function's value at a finite nonzero input of its domain, in fixed point within 2^−240. -/
def sfuApprox (fn : SfuFn) (neg : Bool) (man : Nat) (exp : Int) : Int :=
  let x := fxOf (sman neg man) exp
  match fn with
  | .rcp => if exp ≤ 256 then fxOne * 2 ^ (256 - exp).toNat / (sman neg man * 2 ^ 256) else 0
  | .rsq =>
    let e2 := if exp % 2 == 0 then exp else exp - 1
    let m2 := if exp % 2 == 0 then man else 2 * man
    if e2 ≤ 512 then ((isqrt (2 ^ (1024 - e2).toNat / m2) / 2 ^ 256 : Nat) : Int) else 0
  | .sqrt => 0
  | .ex2 => fxEx2 (max (-400 * fxOne) (min (400 * fxOne) x))
  | .lg2 => fxLg2 man exp
  | .sin => fxSin x
  | .cos => fxSin (x + fxPi / 2)
  | .tanh => fxTanh x

/-- A positive dyadic value is a power of two. -/
def isPow2 (man : Nat) : Bool := man == 2 ^ man.log2

/-- The value `x` is an integer; which one. -/
def dyInt (neg : Bool) (man : Nat) (exp : Int) : Option Int :=
  let r := roundInt .rtz neg man exp
  if r.2 then none else some r.1

/-- The exact results of 10 R270 other than the special values, as dyadic values. -/
def sfuExact (fn : SfuFn) (neg : Bool) (man : Nat) (exp : Int) : Option FVal :=
  let e := exp + man.log2
  match fn with
  | .rcp => if isPow2 man then some (.fin neg 1 (-e)) else none
  | .rsq => if isPow2 man && e % 2 == 0 then some (.fin false 1 (-e / 2)) else none
  | .ex2 => if exp + man.log2 < 12 then (dyInt neg man exp).map (fun i => .fin false 1 i) else none
  | .lg2 => if isPow2 man then some (ofInt e) else none
  | _ => none

/-- Bits of one ulp of the destination at a value, in fixed point. -/
def ulpAt (f : Fmt) (y : Int) : Int :=
  fxOf 1 (max f.qmin ((y.natAbs.log2 : Int) - 256 - f.t))

/-- The largest error of 10 R271 at the exact value `y` of the function, in fixed point.
(DEDUCED, notes/assumptions/23.md.) -/
def sfuBound (fn : SfuFn) (f : Fmt) (man : Nat) (exp : Int) (y : Int) : Int :=
  let u := ulpAt f y
  if f != fmtF32 then u
  else match fn with
    | .rcp => u
    | .rsq | .ex2 | .tanh | .sqrt => 2 * u
    | .lg2 =>
      let x := fxOf man exp
      if fxOne / 2 ≤ x && x ≤ 2 * fxOne then max (2 * u) (fxOne / 2 ^ 22) else 2 * u
    | .sin | .cos => fxOne / 2 ^ 22

/-- A code's value in fixed point, none for NaN and the infinities. -/
def fxOfCode (f : Fmt) (c : Nat) : Option Int :=
  match decodeIeee f c with
  | .fin n m e => some (fxOf (sman n m) e)
  | _ => none

/-- A code lies within the bound of the exact value `y`, whose own error is below 2^−240.
(DEDUCED, notes/assumptions/24.md.) -/
def sfuAdmits (fn : SfuFn) (f : Fmt) (man : Nat) (exp : Int) (y : Int) (c : Nat) : Bool :=
  match fxOfCode f c with
  | some v => ((v - y).natAbs : Int) ≤ sfuBound fn f man exp y + 2 ^ 16
  | none => false

/-- The inexact result: the free value where the bound admits it, else the nearest value; a zero takes the sign of
the exact result (10 R270, R271). -/
def sfuInexact (fn : SfuFn) (f : Fmt) (ty : Nat) (code : Nat) (man : Nat) (exp : Int) (y : Int) : Nat × Nat :=
  let near := roundFin f .rne (y < 0) y.natAbs (-256)
  if near.1 % 2 ^ f.signBit > f.maxCode then (near.1, stOF + stNX)
  else
    let free := Config.sfu fn.code ty code % 2 ^ f.width
    let c := if sfuAdmits fn f man exp y free then free else near.1
    let mag := c % 2 ^ f.signBit
    (if mag == 0 then f.signed (y < 0) 0 else c, if mag < 2 ^ f.t then stUF + stNX else stNX)

/-- The correctly rounded square root of a positive value (10 R271). -/
def sqrtFin (f : Fmt) (man : Nat) (exp : Int) : Nat × Nat :=
  let e := if exp % 2 == 0 then exp - 200 else exp - 201
  let n := man * 2 ^ (exp - e).toNat
  let r := isqrt n
  if r * r == n then roundFin f .rne false r (e / 2) else roundFin f .rne false (2 * r + 1) (e / 2 - 1)

/-- The function at a finite nonzero input (10 R270, R271). (DEDUCED, notes/assumptions/24.md.) -/
def sfuFinite (fn : SfuFn) (f : Fmt) (ty : Nat) (code : Nat) (neg : Bool) (man : Nat) (exp : Int) : Nat × Nat :=
  if neg && (fn == .rsq || fn == .sqrt || fn == .lg2) then (f.nanCode, stNV)
  else if fn == .sqrt then sqrtFin f man exp
  else
    match sfuExact fn neg man exp with
    | some v =>
      let r := roundVal f .rne v
      if r.2 == 0 || r.1 % 2 ^ f.signBit > f.maxCode then r
      else sfuInexact fn f ty code man exp (sfuApprox fn neg man exp)
    | none => sfuInexact fn f ty code man exp (sfuApprox fn neg man exp)

/-- The table of special inputs at zero (10 R270). -/
def sfuZero (fn : SfuFn) (f : Fmt) (neg : Bool) : Nat × Nat :=
  let inf := f.infCode.getD f.maxCode
  match fn with
  | .rcp | .rsq => (f.signed neg inf, stDZ)
  | .sqrt | .sin | .tanh => (f.signed neg 0, 0)
  | .ex2 | .cos => ((roundFin f .rne false 1 0).1, 0)
  | .lg2 => (f.signed true inf, stDZ)

/-- The table of special inputs at an infinity (10 R270). -/
def sfuInf (fn : SfuFn) (f : Fmt) (neg : Bool) : Nat × Nat :=
  let inf := f.infCode.getD f.maxCode
  match fn with
  | .rcp => (f.signed neg 0, 0)
  | .rsq => if neg then (f.nanCode, stNV) else (0, 0)
  | .sqrt | .lg2 => if neg then (f.nanCode, stNV) else (inf, 0)
  | .ex2 => if neg then (0, 0) else (inf, 0)
  | .sin | .cos => (f.nanCode, stNV)
  | .tanh => ((roundFin f .rne neg 1 0).1, 0)

/-- One element through the special-function path (10 R270, R271). -/
def sfuElem (fn : SfuFn) (f : Fmt) (ty : Nat) (code : Nat) : Nat × Nat :=
  match decodeIeee f code with
  | .nan sg => (f.nanCode, if sg then stNV else 0)
  | .inf neg => sfuInf fn f neg
  | .fin neg man exp => if man == 0 then sfuZero fn f neg else sfuFinite fn f ty (code % 2 ^ f.width) neg man exp

end Sys2Proof.Machine
end

