-- ==== Sys2Proof/Machine/Special.lean ====
section
/-! DEFINITION. SFU (10 R269 to R271). -/

namespace Sys2Proof.Machine

/-- An SFU word: its function of each element of a. The free value of an inexact result is keyed by the element's
type, so that a packed element and a scalar give the same bits (10 R271). -/
def State.sfuWord (s : State) (fn : SfuFn) (w : W3) : State :=
  s.w3 0x06 fn.code w (fun act => s.finish (act.map (fun l =>
    let ety := match w.ty with
      | .f16 | .f16x2 => 5
      | .bf16 | .bf16x2 => 6
      | _ => 4
    outOf w.ty l w.d.toNat (mapElems w.ty (s.opA w l) (fun _ x => sfuElem fn (fmtOf w.ty) ety x)))))

def execFrcp (w : W3) (s : State) : Out := .next (s.sfuWord .rcp w)
def execFrsq (w : W3) (s : State) : Out := .next (s.sfuWord .rsq w)
def execFsqrt (w : W3) (s : State) : Out := .next (s.sfuWord .sqrt w)
def execFex2 (w : W3) (s : State) : Out := .next (s.sfuWord .ex2 w)
def execFlg2 (w : W3) (s : State) : Out := .next (s.sfuWord .lg2 w)
def execFsin (w : W3) (s : State) : Out := .next (s.sfuWord .sin w)
def execFcos (w : W3) (s : State) : Out := .next (s.sfuWord .cos w)
def execFtanh (w : W3) (s : State) : Out := .next (s.sfuWord .tanh w)

end Sys2Proof.Machine
end

