-- ==== Sys2Proof/Machine/Dispatch.lean ====
section
/-! DEFINITION. One arm per instruction and hardware step, each one call of its meaning. -/

namespace Sys2Proof.Machine

/-- The meaning of an instruction, or of a step of the hardware. -/
def exec (i : Instr) (s : State) : Host.Outcome State Fault Refusal :=
  match i with
  | .iadd w => Sys2Proof.Machine.execIadd w s
  | .isub w => Sys2Proof.Machine.execIsub w s
  | .imul w => Sys2Proof.Machine.execImul w s
  | .imulh w => Sys2Proof.Machine.execImulh w s
  | .imad w => Sys2Proof.Machine.execImad w s
  | .idiv w => Sys2Proof.Machine.execIdiv w s
  | .irem w => Sys2Proof.Machine.execIrem w s
  | .imin w => Sys2Proof.Machine.execImin w s
  | .imax w => Sys2Proof.Machine.execImax w s
  | .iabs w => Sys2Proof.Machine.execIabs w s
  | .ineg w => Sys2Proof.Machine.execIneg w s
  | .iaddc w => Sys2Proof.Machine.execIaddc w s
  | .isubb w => Sys2Proof.Machine.execIsubb w s
  | .sel w => Sys2Proof.Machine.execSel w s
  | .lea w => Sys2Proof.Machine.execLea w s
  | .icmp w => Sys2Proof.Machine.execIcmp w s
  | .iaddi w => Sys2Proof.Machine.execIaddi w s
  | .imuli w => Sys2Proof.Machine.execImuli w s
  | .andi w => Sys2Proof.Machine.execAndi w s
  | .ori w => Sys2Proof.Machine.execOri w s
  | .xori w => Sys2Proof.Machine.execXori w s
  | .shli w => Sys2Proof.Machine.execShli w s
  | .shri w => Sys2Proof.Machine.execShri w s
  | .sari w => Sys2Proof.Machine.execSari w s
  | .movi w => Sys2Proof.Machine.execMovi w s
  | .movhi w => Sys2Proof.Machine.execMovhi w s
  | .icmpi w => Sys2Proof.Machine.execIcmpi w s
  | .and w => Sys2Proof.Machine.execAnd w s
  | .or w => Sys2Proof.Machine.execOr w s
  | .xor w => Sys2Proof.Machine.execXor w s
  | .andn w => Sys2Proof.Machine.execAndn w s
  | .not w => Sys2Proof.Machine.execNot w s
  | .shl w => Sys2Proof.Machine.execShl w s
  | .shr w => Sys2Proof.Machine.execShr w s
  | .sar w => Sys2Proof.Machine.execSar w s
  | .rol w => Sys2Proof.Machine.execRol w s
  | .bfx w => Sys2Proof.Machine.execBfx w s
  | .bfi w => Sys2Proof.Machine.execBfi w s
  | .popc w => Sys2Proof.Machine.execPopc w s
  | .clz w => Sys2Proof.Machine.execClz w s
  | .ctz w => Sys2Proof.Machine.execCtz w s
  | .brev w => Sys2Proof.Machine.execBrev w s
  | .mov w => Sys2Proof.Machine.execMov w s
  | .fadd w => Sys2Proof.Machine.execFadd w s
  | .fsub w => Sys2Proof.Machine.execFsub w s
  | .fmul w => Sys2Proof.Machine.execFmul w s
  | .ffma w => Sys2Proof.Machine.execFfma w s
  | .fmin w => Sys2Proof.Machine.execFmin w s
  | .fmax w => Sys2Proof.Machine.execFmax w s
  | .fabs w => Sys2Proof.Machine.execFabs w s
  | .fneg w => Sys2Proof.Machine.execFneg w s
  | .fcmp w => Sys2Proof.Machine.execFcmp w s
  | .fclass w => Sys2Proof.Machine.execFclass w s
  | .frnd w => Sys2Proof.Machine.execFrnd w s
  | .fscal w => Sys2Proof.Machine.execFscal w s
  | .fcopys w => Sys2Proof.Machine.execFcopys w s
  | .fcvtFloat w => Sys2Proof.Machine.execFcvtFloat w s
  | .fcvtFromBinary8 w => Sys2Proof.Machine.execFcvtFromBinary8 w s
  | .fcvtToBinary8 w => Sys2Proof.Machine.execFcvtToBinary8 w s
  | .icvt w => Sys2Proof.Machine.execIcvt w s
  | .fpack w => Sys2Proof.Machine.execFpack w s
  | .funpack w => Sys2Proof.Machine.execFunpack w s
  | .frcp w => Sys2Proof.Machine.execFrcp w s
  | .frsq w => Sys2Proof.Machine.execFrsq w s
  | .fsqrt w => Sys2Proof.Machine.execFsqrt w s
  | .fex2 w => Sys2Proof.Machine.execFex2 w s
  | .flg2 w => Sys2Proof.Machine.execFlg2 w s
  | .fsin w => Sys2Proof.Machine.execFsin w s
  | .fcos w => Sys2Proof.Machine.execFcos w s
  | .ftanh w => Sys2Proof.Machine.execFtanh w s
  | .pairedWord w => Sys2Proof.Machine.execPairedWord w s
  | .shfl w => Sys2Proof.Machine.execShfl w s
  | .vote w => Sys2Proof.Machine.execVote w s
  | .bcast w => Sys2Proof.Machine.execBcast w s
  | .redux w => Sys2Proof.Machine.execRedux w s
  | .scan w => Sys2Proof.Machine.execScan w s
  | .matchLanes w => Sys2Proof.Machine.execMatchLanes w s
  | .lmask w => Sys2Proof.Machine.execLmask w s
  | .split w => Sys2Proof.Machine.execSplit w s
  | .fuse w => Sys2Proof.Machine.execFuse w s
  | .fuseq w => Sys2Proof.Machine.execFuseq w s
  | .rng w => Sys2Proof.Machine.execRng w s
  | .rngseed w => Sys2Proof.Machine.execRngseed w s
  | .rngskip w => Sys2Proof.Machine.execRngskip w s
  | .smov w => Sys2Proof.Machine.execSmov w s
  | .smovw w => Sys2Proof.Machine.execSmovw w s
  | .xacq w => Sys2Proof.Machine.execXacq w s
  | .xrel w => Sys2Proof.Machine.execXrel w s
  | .push w => Sys2Proof.Machine.execPush w s
  | .pop w => Sys2Proof.Machine.execPop w s
  | .qpoll w => Sys2Proof.Machine.execQpoll w s
  | .qlen w => Sys2Proof.Machine.execQlen w s
  | .bra w => Sys2Proof.Machine.execBra w s
  | .call w => Sys2Proof.Machine.execCall w s
  | .loop w => Sys2Proof.Machine.execLoop w s
  | .jmpr w => Sys2Proof.Machine.execJmpr w s
  | .callr w => Sys2Proof.Machine.execCallr w s
  | .ret w => Sys2Proof.Machine.execRet w s
  | .brk w => Sys2Proof.Machine.execBrk w s
  | .meet w => Sys2Proof.Machine.execMeet w s
  | .nop w => Sys2Proof.Machine.execNop w s
  | .exit w => Sys2Proof.Machine.execExit w s
  | .tail w => Sys2Proof.Machine.execTail w s
  | .trap w => Sys2Proof.Machine.execTrap w s
  | .yield w => Sys2Proof.Machine.execYield w s
  | .spin w => Sys2Proof.Machine.execSpin w s
  | .ld w => Sys2Proof.Machine.execLd w s
  | .ldacq w => Sys2Proof.Machine.execLdacq w s
  | .lddec w => Sys2Proof.Machine.execLddec w s
  | .ldnt w => Sys2Proof.Machine.execLdnt w s
  | .pref w => Sys2Proof.Machine.execPref w s
  | .st w => Sys2Proof.Machine.execSt w s
  | .strel w => Sys2Proof.Machine.execStrel w s
  | .stnt w => Sys2Proof.Machine.execStnt w s
  | .aadd w => Sys2Proof.Machine.execAadd w s
  | .amin w => Sys2Proof.Machine.execAmin w s
  | .amax w => Sys2Proof.Machine.execAmax w s
  | .aand w => Sys2Proof.Machine.execAand w s
  | .aor w => Sys2Proof.Machine.execAor w s
  | .axor w => Sys2Proof.Machine.execAxor w s
  | .axch w => Sys2Proof.Machine.execAxch w s
  | .acas w => Sys2Proof.Machine.execAcas w s
  | .ainc w => Sys2Proof.Machine.execAinc w s
  | .adec w => Sys2Proof.Machine.execAdec w s
  | .aaddf w => Sys2Proof.Machine.execAaddf w s
  | .radd w => Sys2Proof.Machine.execRadd w s
  | .rmin w => Sys2Proof.Machine.execRmin w s
  | .rmax w => Sys2Proof.Machine.execRmax w s
  | .rand w => Sys2Proof.Machine.execRand w s
  | .ror w => Sys2Proof.Machine.execRor w s
  | .rxor w => Sys2Proof.Machine.execRxor w s
  | .raddf w => Sys2Proof.Machine.execRaddf w s
  | .fence w => Sys2Proof.Machine.execFence w s
  | .acq w => Sys2Proof.Machine.execAcq w s
  | .rel w => Sys2Proof.Machine.execRel w s
  | .regionInvalidate w => Sys2Proof.Machine.execRegionInvalidate w s
  | .regionRewrite w => Sys2Proof.Machine.execRegionRewrite w s
  | .waitm w => Sys2Proof.Machine.execWaitm w s
  | .cpy w => Sys2Proof.Machine.execCpy w s
  | .gath w => Sys2Proof.Machine.execGath w s
  | .scat w => Sys2Proof.Machine.execScat w s
  | .coll w => Sys2Proof.Machine.execColl w s
  | .tagwa w => Sys2Proof.Machine.execTagwa w s
  | .tagwy w => Sys2Proof.Machine.execTagwy w s
  | .tagff w => Sys2Proof.Machine.execTagff w s
  | .tagclr w => Sys2Proof.Machine.execTagclr w s
  | .gongi w => Sys2Proof.Machine.execGongi w s
  | .gonga w => Sys2Proof.Machine.execGonga w s
  | .gongw w => Sys2Proof.Machine.execGongw w s
  | .gongt w => Sys2Proof.Machine.execGongt w s
  | .chset w => Sys2Proof.Machine.execChset w s
  | .chwait w => Sys2Proof.Machine.execChwait w s
  | .chclr w => Sys2Proof.Machine.execChclr w s
  | .mma w => Sys2Proof.Machine.execMma w s
  | .mzero w => Sys2Proof.Machine.execMzero w s
  | .mres w => Sys2Proof.Machine.execMres w s
  | .mcmp w => Sys2Proof.Machine.execMcmp w s
  | .msta w => Sys2Proof.Machine.execMsta w s
  | .msave w => Sys2Proof.Machine.execMsave w s
  | .mrest w => Sys2Proof.Machine.execMrest w s
  | .mldb w => Sys2Proof.Machine.execMldb w s
  | .manch w => Sys2Proof.Machine.execManch w s
  | .mbank w => Sys2Proof.Machine.execMbank w s
  | .launch w => Sys2Proof.Machine.execLaunch w s
  | .ldisp w => Sys2Proof.Machine.execLdisp w s
  | .lstat w => Sys2Proof.Machine.execLstat w s
  | .csrr w => Sys2Proof.Machine.execCsrr w s
  | .csrw w => Sys2Proof.Machine.execCsrw w s
  | .tlbinvRange w => Sys2Proof.Machine.execTlbinvRange w s
  | .tlbinvCtx w => Sys2Proof.Machine.execTlbinvCtx w s
  | .tlbinvPart w => Sys2Proof.Machine.execTlbinvPart w s
  | .tlbinvAll w => Sys2Proof.Machine.execTlbinvAll w s
  | .haltGrid w => Sys2Proof.Machine.execHaltGrid w s
  | .haltCtx w => Sys2Proof.Machine.execHaltCtx w s
  | .resumeGrid w => Sys2Proof.Machine.execResumeGrid w s
  | .resumeCtx w => Sys2Proof.Machine.execResumeCtx w s
  | .tret w => Sys2Proof.Machine.execTret w s
  | .ctxsv w => Sys2Proof.Machine.execCtxsv w s
  | .ctxrs w => Sys2Proof.Machine.execCtxrs w s
  | .errclr w => Sys2Proof.Machine.execErrclr w s
  | .errclrCo w => Sys2Proof.Machine.execErrclrCo w s
  | .knell w => Sys2Proof.Machine.execKnell w s
  | .loadDataReturn req => Sys2Proof.Machine.execLoadDataReturn req s
  | .storeDrain req => Sys2Proof.Machine.execStoreDrain req s
  | .pageWalk walk => Sys2Proof.Machine.execPageWalk walk s
  | .writeBlockRetry agent => Sys2Proof.Machine.execWriteBlockRetry agent s
  | .registrationRequest req => Sys2Proof.Machine.execRegistrationRequest req s
  | .bankRead req => Sys2Proof.Machine.execBankRead req s
  | .bankAccess req => Sys2Proof.Machine.execBankAccess req s
  | .forwardReply line => Sys2Proof.Machine.execForwardReply line s
  | .releasePush rel => Sys2Proof.Machine.execReleasePush rel s
  | .pushAcknowledge rel => Sys2Proof.Machine.execPushAcknowledge rel s
  | .sectionCacheWriteBack sec line => Sys2Proof.Machine.execSectionCacheWriteBack sec line s
  | .llcFill line codeFails => Sys2Proof.Machine.execLlcFill line codeFails s
  | .wayUnitDrain part unit => Sys2Proof.Machine.execWayUnitDrain part unit s
  | .correctableError part kind => Sys2Proof.Machine.execCorrectableError part kind s
  | .uncorrectableError part site => Sys2Proof.Machine.execUncorrectableError part site s
  | .watchFire agent => Sys2Proof.Machine.execWatchFire agent s
  | .waitmPoll agent => Sys2Proof.Machine.execWaitmPoll agent s
  | .waitmLimitExpiry agent => Sys2Proof.Machine.execWaitmLimitExpiry agent s
  | .commandDispatch engine => Sys2Proof.Machine.execCommandDispatch engine s
  | .copyBeat engine => Sys2Proof.Machine.execCopyBeat engine s
  | .commandCompletion cmd => Sys2Proof.Machine.execCommandCompletion cmd s
  | .weightLoadComplete cmd => Sys2Proof.Machine.execWeightLoadComplete cmd s
  | .callReplyFetch agent => Sys2Proof.Machine.execCallReplyFetch agent s
  | .mmaRowsReady core => Sys2Proof.Machine.execMmaRowsReady core s
  | .fuseWaitExpiry agent => Sys2Proof.Machine.execFuseWaitExpiry agent s
  | .warpRotation core => Sys2Proof.Machine.execWarpRotation core s
  | .spinDemotion core => Sys2Proof.Machine.execSpinDemotion core s
  | .watchdog agent => Sys2Proof.Machine.execWatchdog agent s
  | .stallSample core => Sys2Proof.Machine.execStallSample core s
  | .gatedChimeWait part grid cluster => Sys2Proof.Machine.execGatedChimeWait part grid cluster s
  | .clusterAdmission part => Sys2Proof.Machine.execClusterAdmission part s
  | .clusterStart cluster => Sys2Proof.Machine.execClusterStart cluster s
  | .gridCompletion part grid => Sys2Proof.Machine.execGridCompletion part grid s
  | .engineStopPoint part engine => Sys2Proof.Machine.execEngineStopPoint part engine s
  | .rollCallComplete part => Sys2Proof.Machine.execRollCallComplete part s
  | .preemptDelivery agent => Sys2Proof.Machine.execPreemptDelivery agent s
  | .quiescenceComplete part work => Sys2Proof.Machine.execQuiescenceComplete part work s
  | .sliceExpiry part => Sys2Proof.Machine.execSliceExpiry part s
  | .hostCompletionTimeout req => Sys2Proof.Machine.execHostCompletionTimeout req s
  | .partitionReset part => Sys2Proof.Machine.execPartitionReset part s
  | .engineReset engine => Sys2Proof.Machine.execEngineReset engine s
  | .linkReset link => Sys2Proof.Machine.execLinkReset link s
  | .linkRetrain link module ok => Sys2Proof.Machine.execLinkRetrain link module ok s
  | .barRead fn bar off size => Sys2Proof.Machine.execBarRead fn bar off size s
  | .barWrite fn bar off size value => Sys2Proof.Machine.execBarWrite fn bar off size value s
  | .contextHaltCmd vf => Sys2Proof.Machine.execContextHaltCmd vf s
  | .contextResumeCmd vf => Sys2Proof.Machine.execContextResumeCmd vf s
  | .contextAbortCmd vf => Sys2Proof.Machine.execContextAbortCmd vf s
  | .partitionHaltCmd part => Sys2Proof.Machine.execPartitionHaltCmd part s
  | .partitionResumeCmd part => Sys2Proof.Machine.execPartitionResumeCmd part s
  | .partitionAbortCmd part => Sys2Proof.Machine.execPartitionAbortCmd part s
  | .pcknell part deadline => Sys2Proof.Machine.execPcknell part deadline s
  | .vfFunctionLevelReset vf => Sys2Proof.Machine.execVfFunctionLevelReset vf s
  | .partitionTableWrite index entry => Sys2Proof.Machine.execPartitionTableWrite index entry s
  | .vfTableWrite vf entry => Sys2Proof.Machine.execVfTableWrite vf entry s
  | .threadStart thread => Sys2Proof.Machine.execThreadStart thread s
  | .llcmapWrite part value => Sys2Proof.Machine.execLlcmapWrite part value s
  | .registerWrite part reg value => Sys2Proof.Machine.execRegisterWrite part reg value s
  | .portSend port head => Sys2Proof.Machine.execPortSend port head s
  | .fabricInbound port msg => Sys2Proof.Machine.execFabricInbound port msg s
  | .portRemoteAck port faulted => Sys2Proof.Machine.execPortRemoteAck port faulted s
  | .tlbinvCompletion op => Sys2Proof.Machine.execTlbinvCompletion op s
  | .accessCounterIncrement => Sys2Proof.Machine.execAccessCounterIncrement s
  | .preemptLimitExpiry => Sys2Proof.Machine.execPreemptLimitExpiry s
  | .knellDecision => Sys2Proof.Machine.execKnellDecision s
  | .knellRecompute => Sys2Proof.Machine.execKnellRecompute s
  | .knellDeadline => Sys2Proof.Machine.execKnellDeadline s
  | .powerGood => Sys2Proof.Machine.execPowerGood s
  | .debugStop => Sys2Proof.Machine.execDebugStop s
  | .attestationReport => Sys2Proof.Machine.execAttestationReport s
  | .pfFunctionLevelReset => Sys2Proof.Machine.execPfFunctionLevelReset s
  | .illegalInstruction => Sys2Proof.Machine.execIllegalInstruction s
  | .standby => Sys2Proof.Machine.execStandby s
  | .packageReset => Sys2Proof.Machine.execPackageReset s
  | .clockAndVoltageChange => Sys2Proof.Machine.execClockAndVoltageChange s

end Sys2Proof.Machine
end

