-- ==== Sys2Proof/Machine/Tidy.lean ====
section
/-! DEFINITION. What follows every step by itself: warps that have ended free their slots (11 R291, R292), tracker
entries drain (13 R346), clusters retire (13 R338; 07 R172), grids reach DRAINING (13 R331), gated clusters' chimes
are watched (13 R336), and warps change sets (13 R342). -/

namespace Sys2Proof.Machine

/-- A warp whose threads have all exited. -/
def Agent.hasEnded (a : Agent) : Bool := a.isWarp && !a.threads.any Thread.live

/-- An ended warp still holds the lock of its pair group, and its writes to the extended set have landed (09 R227,
R232). -/
def State.lockDue (s : State) (a : Agent) : Bool :=
  a.hasEnded && !a.pend.any (fun p => extRow p.row) && (s.lock a.core a.pairGroup).holder == some a.slot

/-- Ended warps let their pair locks go (09 R227; 11 R291). -/
def State.passEnded (s : State) : State :=
  (s.agents.filter s.lockDue).foldl (fun t a => t.passLock a.core a.pairGroup a.slot) s

/-- Accesses that an ended warp's slot waits for: stores and returning atomics, as against loads and reductions
(11 R291). -/
def Access.keepsSlot (a : Access) : Bool :=
  match a.kind with
  | .atomic fn => fn ≤ 10
  | k => !k.reads

/-- A warp that has ended, with no store, returning atomic or write to the extended set outstanding (11 R291). -/
def State.reapable (s : State) (a : Agent) : Bool :=
  a.hasEnded && !a.pend.any (fun p => extRow p.row)
    && !s.accesses.anyV (fun x => x.agent == a.id && !x.detached && x.keepsSlot)

/-- Ended warps are gone; their commands complete without them, what their loads obtain is discarded, and their
reductions drain. -/
def State.reap (s : State) : State :=
  let ids := (s.agents.filter s.reapable).map Agent.id
  if ids.isEmpty then s
  else
    let s1 := { s with
      cmds := s.cmds.mapV (fun c => if ids.contains c.agent then { c with agent := noAgent } else c),
      accesses := s.accesses.mapV (fun a => if ids.contains a.agent then { a with detached := true } else a) }
    s1.dropAgents (fun a => ids.contains a.id)

/-- What of a tracker entry is still outstanding. -/
def State.remaining (s : State) (d : Detached) : Detached :=
  { d with reqs := d.reqs.filter (fun k => (s.accesses.find k).isSome), cmds := d.cmds.filter (fun k => (s.cmds.find k).isSome) }

/-- A tracker entry frees once all its work has drained (13 R346). -/
def State.drainTrackers (s : State) : State :=
  { s with cores := s.cores.mapV (fun c => { c with
      tracker := (c.tracker.map s.remaining).filter (fun d => !(d.reqs.isEmpty && d.cmds.isEmpty)) }) }

/-- Every warp of a started cluster has ended and its writes have drained (13 R338); its commands, and an entry of the
tracker that holds only commands, are the grid's alone (08 R223). -/
def State.clusterDone (s : State) (k : Nat) (c : Cluster) : Bool :=
  c.started && !c.ended && !s.agents.any (fun a => a.isWarp && a.cluster == k)
    && !s.accesses.anyV (fun a => a.cluster == k && !a.kind.reads)

/-- A cluster's slots, frames, rows, tiles and locks are free; its scratchpad stays (07 R172). -/
def Cluster.freed (c : Cluster) : Cluster :=
  { c with ended := true, frames := [], slots := [], regE := 0, acc := 0, tags := {} }

/-- A section group whose clusters have all ended. -/
def State.groupEnded (s : State) (c : Cluster) : Bool :=
  !s.clusters.anyV (fun x => x.part == c.part && x.grid == c.grid && x.group == c.group && !x.ended)

/-- A cluster retires. -/
def State.retireCluster (s : State) (k : Nat) (c : Cluster) : State :=
  let s1 := s.updPart c.part (fun q => match q.grids.find c.grid with
    | some g => { q with grids := q.grids.set c.grid { g with
        retired := c.index :: g.retired.filter (· != c.index), retireTicks := s.tick :: g.retireTicks } }
    | none => q)
  if c.group.isNone then s1.dropCluster k
  else
    let s2 := { s1 with
      clusters := s1.clusters.set k c.freed,
      locks := c.slots.foldl (fun m sl => SMap.erase m (lockKey c.core (sl / 2))) s1.locks }
    if s2.groupEnded c then
      (s2.clusters.keysOf (fun x => x.part == c.part && x.grid == c.grid && x.group == c.group)).foldl State.dropCluster s2
    else s2

/-- Clusters that are done retire, one after another. -/
def State.retireClusters (s : State) : State :=
  (s.clusters.pick s.clusterDone).foldl (fun (t : State) (e : Nat × Cluster) => t.retireCluster e.1 e.2) s

/-- Every thread of a grid has exited: its clusters are all placed and started, and none runs (13 R331). -/
def State.gridDraining (s : State) (p k : Nat) (g : Grid) : Bool :=
  g.st == .running && g.ending.isNone && g.placed == g.units
    && !s.clusters.anyV (fun c => c.part == p && c.grid == k && !c.started) && !s.gridRuns p k

/-- Grids that every thread has left are DRAINING. -/
def State.markDraining (s : State) : State :=
  s.parts.foldl (fun (t : State) (e : Nat × Part) =>
    (e.2.grids.pick (fun k g => t.gridDraining e.1 k g)).foldl (fun (t : State) (x : Nat × Grid) =>
      t.setGrid e.1 x.1 { x.2 with st := .draining }) t) s

/-- The chimes of every gated grid's clusters as they stand. -/
def State.watchGates (s : State) : State :=
  s.parts.foldl (fun (t : State) (e : Nat × Part) =>
    (e.2.grids.pick (fun _ g => Desc.gate g.d)).foldl (fun (t : State) (x : Nat × Grid) =>
      match (t.part e.1).grids.find x.1 with
      | some g => t.watchChimes e.1 x.1 g
      | none => t) t) s

/-- What follows every step. -/
def State.tidy (s : State) : State := s.settleDues.passEnded.reap.drainTrackers.retireClusters.markDraining.watchGates.schedule

end Sys2Proof.Machine
end

