-- ==== Sys2Proof/Machine/Issue.lean ====
section
/-! DEFINITION. One step of the package: a word issues (02 R52 to R54; 09 R231; 11 R276), or a step of the hardware takes
place, as the plan says or in the model's own order where it says nothing (notes/assumptions/8.md). -/

namespace Sys2Proof.Machine

/-! ### Issue -/

/-- An outcome's next state carried on. -/
def andThen (o : Out) (f : State → State) : Out :=
  match o with
  | .next s => .next (f s)
  | .fault r => .fault r
  | .refused r => .refused r

/-- The engine of an agent may proceed: no stop line, no stopped slice holds it. -/
def State.engineFree (s : State) (a : Agent) : Bool :=
  a.kind == .management || ((s.parts.find a.part).isSome && !(s.part a.part).holds a.engine)

/-- The group at an address is the one that issued last: it holds the first of that one's lanes that can still run, for
lanes exit and are held at meeting points (11 R276). -/
def Agent.wentLast (a : Agent) (pc : DWord) : Bool :=
  (a.lastLanes.find? (fun l => (a.threads[l]?).any (·.st == .runnable))).any (a.groupAt pc).contains

/-- No other group of the warp has waited while this one issued 256 words in a row, or has yielded (11 R276, R294). -/
def Agent.fair (a : Agent) (pc : DWord) : Bool :=
  !((a.yielded || 256 ≤ a.inRow) && a.wentLast pc) || !a.groupPcs.any (fun c => c != pc && a.open_ c)

/-- A spin's 17 clk are over, at the clock as it is now (00 R4; 11 R294). -/
def State.spinOver (s : State) (a : Agent) : Bool :=
  a.quiet.all (fun t => t + s.clkTicks (dieOf a.core) 17 ≤ s.tick)

/-- A group of an agent may issue its word: it is set aside by nothing, no spin holds it back, its warp is in the active set, no park holds it,
and no PREEMPT is due (11 R276; 13 R342; 14 R352, R359). -/
def State.mayIssue (s : State) (a : Agent) (pc : DWord) : Bool :=
  a.halted == .none && s.spinOver a && s.engineFree a && a.open_ pc && a.fair pc
    && (if a.isWarp then a.sched == .active && !(a.preempt && a.loops.isEmpty)
      else a.kind == .management || bitN a.xqctl.toNat 9)

/-- A conductor thread's turn: its core takes its ready threads in round-robin order of their numbers (13 R324). -/
def State.inTurn (s : State) (a : Agent) : Bool :=
  match a.kind with
  | .conductor n =>
    let ready (t : Nat) : Bool := (s.agent (8192 + t)).any (fun b => b.groupPcs.any (s.mayIssue b))
    (((List.range 8).map (fun i => n / 8 * 8 + (s.threadTurn.get 7 (n / 8) + 1 + i) % 8)).find? ready).all (· == n)
  | _ => true

/-- The word waits for a pending register: its group parks until the write, and event 2 counts it (09 R231; 13 R342;
16 R406). (DESIGN CHOICE, notes/assumptions/55.md.) -/
def State.parkReg (s : State) (q : Pend) : State :=
  match s.parked with
  | some _ => s
  | none => (s.countMine 2 1).updMe (fun a => { a with
      parks := { pc := s.issuePc, wait := .reg q.req, since := s.tick, t0 := s.tick, begun := false } :: a.parks })

/-- A fetch has missed: its group parks for the walk, its word not begun (04 R111). -/
def State.parkFetch (s : State) (q : State × Option Nat) : State :=
  let begun := s.parked.any (·.begun)
  let t := match q.2 with
    | some w => q.1.park (.walk w)
    | none => q.1.park .retry
  t.updMe (fun a => { a with parks := a.parks.map (fun p => if p.pc == s.issuePc then { p with begun := begun } else p) })

def isSpin : Instr → Bool
  | .spin _ => true
  | _ => false

/-- A yield of some thread (11 R294). -/
def State.yields (s : State) : Instr → Bool
  | .yield w => !(s.active w.g w.gn).isEmpty
  | _ => false

/-- Registers that a word's reuse hints name (02 R42; 09 R233). -/
def hinted (i : Instr) : List Nat :=
  match i.fields with
  | .w3 major fn w => (match w3Shape major fn w with
    | some h => ((if w.hintA then fieldRegs h.a w.ty w.a else []) ++ (if w.hintB then fieldRegs h.b w.ty w.b else [])).eraseDups
    | none => [])
  | _ => []

/-- The register cache with hinted sources entered, before those that the word has written (09 R233). A hinted source
that is held enters anew. (DESIGN CHOICE, notes/assumptions/81.md.) -/
def withHints (old new hints : List Nat) : List Nat :=
  let wrote := new.filter (fun n => !old.contains n)
  let hs := hints.filter (fun n => !wrote.contains n)
  (wrote ++ hs ++ new.filter (fun n => !wrote.contains n && !hs.contains n)).take 6

/-- What an issued word leaves beside its effect: events 0 and 6, the watchdog's clock, the spinning mark, the row of issues, the
register cache's hinted sources and its conductor core's turn (09 R233; 11 R276, R294; 13 R324; 14 R357; 16 R406). A word
that parks anew, having been parked, has issued before. (DEDUCED, notes/assumptions/71.md.) DESIGN CHOICE
(notes/assumptions/80.md): a spin that no lane passes is a word with a spin, so the count of 256 words restarts at it. -/
def issued (s : State) (i : Option Instr) (t : State) : State :=
  let id := s.me.id
  let pc := s.issuePc
  let lanes := s.group
  let first := s.parked.isNone
  let retired := !((t.agent id).any (fun a => (a.parkAt pc).isSome))
  let count (t : State) (i : Nat) : State := t.countEvent s.me.part (countsIn id s.me.ctx) i 1
  let t0 := if first then (if s.me.bufferMiss pc then count (count t 0) 6 else count t 0) else t
  let t1 := match s.me.kind with
    | .conductor n => { t0 with threadTurn := t0.threadTurn.set (n / 8) (n % 8) }
    | _ => t0
  let rival := s.me.groupPcs.any (fun c => c != pc && s.me.open_ c)
  t1.updAgent id (fun a =>
    let n := if i.any isSpin then 0 else a.sinceSpin + 1
    let parks := a.isWarp && a.sched == .active && !a.groupPcs.isEmpty && !a.anyOpen
    { a with
      lastIssue := if first || retired then s.tick else a.lastIssue,
      sinceSpin := n,
      spinning := a.spinning && decide (n < 256) && !parks,
      inRow := if !rival then 0 else if s.me.wentLast pc then min 256 (a.inRow + 1) else 1,
      lastLanes := lanes,
      yielded := i.any s.yields,
      cache := if parks then [] else if retired && a.isWarp && a.sched == .active then
          withHints s.me.cache a.cache (i.elim [] hinted) else a.cache,
      sched := if parks then .parked else a.sched })

/-- A decode fault as the Q9 raises it (02 R52). -/
def decodeCode : DecodeFault → Nat
  | .banks => fcIllegalPair
  | _ => fcIllegalInstruction

/-- A word that has been fetched: decoded, interlocked, and executed (02 R52; 09 R231).
(DEDUCED, notes/assumptions/71.md.) -/
def State.runWord (s : State) (w : DWord) : Out :=
  match decode w with
  | .error e => .next (issued s none (s.faultHere (decodeCode e) (s.group.headD 0)))
  | .ok i =>
    match s.me.awaits i with
    | some q => .next (s.parkReg q)
    | none => andThen (exec i s) (issued s (some i))

/-- The issuing agent's word is fetched and runs; a fault of the fetch belongs to it (02 R54). -/
def State.runMe (s : State) : Out :=
  let r := s.fetch
  match r.2 with
  | .word w => r.1.runWord w
  | .fault code detail => .next (r.1.takeFault code (s.group.headD 0) detail s.issuePc)
  | .miss page =>
    .next (r.1.parkFetch (r.1.requestWalk page))

/-- An agent's group issues its word, where it may. -/
def State.issue (s : State) (id : Nat) (pc : DWord) : Out :=
  match s.agent id with
  | none => .next s
  | some a => if s.mayIssue a pc && s.inTurn a then (s.focus id pc).runMe else .next s

/-! ### Steps of the hardware -/

/-- A step of the hardware; a word of a program is none, and it is not executed as one. -/
def isEvent (i : Instr) : Bool :=
  match i.fields with
  | .step => true
  | _ => false

def State.event (s : State) (i : Instr) : Out := if isEvent i then exec i s else .next s

/-- The steps that the hardware may have to take by itself, in the model's own order. Each changes nothing where it is
not due. -/
def State.internal (s : State) : List Instr :=
  let open_ (a : Access) : List Nat := (a.pieces.mapIdx (fun i p => (i, p.done))).filterMap (fun e => if e.2 then none else some e.1)
  let reqs := s.accesses.flatMap (fun (e : Nat × Access) => (open_ e.2).map (fun i => e.1 * 65536 + i))
  let ids := s.agents.map Agent.id
  let cores := ((s.agents.filter Agent.isWarp).map Agent.core).eraseDups
  let engines := (s.parts.flatMap (fun (e : Nat × Part) => s.copyEngines e.1))
  let groups : List (List Instr) := [
    s.releases.keys.map .releasePush, s.releases.keys.map .pushAcknowledge, s.forwards.keys.map .forwardReply,
    s.regReqs.keys.map .registrationRequest, reqs.map .bankRead, reqs.map .bankAccess, reqs.map .storeDrain,
    s.accesses.keys.map .loadDataReturn, s.walks.keys.map .pageWalk, s.ops.keys.map .tlbinvCompletion,
    if s.counts.isEmpty then [] else [.accessCounterIncrement],
    ids.flatMap (fun a => [.watchFire a, .waitmPoll a, .waitmLimitExpiry a, .writeBlockRetry a, .fuseWaitExpiry a,
      .callReplyFetch a, .preemptDelivery a, .watchdog a]),
    s.cmds.keys.map .commandCompletion, engines.map .copyBeat, engines.map .commandDispatch,
    (s.cores.flatMap (fun (e : Nat × Core) => (s.loads e.1).take 1)).map .weightLoadComplete,
    (s.cores.keysOf (fun c => !c.mma.isEmpty)).map .mmaRowsReady,
    s.parts.flatMap (fun (e : Nat × Part) => if e.2.stop.isSome then (s.enginesOf e.1).map (.engineStopPoint e.1) else []),
    s.parts.keys.map .rollCallComplete,
    s.parts.flatMap (fun (e : Nat × Part) => e.2.contexts.keys.map (.quiescenceComplete e.1)),
    [.knellDecision, .knellRecompute, .knellDeadline, .preemptLimitExpiry], s.parts.keys.map .sliceExpiry,
    s.parts.flatMap (fun (e : Nat × Part) => e.2.grids.keys.map (.gridCompletion e.1)),
    s.clusters.keys.map .clusterStart, s.parts.keys.map .clusterAdmission,
    s.parts.flatMap (fun (e : Nat × Part) => e.2.grids.flatMap (fun (g : Nat × Grid) =>
      if Desc.gate g.2.d then (List.range (Desc.ncl g.2.d)).map (.gatedChimeWait e.1 g.1) else [])),
    cores.flatMap (fun c => [.warpRotation c, .spinDemotion c, .stallSample c])]
  groups.flatten

/-- The first step of a list that changes the state. (DESIGN CHOICE, notes/assumptions/56.md.) -/
def State.firstDue (s : State) : List Instr → Option Instr
  | [] => none
  | i :: is => match exec i s with
    | .next t => if t = s then s.firstDue is else some i
    | _ => some i

/-- The groups that may issue, agent by agent. -/
def State.issuable (s : State) : List (Nat × DWord) :=
  s.agents.flatMap (fun a => if s.inTurn a then (a.groupPcs.filter (s.mayIssue a)).map (fun pc => (a.id, pc)) else [])

/-- The group that issues where no plan says: the next agent by number after the last one that issued, its group that
follows the one it issued last (11 R276). -/
def nextIssue (last lane : Nat) (as : List Agent) (xs : List (Nat × DWord)) : Option (Nat × DWord) :=
  let after := xs.filter (fun x => last < x.1)
  let pool := if after.isEmpty then xs else after
  let low := pool.foldl (fun m x => min m x.1) (2 ^ 20)
  let mine := pool.filter (fun x => x.1 == low)
  match as.find? (fun a => a.id == low) with
  | none => mine.head?
  | some a =>
    let lowest (pc : DWord) : Nat := (a.groupAt pc).headD 0
    let l := if a.id == last then lane else a.lastLanes.headD 0
    match mine.filter (fun x => l < lowest x.2) with
    | [] => mine.head?
    | ys => ys.head?

/-! ### The step -/

/-- The package runs: it has power, it has come up, its clocks run, and no base-logic error has halted it. -/
def Platform.running (q : Platform) : Bool := q.powered && q.ready && !q.clocksStopped && !q.halted

/-- The management core's clock and firmware run where the clocks of every die have stopped (16 R410). -/
def Platform.firmwareRuns (q : Platform) : Bool := q.powered && q.ready && q.clocksStopped && !q.halted

/-- The boot ROM or the firmware answers the mailbox (16 R410, R414). -/
def Platform.mailboxAnswers (q : Platform) : Bool := q.powered && !q.halted

/-- What the module can still do to a package that does not run (14 R374; 16 R412, R413). -/
def isModuleStep : Instr → Bool
  | .powerGood | .standby | .packageReset => true
  | _ => false

/-- A word that tests its condition again would go on now: its trial does not park for another test (13 R342). -/
def State.stirs (s : State) (id : Nat) (p : Park) : Bool :=
  let t := s.focus id p.pc
  match t.fetch.2 with
  | .word w => (match decode w with
    | .ok i => (match exec i t with
      | .next u => !((u.agent id).bind (·.parkAt p.pc)).any (fun q => q.wait == .retry)
      | _ => true)
    | .error _ => true)
  | _ => true

/-- A park that waits for its word's own test. -/
def Park.testing (p : Park) : Bool := p.wait == .retry && !p.ready && !p.done

/-- Parks whose words would go on are ready: the event that they await has come (11 R279; 13 R342).
(DESIGN CHOICE, notes/assumptions/75.md.) -/
def State.stir (s : State) : State :=
  let f (a : Agent) : Agent := { a with parks := a.parks.map (fun p =>
    if p.testing && s.stirs a.id p then { p with ready := true } else p) }
  if s.agents.any (fun a => a.parks.any Park.testing) then { s with me := f s.me, others := s.others.mapV f } else s

/-- A race charged to a thread whose word has retired is taken (05 R140; 14 R361). -/
def State.takeLate (s : State) (a : Agent) : State :=
  match a.late with
  | none => s
  | some t =>
    let b := { a with late := none }
    let pc := a.nextPc
    if (a.parkAt pc).any (fun p => p.begun && p.pc == t.pc) then s
    else if !a.runs then s.setAgent b
    else (s.setAgent b).threadFault b t.info pc t.addr

def State.takeLates (s : State) : State := (s.agents.filter (fun a => a.late.isSome)).foldl State.takeLate s

/-- Every increment that is 4 us old by a tick is applied, the oldest first; a forward of an entry's line is answered
before it (04 R119). (DEDUCED, notes/assumptions/34.md.) -/
def State.countsInTime (tick : Nat) (s : State) : State :=
  (s.counts.takeWhile (fun c => c.tick + 4000 ≤ tick)).foldl
    (fun (t : State) c => (t.settleForward (lineOf (c.entry / 4 + 2))).countAccess) s

/-- The tick after some more have passed: at that of a debug stop the clocks stop (16 R410). -/
def State.tickAfter (s : State) (ticks : Nat) : Nat :=
  match s.platform.debugAt with
  | some t => s.tick + min ticks (t - s.tick)
  | none => s.tick + ticks

/-- A tick passes, and what follows by itself. (DESIGN CHOICE, notes/assumptions/9.md.) -/
def State.after (ticks : Nat) (s : State) : State :=
  let t := s.tickAfter ticks
  ({ ((s.portsRun.takeLates.stir).tidy).countsInTime t with tick := t }).debugStop

/-- A move of the plan in a package that runs. (DESIGN CHOICE, notes/assumptions/8.md.) -/
def State.move (s : State) : Move → Out
  | .issue id pc => andThen (s.issue id pc) (State.after 1)
  | .event i => if isModuleStep i then s.event i else andThen (s.event i) (State.after 1)
  | .elapse n => .next (s.after n)

/-- A host access to a package that does not run: the mailbox is answered where the boot ROM or the firmware can, any other
read before READY meets Request Retry Status, and the rest reaches nothing (16 R410, R413, R414).
(DESIGN CHOICE, notes/assumptions/70.md.) -/
def State.hostAsleep (s : State) (i : Instr) : State :=
  if !s.platform.mailboxAnswers then s
  else match i with
  | .barRead fn bar off size =>
    if fn == .pf && bar == 0 && off < 4096 then s.barRead fn bar off size
    else if s.platform.ready then s else s.answer .retryStatus
  | _ => s

/-- A move of the plan in a package that does not run. -/
def State.asleep (s : State) : Move → Out
  | .issue id pc => if s.platform.firmwareRuns && kindOf id == .management then s.issue id pc else .next s
  | .event i => if isModuleStep i then exec i s else .next (s.hostAsleep i)
  | .elapse _ => .next s

/-- The groups of the management core that may issue while the clocks have stopped. -/
def State.firmwareWord (s : State) : Out :=
  match s.issuable.find? (fun x => kindOf x.1 == .management) with
  | some (id, pc) => if s.platform.firmwareRuns then s.issue id pc else .next s
  | none => .next s

/-- A step where no plan says: a step of the hardware that is due, else the next word, else a tick. -/
def State.byItself (s : State) : Out :=
  match s.firstDue s.internal with
  | some i => andThen (exec i s) (State.after 1)
  | none =>
    match nextIssue s.me.id (s.me.lastLanes.headD 0) s.agents s.issuable with
    | some (id, pc) => andThen (s.issue id pc) (State.after 1)
    | none => .next (s.after 1)

/-- ONE STEP OF THE PACKAGE. (DESIGN CHOICE, notes/assumptions/8.md.) -/
def State.advance (s : State) : Out :=
  match s.plan with
  | m :: rest =>
    let t := { s with plan := rest }
    if s.platform.running then t.move m else t.asleep m
  | [] => if s.platform.running then s.byItself else s.firmwareWord

/-! ### A word placed for the next step (notes/assumptions/7.md) -/

/-- Majors that only a conductor thread executes: LAUNCH and SYSTEM (02 R51). -/
def threadWord (w : DWord) : Bool :=
  !w.getLsbD 63 && ((w.extractLsb' 57 6) == 0x30 || (w.extractLsb' 57 6) == 0x38)

/-- The form of tlbinv that needs the vendor level (14 R383). -/
def vendorWord (w : DWord) : Bool := threadWord w && w.extractLsb' 57 6 == 0x38 && w.extractLsb' 9 7 == 2 && w.extractLsb' 0 3 == 3

/-- Where the placed word lies: its virtual and its device address in the window of partition 0. -/
def placedPc : DWord := 0x1000

/-- A page that an agent may read, write and execute, mapped to the window's first page. -/
def placedLeaf : Leaf := { rd := true, wr := true, ex := true }

/-- A descriptor of one cluster of one warp of 16 lanes, with 128 registers, a scratchpad and four tiles. -/
def placedDesc : List Word :=
  [0x1000, 0, 0x8000, 0, 0, 0, 0, 0, 0, 0, 1, 0x00100001, 0x00000401, 0, 0, 0]

def placedGrid : Grid := { desc := placedDesc, st := .running, order := 0, placed := 1 }

def placedCluster : Cluster :=
  { grid := 1, frames := [0], slots := [0, 1], regB := 128, scratch := 2 ^ 18, acc := 4, started := true }

/-- The agent that runs the placed word: a warp of the grid, conductor thread 0 at supervisor level, or the management
core. -/
def placedAgent (w : DWord) (tick : Nat) : Agent :=
  if vendorWord w then { kind := .management, level := .vendor, threads := [{ pc := placedPc }], lastIssue := tick }
  else if threadWord w then
    { kind := .conductor 0, level := .supervisor, xqctl := 0x300, codeBase := placedPc, threads := [{ pc := placedPc }],
      lastIssue := tick }
  else
    { kind := .warp 0 0, width := 16, grid := 1, cluster := 1, regB := 128, codeBase := placedPc,
      threads := (List.range 16).map (fun l => { pos := l, pc := placedPc }), sched := .active, lastIssue := tick }

/-- Partition 0 of one slice with its context 0, a bank group, and the grid. -/
def placedPart : Part :=
  { cegrp := 1, burst := 1, regs := [(0x07, 1)], serial := 1, grids := [(1, placedGrid)], contexts := [(0, {})] }

/-- The state with a word stored where the next step fetches: an agent, its partition and its translation stand ready,
and the plan issues that word next. -/
def State.placeWord (s : State) (w : DWord) : State :=
  let a := placedAgent w s.tick
  let t : State := { s with
    platform := { s.platform with powered := true, ready := true, clocksStopped := false, halted := false },
    mem := (s.mem.setWord 0x400 (lo32 w)).setWord 0x401 (hi32 w),
    lines := s.lines.erase 32,
    parts := s.parts.set 0 placedPart,
    clusters := if a.isWarp then s.clusters.set 1 placedCluster else s.clusters,
    tlb := s.tlb.set (tlbKey (l1Tlb a.core) 0 0 0) ⟨0, 0, 0, placedLeaf⟩,
    me := a, issuePc := placedPc,
    others := (if s.me.id == a.id then s.others else s.others.set s.me.id s.me).erase a.id }
  { t with plan := .issue a.id placedPc :: s.plan }

end Sys2Proof.Machine
end

