-- ==== Sys2Proof/Safety.lean ====
section
/-! DEFINITION. What the statements of this package speak of: when a word runs (02 R38, R39; 14 R374), what a word of
register results gives and leaves, and the values of the integer and bit operations as operations on bit vectors. -/

namespace Sys2Proof.Safety

open Sys2Proof.Machine

/-! ### When a guarded word runs as its own effect -/

/-- The agent may name the guard and the registers of a word, and no source that a lane reads is poisoned: `sources` in
every active lane, `first` in the lowest one (02 R38, R39; 09 R225; 14 R374). -/
structure Clear (s : State) (g : BitVec 8) (gn : Bool) (named sources : List Nat) (first : List Nat := []) : Prop where
  guard : g = 0 ∨ s.holds g.toNat = true
  held : ∀ n ∈ named, s.holds n = true
  sound : ∀ l ∈ s.active g gn, ∀ n ∈ sources, s.poisoned l n = false
  low : ∀ l, (s.active g gn).head? = some l → ∀ n ∈ first, s.poisoned l n = false

/-- The same of a W3 word of a major and fn, whose shape says what its fields name. -/
def Clear3 (s : State) (major fn : Nat) (w : W3) : Prop :=
  ∃ h, w3Shape major fn w = some h ∧ Clear s w.g w.gn (w3Named h w) (w3Reads major fn h w).1 (w3Reads major fn h w).2

/-! ### What a word of register results gives and leaves -/

/-- The registers a result of a type takes from `d` up (02 R40). -/
def resultRegs (t : Ty) (d : Nat) : List Nat := if t.isPair then [d, d + 1] else [d]

/-- The rows of registers in lanes of the issuing agent. -/
def rowsOf (s : State) (lanes regs : List Nat) : List Nat :=
  lanes.flatMap (fun l => regs.map (rowKey s.me (s.me.base + l)))

/-- Every register row but those of `keys` stands, its poison mark with it; a row of `keys` is no longer poisoned. -/
structure OnlyRows (s t : State) (keys : List Nat) : Prop where
  kept : ∀ k, k ∉ keys → t.rf.get 0 k = s.rf.get 0 k ∧ t.rfPoison.get false k = s.rfPoison.get false k
  cleared : ∀ k, k ∈ keys → t.rfPoison.get false k = false

/-- The frame of a word that writes registers and status and retires: the issuing agent is as `State.retire` leaves
it but for its register cache, %fexc, %iexc and the generator's counter, and beside it only registers and the counter
of forced releases change, with every byte of memory as before. -/
structure Retires (s t : State) : Prop where
  rest : t = { s with me := t.me, rf := t.rf, rfPoison := t.rfPoison, parts := s.retire.parts }
  me : t.me = { s.retire.me with
    cache := t.me.cache, fexc := t.me.fexc, iexc := t.me.iexc, rngCtr := t.me.rngCtr }
  memory : ∀ a, t.mem.byte a = s.mem.byte a

/-- What one lane of a word gives: its result, and its bits for %fexc and %iexc. -/
structure Lane where
  value : DWord
  fe : Nat := 0
  ie : Nat := 0

/-- The word runs: every lane of `act` holds its result in `d` under the form `rt`, every other register stands, the
status of the lanes is merged, and the generator's counter rises by `draws` (10 R251, R252; 03 R71). -/
def Gives (i : Instr) (s : State) (act : List Nat) (rt : Ty) (d : BitVec 8) (lane : Nat → Lane) (draws : Nat) : Prop :=
  ∃ t, exec i s = .next t
    ∧ (∀ l ∈ act, t.operand rt l d.toNat = trimTo rt (lane l).value)
    ∧ OnlyRows s t (rowsOf s act (resultRegs rt d.toNat))
    ∧ t.me.fexc = s.me.fexc ||| BitVec.ofNat 32 (act.foldl (fun x l => x ||| (lane l).fe) 0)
    ∧ t.me.iexc = s.me.iexc ||| BitVec.ofNat 32 (act.foldl (fun x l => x ||| (lane l).ie) 0)
    ∧ t.me.rngCtr = s.me.rngCtr + BitVec.ofNat 64 draws
    ∧ Retires s t

/-- Every well-formed W3 word of an instruction whose registers are clear gives its lanes' results, in every state
that meets `pre`. -/
def W3Gives (con : W3 → Instr) (major fn : Nat) (rt : W3 → Ty) (lane : State → W3 → List Nat → Nat → Lane)
    (draws : State → W3 → Nat := fun _ _ => 0) (pre : State → W3 → Prop := fun _ _ => True) : Prop :=
  ∀ (w : W3) (s : State), (con w).wellFormed = true → Clear3 s major fn w → pre s w →
    Gives (con w) s (s.active w.g w.gn) (rt w) w.d (lane s w (s.active w.g w.gn)) (draws s w)

/-- The same of a WI word, which has no guard. -/
def WiGives (con : WI → Instr) (fn : Nat) (rt : WI → Ty) (value : WI → DWord → DWord) : Prop :=
  ∀ (w : WI) (s : State), (con w).wellFormed = true → Clear s 0 false (wiNamed fn w) (wiSources fn w) →
    Gives (con w) s (s.active 0 false) (rt w) w.d (fun l => ⟨value w (s.operand w.ty l w.a.toNat), 0, 0⟩) 0

/-! ### Integer and bit operations on bit vectors (10 R255, R257, R259; 03 R62, R63) -/

/-- x < y as the integers of a type. -/
def below (t : Ty) (x y : DWord) : Bool :=
  match t with
  | .i32 => (lo32 x).slt (lo32 y)
  | .i64 => x.slt y
  | .n64 => x.ult y
  | _ => (lo32 x).ult (lo32 y)

/-- A condition of mod (02 R43) on two operands of a type. -/
def holdsCond (t : Ty) (code : Nat) (x y : DWord) : Bool :=
  let eq := trimTo t x == trimTo t y
  match code with
  | 0 => eq
  | 1 => !eq
  | 2 => below t x y
  | 3 => below t x y || eq
  | 4 => below t y x
  | _ => !below t x y

/-- 0 or 1 in a register. -/
def flag (b : Bool) : DWord := if b then 1 else 0

/-- A 32-bit function on the low words, or a 64-bit one, as the type is. -/
def onWidth (t : Ty) (f32 : Word → Word → Word) (f64 : DWord → DWord → DWord) (x y : DWord) : DWord :=
  if t.isPair then f64 x y else (f32 (lo32 x) (lo32 y)).setWidth 64

/-- The upper half of the exact product, signed or unsigned as the type is (10 R255). -/
def upperProduct (t : Ty) (x y : DWord) : DWord :=
  match t with
  | .i32 => (((lo32 x).signExtend 64 * (lo32 y).signExtend 64) >>> 32).setWidth 64
  | .i64 => ((x.signExtend 128 * y.signExtend 128) >>> 64).setWidth 64
  | .n64 => ((x.setWidth 128 * y.setWidth 128) >>> 64).setWidth 64
  | _ => (x * y) >>> 32

/-- The quotient of a type: all ones for a zero divisor (03 R63). -/
def quotient (t : Ty) (x y : DWord) : DWord :=
  if trimTo t y = 0 then BitVec.allOnes 64
  else if tySigned t then onWidth t BitVec.sdiv BitVec.sdiv x y else onWidth t BitVec.udiv BitVec.udiv x y

/-- The remainder of a type: the dividend for a zero divisor (03 R63). -/
def remainder (t : Ty) (x y : DWord) : DWord :=
  if trimTo t y = 0 then x
  else if tySigned t then onWidth t BitVec.srem BitVec.srem x y else onWidth t BitVec.umod BitVec.umod x y

/-- The most negative integer of a signed type divided by minus one. -/
def divOverflows (t : Ty) (x y : DWord) : Bool :=
  match t with
  | .i32 => lo32 x == 0x80000000 && lo32 y == 0xFFFFFFFF
  | .i64 => x == 0x8000000000000000 && y == 0xFFFFFFFFFFFFFFFF
  | _ => false

/-- The %iexc bits of a division: IDZ (bit 0) and IOV (bit 1) (03 R63, R64). -/
def divStatus (t : Ty) (x y : DWord) : Nat :=
  if trimTo t y = 0 then 1 else if divOverflows t x y then 2 else 0

/-- The field of `len` bits from `pos`, cut at the operand's width `n`, its sign kept for a signed type
(10 R259). -/
def bitField (t : Ty) (n : Nat) (x : DWord) (pos len : Nat) : DWord :=
  if len = 0 ∨ n ≤ pos then 0
  else
    let m := min len (n - pos)
    if tySigned t then (x <<< (64 - pos - m)).sshiftRight (64 - m) else (x <<< (64 - pos - m)) >>> (64 - m)

/-- `x` with that field replaced by the low bits of `y` (10 R259). -/
def bitInsert (n : Nat) (x y : DWord) (pos len : Nat) : DWord :=
  if len = 0 ∨ n ≤ pos then x
  else
    let ones : DWord := (1 <<< min len (n - pos)) - 1
    (x &&& ~~~(ones <<< pos)) ||| ((y &&& ones) <<< pos)

/-- The bits of a type's operand. -/
def bitsOf (t : Ty) : Nat := if t.isPair then 64 else 32

/-- How many of the low `n` bits are 1. -/
def countOnes (x : DWord) (n : Nat) : Nat := (List.range n).countP (x.getLsbD ·)

/-- How many 0 bits stand above the highest 1 of the low `n` bits, `n` where none is 1. -/
def zerosAbove (x : DWord) (n : Nat) : Nat := ((List.range n).find? (fun i => x.getLsbD (n - 1 - i))).getD n

/-- How many 0 bits stand below the lowest 1 of the low `n` bits, `n` where none is 1. -/
def zerosBelow (x : DWord) (n : Nat) : Nat := ((List.range n).find? (x.getLsbD ·)).getD n

/-! ### Elements of floating-point words (03 R65; 10 R251) -/

/-- One element operation over a lane's operands: the one element of a scalar type, or the two halves of a packed
one, with the status of both. -/
def onElements (t : Ty) (f : Nat → Nat → Nat → Nat → Nat × Nat) (x y z : DWord) : Lane :=
  if t.isPacked then
    let r0 := f 0 (x.toNat % 65536) (y.toNat % 65536) (z.toNat % 65536)
    let r1 := f 1 (x.toNat / 65536 % 65536) (y.toNat / 65536 % 65536) (z.toNat / 65536 % 65536)
    ⟨BitVec.ofNat 64 (r0.1 + r1.1 * 65536), r0.2 ||| r1.2, 0⟩
  else
    let n := 2 ^ (fmtOf t).width
    let r := f 0 (x.toNat % n) (y.toNat % n) (z.toNat % n)
    ⟨BitVec.ofNat 64 r.1, r.2, 0⟩

/-- The sign bits of a type's elements. -/
def signBits (t : Ty) : DWord :=
  match t with
  | .f64 => 0x8000000000000000
  | .f16 | .bf16 => 0x8000
  | .f16x2 | .bf16x2 => 0x80008000
  | _ => 0x80000000

/-- What a rounding word of a lane reads for its mode (02 R43; 03 R71). -/
def fpLane (s : State) (w : W3) (l : Nat) (f : Rnd → Nat → Nat → Nat → Nat × Nat) : Lane :=
  onElements w.ty (fun e => f (s.mode w.m (w.ty != .f64) l e)) (s.opA w l) (s.opB w l) (s.opC w l)

/-- What a special-function word gives a lane (10 R269). -/
def sfuLane (fn : SfuFn) (s : State) (w : W3) (_ : List Nat) (l : Nat) : Lane :=
  onElements w.ty (fun _ x _ _ => sfuElem fn (fmtOf w.ty)
    (if fmtOf w.ty = fmtF16 then 5 else if fmtOf w.ty = fmtBf16 then 6 else 4) x) (s.opA w l) 0 0

/-- The draws of a rounding word: one where it rounds stochastically (03 R71). -/
def fpDraws (sr : Bool) (s : State) (w : W3) : Nat := if s.roundCode w.m sr = 5 then 1 else 0

/-! ### Words of other effects -/

/-- The state after the retirement of a word whose effect on the issuing agent is `f`: beside it only the counter of
forced releases changes (11 R278). -/
def after (s : State) (f : Agent → Agent) : State := { s with me := f s.retire.me, parts := s.retire.parts }

/-- No loop level is active and no thread has a meeting address, so that a group goes on without being held
(11 R277, R284). -/
structure Straight (s : State) : Prop where
  loops : s.me.loops = []
  meets : ∀ t ∈ s.me.threads, t.meet = 0xFFFFFFFF

/-- The threads of the issuing agent, those of its group gone on to the next word (11 R275). -/
def movedOn (s : State) : List Thread :=
  s.me.threads.mapIdx (fun l th => if l ∈ s.group then { th with pc := s.issuePc + 8 } else th)

/-- The program counter of a lane. -/
def pcOf (s : State) (l : Nat) : Option DWord := s.me.threads[l]?.map (·.pc)

/-- The condition of a lane's thread. -/
def stOf (s : State) (l : Nat) : Option ThreadSt := s.me.threads[l]?.map (·.st)

/-- Registers, memory and every agent but the issuing one stand. -/
def KeepsData (s t : State) : Prop :=
  t.rf = s.rf ∧ t.rfPoison = s.rfPoison ∧ (∀ a, t.mem.byte a = s.mem.byte a) ∧ t.others = s.others

/-- The agent keeps its place and its own registers: level, frame, identity, status and special registers. -/
def KeepsPlace (a b : Agent) : Prop :=
  b.kind = a.kind ∧ b.level = a.level ∧ b.width = a.width ∧ b.frame = a.frame ∧ b.base = a.base
    ∧ b.rngKey = a.rngKey ∧ b.rngCtr = a.rngCtr ∧ b.fpmode = a.fpmode ∧ b.fexc = a.fexc ∧ b.iexc = a.iexc
    ∧ b.trapvec = a.trapvec ∧ b.racemode = a.racemode

/-! ### Accesses and commands -/

/-- Device memory and the carve-out stand byte by byte; a copy of a host line may have been filled (05 R126). -/
def KeepsDevice (s t : State) : Prop := ∀ a, a < hostCopyBase → t.mem.byte a = s.mem.byte a

/-- What a piece asks for: its lane, where it lies, its bytes, its data and the row it fills. -/
def Piece.ask (p : Piece) : Nat × Nat × Bool × Nat × Word × Option Nat := (p.lane, p.key, p.scr, p.mask, p.val, p.row)

/-- A word's access is in flight under the number `id` with what its pieces ask for, and each of its rows has a write
pending (09 R231). -/
def InFlight (s t : State) (id : Nat) (kind : AccKind) (scope : Nat) (ps : List Piece) : Prop :=
  (∃ a, t.accesses.find id = some a ∧ a.agent = s.me.id ∧ a.kind = kind ∧ a.scope = scope ∧ a.pc = s.issuePc
    ∧ a.pieces.map Piece.ask = ps.map Piece.ask)
  ∧ ∀ p ∈ ps, ∀ r, p.row = some r → ∃ q ∈ t.me.pend, q.row = r ∧ q.req = id

/-- The word has retired, or waits for its data where its agent waits in such words (06 R153; 11 R279). -/
def GoesOnOrWaits (s t : State) (waits : Bool) : Prop :=
  if waits then t.me.threads = s.me.threads ∧ (t.me.parkAt s.issuePc).isSome = true
  else t.me.threads = s.retire.me.threads

/-- The word has not retired: its agent is parked at it, and data stand. -/
def Waits (s t : State) : Prop := KeepsData s t ∧ t.me.threads = s.me.threads ∧ t.parked.isSome = true

/-- A conductor thread's read of `n` words at an address gives `ws` and leaves `t` (13 R327, R330). -/
def Reads (s : State) (x : Nat) (addr : DWord) (n align : Nat) (t : State) (ws : List Word) : Prop :=
  ∃ ps, s.checkLanes (s.newAccess .load 0) true (fun q => s.checkSpan q align)
      [{ lane := x, ea := { space := .g, addr := addr }, bytes := 4 * n, need := { rd := true },
         words := List.replicate n {} }] [] none = .ok ps
    ∧ s.overlaps ps = false ∧ ps.any ((s.touchPieces ps).obtainWaits (s.newAccess .load 0)) = false
    ∧ ∃ vs, (s.touchPieces ps).obtainAll (s.newAccess .load 0) ps = (t, vs) ∧ ws = vs.map (·.2)

/-- A row of a shape-bucket table fits the thread's shape registers (13 R330). -/
def rowFits (a : Agent) (r : List Word) : Prop :=
  ∀ j < 4, r.getD (2 * j) 0 ≤ [a.shp0, a.shp1, a.shp2, a.shp3].getD j 0
    ∧ [a.shp0, a.shp1, a.shp2, a.shp3].getD j 0 ≤ r.getD (2 * j + 1) 0

/-- The walks of some addresses of a context can all run now (04 R112). -/
def WalksRun (s : State) (p ctx : Nat) (addrs : List Nat) : Prop :=
  ∀ a ∈ addrs, a < 2 ^ 56 → s.walkGoes p ctx (a / 65536) = true

/-- A read of `n` words of an image at an address gives `ws` and leaves `t`: the walks of its pages run, no page faults,
and no word is poisoned or has to be waited for (14 R366). -/
def ReadsRange (s : State) (a n : Nat) (t : State) (ws : List Word) : Prop :=
  let pages := if a < 2 ^ 62 then pageStarts a (4 * n) else []
  let u := s.walked s.me.part s.me.ctx pages id
  WalksRun s s.me.part s.me.ctx pages ∧ u.rangeFault u.me.part u.me.ctx a (4 * n) { rd := true } = none
    ∧ u.rangePoison a n = false ∧ u.rangeWaits a n = false ∧ u.loadWords a n = (t, ws)

/-- After reading `i` rows of a table that do not fit, the state is `t` (13 R330). -/
def RowsPassed (s : State) (x : Nat) (table : DWord) : Nat → State → Prop
  | 0, t => t = s
  | i + 1, t => ∃ u r, RowsPassed s x table i u ∧ Reads u x (table + BitVec.ofNat 64 (40 * i)) 10 8 t r
      ∧ ¬ rowFits s.me r

/-- A SYSTEM word may have its effect: supervisor level or above, earlier accesses performed (14 R381). -/
def Supervises (s : State) : Prop := s.me.isWarp = false ∧ s.me.level ≠ .user ∧ s.unsettled = false

/-- The tile is the warp's and no row of the word is in an mma's tail (12 R302, R316). -/
def TileReady (s : State) (tile : Nat) (act : List Nat) : Prop :=
  s.me.isWarp = true ∧ s.ownsTile tile = true ∧ s.rowsBusy tile act = false

/-- Accumulator rows but those of the lanes stand (12 R296). -/
def KeepsOtherRows (s t : State) (tile : Nat) (act : List Nat) : Prop :=
  ∀ k, (∀ l ∈ act, k / 128 ≠ s.rowOf tile l) →
    (t.coreOf s.me.core).acc.get {} k = (s.coreOf s.me.core).acc.get {} k

/-- A clean word of a cache that an acquire would drop is gone, and every other stands (06 R164). -/
def Acquired (s t : State) (cache mask : Nat) : Prop :=
  (∀ w c, w < 2 ^ 64 → t.cleanOf cache w = some c → acquireDrops s.me.part s.me.ctx mask c = false)
  ∧ ∀ w c, w < 2 ^ 64 → s.cleanOf cache w = some c → acquireDrops s.me.part s.me.ctx mask c = false →
    t.cleanOf cache w = some c

/-- No cache of the issuing agent holds a clean word that its context filled under a region index (06 R165). -/
def RegionDropped (s t : State) (i : Nat) : Prop :=
  ∀ k v, k < 2 ^ 64 →
    ((∃ c sl, s.me.kind = .warp c sl ∧ (t.cleanOf (l1Cache c) k = some v ∨ t.cleanOf (sectionCache (c / 8)) k = some v))
      ∨ ∃ n, s.me.kind = .conductor n ∧ t.cleanOf (conductorCache (n / 8)) k = some v) →
    ¬ (v.part = s.me.part ∧ v.ctx = s.me.ctx ∧ v.region = i)

/-- A ring has no room, so that a record appended to it is dropped (04 R122). -/
def RingFull (s : State) (p : Nat) (r : Ring) : Prop :=
  (s.preg p r.head + 2 ^ 32 - s.preg p r.tail) % 2 ^ 32 = 2 ^ bitsN (s.preg p r.base) 3 0

/-- The record that the poison-map ring takes next lies outside a line, or the ring drops it (04 R121, R122; 14 R376). -/
def RecordOutside (s : State) (p l : Nat) : Prop :=
  RingFull s p poisonRing ∨
    let base := s.preg p poisonRing.base
    ∀ d x, s.gpa p (bitsN base 51 12 * 2 ^ 12 + 32 * (s.preg p poisonRing.head % 2 ^ bitsN base 3 0)) = .ok (d, x) →
      ∀ j < 8, (d / 4 + j) / 32 ≠ l

/-- The records of a line's words, which are poisoned one after another, lie outside it (05 R144; 14 R376). -/
def RecordsOutside (s : State) (p l kind : Nat) : Prop :=
  ∀ n < 32, RecordOutside ((s.poisonWords p l kind n).poisonWord (32 * l + n)) p l

/-- The first words of a line after an uncorrectable error of memory struck it: those in U poisoned (14 R374). -/
def struckTo (s : State) (p l n : Nat) : State :=
  (List.range n).foldl (fun t i => if t.regOf (32 * l + i) == .u then t.poisonData p (32 * l + i) 0 else t) s

/-- A grid has ended with a completion word of the status, with or without a race and, where it is FAULTED, with its
fault's code (13 R339), or it holds the status until its record is written (13 R337, R340). -/
def EndsWith (s : State) (p k status : Nat) : Prop :=
  ∃ (g : Grid) (race : Bool), (s.part p).grids.find k = some g ∧ (race = true → g.race = true)
    ∧ ((g.st = .ended ∧ g.word = BitVec.ofNat 32 (0x80000000 + status + (if race then 16 else 0)
          + (if status = 1 then (g.fault.elim 0 (·.code)) * 256 else 0)))
      ∨ (g.st ≠ .ended ∧ g.ending = some status))

end Sys2Proof.Safety
end

