-- ==== Sys2Proof/Certificates/Slice0/Obligations.lean ====
section
/-! DEFINITION. The statements about the Q9 for the provers: each says what its words or steps do, where they complete and
what they leave (the rules of spec/ that each follows stand in its docstring). -/

open Sys2Proof Sys2Proof.Machine Sys2Proof.Safety

/-! ### Decoding, issue and the whole machine -/

/-- 00 R8 to 16: words that the spec writes out bit by bit decode to the instructions it gives them, and a word with a
reserved or unassigned code to its fault (02 R50, R52, R60). -/
def Obligations.DecodeWords : Prop :=
  decode 0x0206080A00000000 = .ok (.iadd ⟨3, 4, 5, 0, 0, false, .i32, false, false, 0⟩)
  ∧ decode 0x040E008000001234 = .ok (.movi { d := 7, a := 0, ty := .i32, imm := 0x1234 })
  ∧ decode 0x8104070032121480
    = .ok (.pairedWord ⟨⟨.iadd, 4, 7, .i32, 0⟩, ⟨.fmul, 9, 10, .f32, 0⟩⟩)
  ∧ decode 0x081416181A0E0691
    = .ok (.ffma ⟨10, 11, 12, 13, 7, false, .f32, true, false, 1⟩)
  ∧ decode 0x3018100005000040
    = .ok (.ld { d := 12, a := 8, g := 0, gn := false, sz := 2, sc := .pkg, sp := .g, off := 0x40 })
  ∧ decode 0x32180A07045FFFF0
    = .ok (.st { d := 12, a := 5, g := 3, gn := true, sz := 2, sc := .cl, sp := .sp, off := 0xFFFF0 })
  ∧ decode 0x2101000000000006 = .ok (.bra { hint := 2, g := 2, gn := false, reg := 0, off := 6 })
  ∧ decode 0x2080085000000009 = .ok (.loop { hint := 1, g := 0, gn := false, reg := 20, off := 9 })
  ∧ decode 0x3614041618000805 = .ok (.waitm ⟨10, 2, 11, 12, 0, false, .i32, false, false, 5⟩)
  ∧ decode 0x4002040C10000004 = .ok (.cpy ⟨1, 2, 6, 8, 0, false, .i32, false, false, 4⟩)
  ∧ decode 0x2200000000000200 = .ok (.exit ⟨0, 0, 0, 0, 0, false, .i32, false, false, 0⟩) ∧ decode 0 = .ok .illegalInstruction
  ∧ decode 0xFFFFFFFFFFFFFFFF = .error .pairedBit0

/-- 02 R30, R32 to R37, R52: the word of a well-formed instruction decodes to it with every operand it admits, and a
word that decodes to an instruction is that instruction's word. -/
def Obligations.DecodingReadsEveryField : Prop :=
  (∀ (i : Instr) (w : DWord), i.wellFormed = true → encode i = some w → decode w = .ok i)
  ∧ ∀ (w : DWord) (i : Instr), decode w = .ok i → i ≠ .illegalInstruction → i.wellFormed = true ∧ encode i = some w

/-- 02 R30, R31, R52; 09 R231; 11 R276; 13 R324: a step at which a group may issue, in its turn where it is a conductor
thread's, fetches the word at its address, decodes it, and runs exec of it, with the issue's bookkeeping and the tick
around it; a word that does not decode faults, and one whose register has a write pending waits. The word fetched is the
one that memory holds, or the one that stood there at the grid's launch, or, for a conductor thread, at its last acquire.
The model's choices it rests on: notes/assumptions/8.md, notes/assumptions/77.md. -/
def Obligations.StepRunsTheDecodedWord : Prop :=
  (∀ (s u v t : State) (id : Nat) (pc : DWord) (rest : List Move) (a : Agent) (w : DWord), s.plan = .issue id pc :: rest →
    s.platform.running = true → s.agent id = some a → ({ s with plan := rest } : State).mayIssue a pc = true →
    ({ s with plan := rest } : State).inTurn a = true →
    u = ({ s with plan := rest } : State).focus id pc → u.fetch = (v, .word w) →
    (∀ i, decode w = .ok i → v.me.awaits i = none → exec i v = .next t →
      step s = .next (State.after 1 (issued v (some i) t)))
    ∧ (∀ i q, decode w = .ok i → v.me.awaits i = some q → step s = .next (State.after 1 (v.parkReg q)))
    ∧ (∀ e, decode w = .error e →
      step s = .next (State.after 1 (issued v none (v.takeFault (if e = .banks then 2 else 1) (v.group.headD 0) 0 0)))))
  ∧ (∀ (u : State) (q : Place) (new : DWord), u.locate .g u.issuePc { ex := true } = .place q → q.pol ≠ 2 →
    4 * (q.key / 4) < hostCopyBase → u.regOf (q.key / 4) = .u → u.regOf (q.key / 4 + 1) = .u →
    new = pair64 (u.memWord (q.key / 4)) (u.memWord (q.key / 4 + 1)) →
    ∃ v x, u.fetch = (v, .word x) ∧ v.mem = u.mem ∧ v.rf = u.rf ∧ v.others = u.others
      ∧ (x = new ∨ u.oldWord q = some x) ∧ (u.me.isWarp = true → v.me = u.me)
      ∧ ((∀ w, u.oldWord q = some w → w = new) → x = new))

/-- Every step of the package answers a next state: the Q9's faults are states of it (14 R347 to R361), and no
instruction is left without a meaning. -/
def Obligations.EveryStepAnswers : Prop :=
  (∀ (i : Instr) (s : State), ∃ t, exec i s = .next t) ∧ ∀ s : State, ∃ t, step s = .next t

/-- The memory keeps its canonical form in every step: addresses strictly rising, no byte listed that reads as an
unlisted one does (notes/assumptions/2.md names what that is). The model's choices it rests on:
notes/assumptions/2.md. -/
def Obligations.MemoryStaysCanonical : Prop :=
  ∀ s t : State, s.mem.wf = true → step s = .next t → t.mem.wf = true

/-- 15 R385, R392; 16 R410, R413: what the spec states of the package after reset. The model's choices it rests on:
notes/assumptions/2.md, notes/assumptions/7.md. -/
def Obligations.ResetState : Prop :=
  State.reset.mem.wf = true ∧ State.reset.tick = 0 ∧ State.reset.parts = [] ∧ State.reset.ptable = []
  ∧ State.reset.vfs = [] ∧ (∀ w, State.reset.regOf w = .u) ∧ State.reset.platform.running = true

/-- 14 R347, R348, R350 to R352, R355: a warp's fault leaves its word unretired, writes %trapinfo and stops the warp; it
is charged to the grid under the stop in progress, or under a new stop number. -/
def Obligations.TakingAWarpFault : Prop :=
  ∀ (s : State) (code lane detail core slot : Nat) (addr : DWord) (q : Part), s.me.kind = .warp core slot →
    s.parts.find s.me.part = some q → code < 32 → lane < 64 → detail < 2 ^ 16 →
    let info : Word := BitVec.ofNat 32 (code + lane * 2 ^ 8 + detail * 2 ^ 16)
    let f : FaultRec := ⟨code, info, s.issuePc, addr, s.me.grid, s.me.ctx, s.tick, .warp core slot, 0⟩
    let t := s.takeFault code lane detail addr
    t.me = { s.me with
      trapinfo := info, halted := .stop, xfaults := [], parks := s.me.parks.filter (fun k => k.pc != s.issuePc) }
    ∧ t.others = s.others ∧ t.mem = s.mem ∧ t.rf = s.rf
    ∧ (∃ st, (t.part s.me.part).stop = some st ∧ f ∈ st.faults ∧ (∃ c, (s.me.grid, c) ∈ st.charged)
      ∧ (q.stop = none → st.num = BitVec.ofNat 32 (seqOf (s.preg s.me.part 0x13)) ∧ st.first = some f
        ∧ t.preg s.me.part 0x13 = seqOf (s.preg s.me.part 0x13))
      ∧ ∀ old, q.stop = some old → st.num = old.num ∧ t.preg s.me.part 0x13 = s.preg s.me.part 0x13)
    ∧ ∀ g, q.grids.find s.me.grid = some g → ∃ g', (t.part s.me.part).grids.find s.me.grid = some g'
      ∧ g'.fault = (match g.fault with
        | some x => some x
        | none => some f)

/-! ### Register words -/

/-- 10 R255 with 03 R62 and R63: what each INT word gives in each active lane, for every type its rule admits. Division
truncates; a zero divisor gives all ones and the dividend with IDZ, the most negative integer divided by minus one gives
itself and 0 with IOV; iaddc and isubb give the result and the carry or borrow. -/
def Obligations.IntWords : Prop :=
  (W3Gives .iadd 1 0 (·.ty) (fun s w _ l => ⟨s.opA w l + s.opB w l, 0, 0⟩)
  ∧ W3Gives .isub 1 1 (·.ty) (fun s w _ l => ⟨s.opA w l - s.opB w l, 0, 0⟩)
  ∧ W3Gives .imul 1 2 (·.ty) (fun s w _ l => ⟨s.opA w l * s.opB w l, 0, 0⟩)
  ∧ W3Gives .imulh 1 3 (·.ty) (fun s w _ l => ⟨upperProduct w.ty (s.opA w l) (s.opB w l), 0, 0⟩)
  ∧ W3Gives .imad 1 4 (·.ty) (fun s w _ l => ⟨s.opA w l * s.opB w l + s.opC w l, 0, 0⟩)
  ∧ W3Gives .imin 1 7 (·.ty) (fun s w _ l =>
      ⟨if below w.ty (s.opB w l) (s.opA w l) then s.opB w l else s.opA w l, 0, 0⟩)
  ∧ W3Gives .imax 1 8 (·.ty) (fun s w _ l =>
      ⟨if below w.ty (s.opA w l) (s.opB w l) then s.opB w l else s.opA w l, 0, 0⟩)
  ∧ W3Gives .iabs 1 9 (·.ty) (fun s w _ l => ⟨if below w.ty (s.opA w l) 0 then -s.opA w l else s.opA w l, 0, 0⟩)
  ∧ W3Gives .ineg 1 10 (·.ty) (fun s w _ l => ⟨-s.opA w l, 0, 0⟩)
  ∧ W3Gives .sel 1 13 (·.ty) (fun s w _ l =>
      ⟨if (s.reg l w.c.toNat).getLsbD 0 then s.opA w l else s.opB w l, 0, 0⟩)
  ∧ W3Gives .lea 1 14 (fun _ => .n64) (fun s w _ l =>
      ⟨s.pair l w.a.toNat + (if w.ty = .i32 then (s.reg l w.b.toNat).signExtend 64
        else (s.reg l w.b.toNat).setWidth 64) <<< w.m.toNat, 0, 0⟩)
  ∧ W3Gives .icmp 1 15 (fun _ => .n32) (fun s w _ l =>
      ⟨flag (holdsCond w.ty w.m.toNat (s.opA w l) (s.opB w l)), 0, 0⟩))
  ∧ (W3Gives .idiv 1 5 (·.ty) (fun s w _ l =>
    ⟨quotient w.ty (s.opA w l) (s.opB w l), 0, divStatus w.ty (s.opA w l) (s.opB w l)⟩)
  ∧ W3Gives .irem 1 6 (·.ty) (fun s w _ l =>
    ⟨remainder w.ty (s.opA w l) (s.opB w l), 0, divStatus w.ty (s.opA w l) (s.opB w l)⟩)
  ∧ W3Gives .iaddc 1 11 (fun _ => .n64) (fun s w _ l =>
      ⟨s.opA w l + s.opB w l + ((s.opC w l) &&& 1), 0, 0⟩)
  ∧ W3Gives .isubb 1 12 (fun _ => .n64) (fun s w _ l =>
      ⟨(s.opA w l - s.opB w l - ((s.opC w l) &&& 1)) &&& 0x1FFFFFFFF, 0, 0⟩))

/-- 10 R257: what each INTI word gives; shifts, logic and movi among them. movhi writes the upper word of a pair and neither
reads nor writes the lower one. -/
def Obligations.ImmediateWords : Prop :=
  (WiGives .iaddi 0 (·.ty) (fun w x => x + immExt w.ty w.imm)
  ∧ WiGives .imuli 1 (·.ty) (fun w x => x * immExt w.ty w.imm)
  ∧ WiGives .andi 2 (·.ty) (fun w x => x &&& immExt w.ty w.imm)
  ∧ WiGives .ori 3 (·.ty) (fun w x => x ||| immExt w.ty w.imm)
  ∧ WiGives .xori 4 (·.ty) (fun w x => x ^^^ immExt w.ty w.imm)
  ∧ WiGives .shli 5 (·.ty) (fun w x => x <<< w.imm.toNat)
  ∧ WiGives .shri 6 (·.ty) (fun w x => x >>> w.imm.toNat)
  ∧ WiGives .sari 7 (·.ty) (fun w x => onWidth w.ty (fun a _ => a.sshiftRight w.imm.toNat)
      (fun a _ => a.sshiftRight w.imm.toNat) x 0)
  ∧ WiGives .movi 8 (·.ty) (fun w _ => immExt w.ty w.imm)
  ∧ WiGives .icmpi 10 (fun _ => .n32) (fun w x =>
      flag (holdsCond w.ty (w.imm.extractLsb' 29 3).toNat x
        (if w.ty = .i32 ∨ w.ty = .i64 then (w.imm.extractLsb' 0 29).signExtend 64
          else (w.imm.extractLsb' 0 29).setWidth 64))))
  ∧ (∀ (w : WI) (s : State), (Instr.movhi w).wellFormed = true → Clear s 0 false (wiNamed 9 w) [] →
    Gives (.movhi w) s (s.active 0 false) .n32 (w.d + 1) (fun _ => ⟨w.imm.setWidth 64, 0, 0⟩) 0)

/-- 10 R258, R259: what each LOGIC word gives, with counts of any size: bitwise words, shifts, bit fields, counts and
reversal. -/
def Obligations.LogicWords : Prop :=
  (W3Gives .and 3 0 (·.ty) (fun s w _ l => ⟨s.opA w l &&& s.opB w l, 0, 0⟩)
  ∧ W3Gives .or 3 1 (·.ty) (fun s w _ l => ⟨s.opA w l ||| s.opB w l, 0, 0⟩)
  ∧ W3Gives .xor 3 2 (·.ty) (fun s w _ l => ⟨s.opA w l ^^^ s.opB w l, 0, 0⟩)
  ∧ W3Gives .andn 3 3 (·.ty) (fun s w _ l => ⟨s.opA w l &&& ~~~s.opB w l, 0, 0⟩)
  ∧ W3Gives .not 3 4 (·.ty) (fun s w _ l => ⟨~~~s.opA w l, 0, 0⟩)
  ∧ W3Gives .shl 3 5 (·.ty) (fun s w _ l => ⟨s.opA w l <<< (s.reg l w.b.toNat).toNat, 0, 0⟩)
  ∧ W3Gives .shr 3 6 (·.ty) (fun s w _ l => ⟨s.opA w l >>> (s.reg l w.b.toNat).toNat, 0, 0⟩)
  ∧ W3Gives .sar 3 7 (·.ty) (fun s w _ l => ⟨onWidth w.ty (fun x _ => x.sshiftRight (s.reg l w.b.toNat).toNat)
      (fun x _ => x.sshiftRight (s.reg l w.b.toNat).toNat) (s.opA w l) 0, 0, 0⟩)
  ∧ W3Gives .rol 3 8 (·.ty) (fun s w _ l => ⟨onWidth w.ty (fun x _ => x.rotateLeft (s.reg l w.b.toNat).toNat)
      (fun x _ => x.rotateLeft (s.reg l w.b.toNat).toNat) (s.opA w l) 0, 0, 0⟩)
  ∧ W3Gives .mov 3 15 (·.ty) (fun s w _ l => ⟨s.opA w l, 0, 0⟩))
  ∧ (W3Gives .bfx 3 9 (·.ty) (fun s w _ l => ⟨bitField w.ty (bitsOf w.ty) (s.opA w l)
    ((s.reg l w.b.toNat).extractLsb' 0 8).toNat ((s.reg l w.b.toNat).extractLsb' 8 8).toNat, 0, 0⟩)
  ∧ W3Gives .bfi 3 10 (·.ty) (fun s w _ l => ⟨bitInsert (bitsOf w.ty) (s.opA w l) (s.opB w l)
    ((s.reg l w.c.toNat).extractLsb' 0 8).toNat ((s.reg l w.c.toNat).extractLsb' 8 8).toNat, 0, 0⟩)
  ∧ W3Gives .popc 3 11 (·.ty) (fun s w _ l => ⟨BitVec.ofNat 64 (countOnes (s.opA w l) (bitsOf w.ty)), 0, 0⟩)
  ∧ W3Gives .clz 3 12 (·.ty) (fun s w _ l => ⟨BitVec.ofNat 64 (zerosAbove (s.opA w l) (bitsOf w.ty)), 0, 0⟩)
  ∧ W3Gives .ctz 3 13 (·.ty) (fun s w _ l => ⟨BitVec.ofNat 64 (zerosBelow (s.opA w l) (bitsOf w.ty)), 0, 0⟩)
  ∧ W3Gives .brev 3 14 (·.ty) (fun s w _ l =>
      ⟨onWidth w.ty (fun x _ => x.reverse) (fun x _ => x.reverse) (s.opA w l) 0, 0, 0⟩))

/-- 10 R261 to R263: the rounding FP words round the exact result of each element once, in the mode of the word, and merge
its status; fscal's exponent is an i32. Minimum, maximum, comparison and class of each element, and the operations on
the sign bits alone. The model's choices it rests on: notes/assumptions/23.md. -/
def Obligations.FpWords : Prop :=
  (W3Gives .fadd 4 0 (·.ty) (fun s w _ l => fpLane s w l (fun m x y _ => fpAdd (fmtOf w.ty) m x y))
    (fun s w => fpDraws (w.ty != .f64) s w)
  ∧ W3Gives .fsub 4 1 (·.ty) (fun s w _ l => fpLane s w l (fun m x y _ => fpSub (fmtOf w.ty) m x y))
    (fun s w => fpDraws (w.ty != .f64) s w)
  ∧ W3Gives .fmul 4 2 (·.ty) (fun s w _ l => fpLane s w l (fun m x y _ => fpMul (fmtOf w.ty) m x y))
    (fun s w => fpDraws (w.ty != .f64) s w)
  ∧ W3Gives .ffma 4 3 (·.ty) (fun s w _ l => fpLane s w l (fun m x y z => fpFma (fmtOf w.ty) m x y z))
    (fun s w => fpDraws (w.ty != .f64) s w)
  ∧ W3Gives .frnd 4 10 (·.ty) (fun s w _ l => fpLane s w l (fun m x _ _ => fpRnd (fmtOf w.ty) m x))
    (fun s w => fpDraws (w.ty != .f64) s w)
  ∧ W3Gives .fscal 4 11 (·.ty) (fun s w _ l => fpLane s w l (fun m x _ _ =>
      fpScal (fmtOf w.ty) m x (s.reg l w.b.toNat).toInt)) (fun s w => fpDraws (w.ty != .f64) s w))
  ∧ (W3Gives .fmin 4 4 (·.ty) (fun s w _ l =>
    onElements w.ty (fun _ x y _ => fpMinMax (fmtOf w.ty) false x y) (s.opA w l) (s.opB w l) 0)
  ∧ W3Gives .fmax 4 5 (·.ty) (fun s w _ l =>
    onElements w.ty (fun _ x y _ => fpMinMax (fmtOf w.ty) true x y) (s.opA w l) (s.opB w l) 0)
  ∧ W3Gives .fabs 4 6 (·.ty) (fun s w _ l => ⟨s.opA w l &&& ~~~signBits w.ty, 0, 0⟩)
  ∧ W3Gives .fneg 4 7 (·.ty) (fun s w _ l => ⟨s.opA w l ^^^ signBits w.ty, 0, 0⟩)
  ∧ W3Gives .fcopys 4 12 (·.ty) (fun s w _ l =>
      ⟨(s.opA w l &&& ~~~signBits w.ty) ||| (s.opB w l &&& signBits w.ty), 0, 0⟩)
  ∧ W3Gives .fcmp 4 8 (fun _ => .n32) (fun s w _ l => onElements w.ty (fun _ x y _ =>
      ((fpCmp (fmtOf w.ty) w.m.toNat x y).1.toNat, (fpCmp (fmtOf w.ty) w.m.toNat x y).2))
      (s.opA w l) (s.opB w l) 0)
  ∧ W3Gives .fclass 4 9 (fun _ => .n32) (fun s w _ l =>
      onElements w.ty (fun _ x _ _ => (fpClass (fmtOf w.ty) x, 0)) (s.opA w l) 0 0))

/-- 10 R264 to R266: conversions between register types, from and to the 8-bit formats, and to and from integers.
The model's choices it rests on: notes/assumptions/19.md. -/
def Obligations.ConversionWords : Prop :=
  W3Gives .fcvtFloat 5 0 (·.ty) (fun s w _ l =>
    let t := bType w
    let x := s.operand t l w.a.toNat
    let r (e : Nat) (v : Nat) : Nat × Nat :=
      fpConvert (fmtOf t) (fmtOf w.ty) (s.mode w.m (w.ty != .f64 && t != .f64) l e) v
    if w.ty.isPacked then
      ⟨BitVec.ofNat 64 ((r 0 (x.toNat % 65536)).1 + (r 1 (x.toNat / 65536 % 65536)).1 * 65536),
        (r 0 (x.toNat % 65536)).2 ||| (r 1 (x.toNat / 65536 % 65536)).2, 0⟩
    else ⟨BitVec.ofNat 64 (r 0 (x.toNat % 2 ^ (fmtOf t).width)).1, (r 0 (x.toNat % 2 ^ (fmtOf t).width)).2, 0⟩)
    (fun s w => fpDraws (w.ty != .f64 && bType w != .f64) s w)
  ∧ W3Gives .fcvtFromBinary8 5 0 (·.ty) (fun s w _ l =>
    let x := (s.reg l w.a.toNat).toNat
    let r (e : Nat) : Nat × Nat :=
      roundVal (fmtOf w.ty) (s.mode w.m (w.ty != .f64) l e) (decode8 (w.c.toNat % 64) (x / 256 ^ e % 256))
    if w.ty.isPacked then ⟨BitVec.ofNat 64 ((r 0).1 + (r 1).1 * 65536), (r 0).2 ||| (r 1).2, 0⟩
    else ⟨BitVec.ofNat 64 (r 0).1, (r 0).2, 0⟩) (fun s w => fpDraws (w.ty != .f64) s w)
  ∧ W3Gives .fcvtToBinary8 5 0 (fun _ => .n32) (fun s w _ l =>
    let x := (s.opA w l).toNat
    let r (e v : Nat) : Nat × Nat :=
      encode8 (w.c.toNat % 64) (s.mode w.m (w.ty != .f64) l e) (decodeIeee (fmtOf w.ty) v)
    if w.ty.isPacked then ⟨BitVec.ofNat 64 ((r 0 (x % 65536)).1 + (r 1 (x / 65536 % 65536)).1 * 256),
      (r 0 (x % 65536)).2 ||| (r 1 (x / 65536 % 65536)).2, 0⟩
    else ⟨BitVec.ofNat 64 (r 0 (x % 2 ^ (fmtOf w.ty).width)).1, (r 0 (x % 2 ^ (fmtOf w.ty).width)).2, 0⟩)
    (fun s w => fpDraws (w.ty != .f64) s w)
  ∧ W3Gives .icvt 5 1 (·.ty) (fun s w _ l =>
    let r := icvtVal (bType w) w.ty (s.mode w.m false l 0) (s.operand (bType w) l w.a.toNat)
    ⟨r.1, r.2, 0⟩)

/-- 10 R267, R268: fpack writes the codes of a lane's four values and the scale that its block shares, and is
WIDTH_MISUSE in a warp narrower than its block, whatever its sources hold; funpack gives four values back under their
scale. The model's choices it rests on: notes/assumptions/19.md. -/
def Obligations.BlockScaleWords : Prop :=
  (∀ (w : W3) (s : State), (Instr.fpack w).wellFormed = true → Clear3 s 5 2 w →
    blockSize (w.c.toNat / 64) / 4 ≤ s.me.width →
    let act := s.active w.g w.gn
    let lanes := blockSize (w.c.toNat / 64) / 4
    let k (l : Nat) : Int := canonicalScale (w.c.toNat % 64) (s.mode w.m false 0 0)
      ((act.filter (fun j => j / lanes = l / lanes)).flatMap (fun j => (List.range 4).map (fun i =>
        decodeIeee (fmtOf w.ty) ((s.reg j (w.a.toNat + i)).toNat % 2 ^ (fmtOf w.ty).width))))
    Gives (.fpack w) s act .n64 w.d (fun l =>
      let r := packCodes (w.c.toNat % 64) (s.mode w.m false 0 0) (k l) (s.packValues w l)
      ⟨pair64 (BitVec.ofNat 32 r.1) (BitVec.ofInt 8 (k l) |>.setWidth 32), r.2, 0⟩) 0)
  ∧ (∀ (w : W3) (s : State) (h : W3Shape), w3Shape 5 2 w = some h → w.g = 0 ∨ s.holds w.g.toNat = true →
    (∀ n ∈ w3Named h w, s.holds n = true) → s.me.width < blockSize (w.c.toNat / 64) / 4 →
    exec (.fpack w) s = .next (s.takeFault fcWidthMisuse ((s.active w.g w.gn).headD (s.group.headD 0)) 0 0))
  ∧ (∀ (w : W3) (s : State), (Instr.funpack w).wellFormed = true → Clear3 s 5 3 w →
    ∃ t, exec (.funpack w) s = .next t ∧ Retires s t
      ∧ OnlyRows s t (rowsOf s (s.active w.g w.gn) [w.d.toNat, w.d.toNat + 1, w.d.toNat + 2, w.d.toNat + 3])
      ∧ (let element (l i : Nat) : Nat × Nat := roundVal (fmtOf w.ty) (s.mode w.m false l 0)
          (readScaled (w.c.toNat % 64) ((s.reg l w.a.toNat).toNat / 256 ^ i % 256)
            ((s.reg l (w.a.toNat + 1)).toNat % 256))
        (∀ l ∈ s.active w.g w.gn, ∀ i < 4, t.reg l (w.d.toNat + i) = BitVec.ofNat 32 (element l i).1)
        ∧ t.me.fexc = s.me.fexc ||| BitVec.ofNat 32 ((s.active w.g w.gn).foldl (fun x l => x ||| (element l 0).2
            ||| (element l 1).2 ||| (element l 2).2 ||| (element l 3).2) 0)
        ∧ t.me.iexc = s.me.iexc ∧ t.me.rngCtr = s.me.rngCtr))

/-- 10 R269, R270: each special-function word (frcp, frsq, fsqrt, fex2, flg2, fsin, fcos, ftanh) completes in every state
that meets `Clear3` and gives its function of each element; NaN, infinite and zero inputs give
the values of the table. The model's choices it rests on: notes/assumptions/24.md. -/
def Obligations.SpecialFunctionWords : Prop :=
  (W3Gives .frcp 6 0 (·.ty) (sfuLane .rcp)
  ∧ W3Gives .frsq 6 1 (·.ty) (sfuLane .rsq)
  ∧ W3Gives .fsqrt 6 2 (·.ty) (sfuLane .sqrt)
  ∧ W3Gives .fex2 6 3 (·.ty) (sfuLane .ex2)
  ∧ W3Gives .flg2 6 4 (·.ty) (sfuLane .lg2)
  ∧ W3Gives .fsin 6 5 (·.ty) (sfuLane .sin)
  ∧ W3Gives .fcos 6 6 (·.ty) (sfuLane .cos)
  ∧ W3Gives .ftanh 6 7 (·.ty) (sfuLane .tanh))
  ∧ (∀ n, sfuElem .rcp fmtF32 n 0x00000000 = (0x7F800000, 2) ∧ sfuElem .rsq fmtF32 n 0x80000000 = (0xFF800000, 2)
    ∧ sfuElem .lg2 fmtF32 n 0x80000000 = (0xFF800000, 2) ∧ sfuElem .sqrt fmtF32 n 0x80000000 = (0x80000000, 0)
    ∧ sfuElem .sqrt fmtF32 n 0xBF800000 = (0x7FC00000, 1) ∧ sfuElem .sin fmtF32 n 0x7F800000 = (0x7FC00000, 1)
    ∧ sfuElem .ex2 fmtF32 n 0xFF800000 = (0, 0) ∧ sfuElem .tanh fmtF32 n 0xFF800000 = (0xBF800000, 0)
    ∧ sfuElem .cos fmtF32 n 0x80000000 = (0x3F800000, 0) ∧ sfuElem .rcp fmtF32 n 0x7F800001 = (0x7FC00000, 1))

/-- 10 R272 with 02 R47: both slots of a paired word read every source before either writes, and each gives what the
full word of its name gives. -/
def Obligations.PairedWordReadsBeforeWriting : Prop :=
  ∀ (p : PairWord) (s : State), (Instr.pairedWord p).wellFormed = true →
    Clear s 0 false (slotNamed p.s0 ++ slotNamed p.s1) (slotSources p.s0 ++ slotSources p.s1) →
    let value (x : Slot) (l : Nat) : DWord × Nat := slotVal x.op x.ty x.m (s.mode (x.m.setWidth 3) false l 0)
      ((s.reg l x.d.toNat).setWidth 64) ((s.reg l x.b.toNat).setWidth 64)
    let regs := (if p.s0.op = .nop then [] else [p.s0.d.toNat]) ++ (if p.s1.op = .nop then [] else [p.s1.d.toNat])
    ∃ t, exec (.pairedWord p) s = .next t ∧ Retires s t ∧ OnlyRows s t (rowsOf s (s.active 0 false) regs)
      ∧ (∀ l ∈ s.active 0 false, p.s0.op ≠ .nop → t.reg l p.s0.d.toNat = lo32 (value p.s0 l).1)
      ∧ (∀ l ∈ s.active 0 false, p.s1.op ≠ .nop → t.reg l p.s1.d.toNat = lo32 (value p.s1 l).1)
      ∧ t.me.fexc = s.me.fexc ||| BitVec.ofNat 32 ((s.active 0 false).foldl (fun x l =>
          x ||| (value p.s0 l).2 ||| (value p.s1 l).2) 0)
      ∧ t.me.iexc = s.me.iexc ∧ t.me.rngCtr = s.me.rngCtr

/-- 09 R242 to R246: what the LANE words give. The model's choices it rests on: notes/assumptions/28.md. -/
def Obligations.LaneWords : Prop :=
  W3Gives .shfl 8 0 (·.ty) (fun s w act l =>
    let j := (s.reg l w.b.toNat).toNat
    let source : Option Nat := match w.m.toNat with
      | 0 => some (j % s.me.width)
      | 1 => if j ≤ l then some (l - j) else none
      | 2 => if l + j < s.me.width then some (l + j) else none
      | _ => some ((l ^^^ j) % s.me.width)
    ⟨match source with
      | some x => if x ∈ act then s.opA w x else s.opA w l
      | none => s.opA w l, 0, 0⟩)
  ∧ W3Gives .vote 8 1 (fun w => if w.m = 3 then .n64 else .n32) (fun s w act _ =>
    let yes := act.filter (fun l => (s.reg l w.a.toNat).getLsbD 0)
    ⟨match w.m.toNat with
      | 0 => flag (yes.length == act.length)
      | 1 => flag (0 < yes.length)
      | 2 => flag (yes.length == 0 || yes.length == act.length)
      | 3 => BitVec.ofNat 64 (laneMask yes)
      | _ => BitVec.ofNat 64 yes.length, 0, 0⟩)
  ∧ W3Gives .bcast 8 2 (·.ty) (fun s w act l =>
    let j := (s.reg (act.headD 0) w.b.toNat).toNat % s.me.width
    ⟨if j ∈ act then s.opA w j else s.opA w l, 0, 0⟩)
  ∧ W3Gives .redux 8 3 (·.ty) (fun s w act _ =>
    let r := tree (s.combiner w) (s.contributions w act 0 s.me.width.log2) s.me.width.log2
    ⟨r.1.getD 0, r.2, 0⟩)
  ∧ W3Gives .scan 8 4 (·.ty) (fun s w act l =>
    let r := s.prefixFrom w act (if w.c.getLsbD 3 then l else l + 1) 0 (none, 0) 7
    ⟨r.1.getD (identityOf w.ty (w.c.toNat % 8)), r.2, 0⟩)
  ∧ W3Gives .matchLanes 8 5 (fun _ => .n64) (fun s w act l =>
      ⟨BitVec.ofNat 64 (laneMask (act.filter (fun j => s.opA w j = s.opA w l))), 0, 0⟩)
  ∧ W3Gives .lmask 8 6 (fun _ => .n64) (fun s w act l =>
      ⟨BitVec.ofNat 64 (match w.m.toNat with
        | 0 => 2 ^ l
        | 1 => 2 ^ l - 1
        | 2 => 2 ^ (l + 1) - 1
        | 3 => 2 ^ s.me.width - 2 ^ (l + 1)
        | 4 => 2 ^ s.me.width - 2 ^ l
        | _ => laneMask act), 0, 0⟩)

/-- 09 R247, R249: rng draws from the key and the counter at the lane's frame position and advances the counter by
one, also when no lane is active; rngseed and rngskip set them from the lowest active lane, and do nothing without one. -/
def Obligations.GeneratorWords : Prop :=
  W3Gives .rng 9 3 (·.ty) (fun s w _ l =>
    let z := genH s.me.rngKey (s.me.rngCtr + BitVec.ofNat 64 ((if s.me.isWarp then s.me.base + l else 0) * 2 ^ 40))
    ⟨match w.ty with
      | .f32 => BitVec.ofNat 64 (roundFin fmtF32 .rne false (z >>> 40).toNat (-24)).1
      | _ => z, 0, 0⟩) (fun _ _ => 1)
  ∧ (∀ (w : W3) (s : State), (Instr.rngseed w).wellFormed = true → Clear3 s 9 4 w →
    exec (.rngseed w) s = .next (match s.active w.g w.gn with
      | [] => s.retire
      | x :: _ => after s (fun a => { a with rngKey := s.pair x w.a.toNat, rngCtr := 0 })))
  ∧ (∀ (w : W3) (s : State), (Instr.rngskip w).wellFormed = true → Clear3 s 9 5 w →
    exec (.rngskip w) s = .next (match s.active w.g w.gn with
      | [] => s.retire
      | x :: _ => after s (fun a => { a with rngCtr := s.me.rngCtr + s.pair x w.a.toNat })))

/-- 09 R228, R230: smov reads each lane's value of a special register, one word or both of it; smovw writes %meet for
each active lane and any other register from the lowest active lane, whose reserved bits stay 0 and whose reserved
values leave it as it was (03 R64, R67, R68; 05 R140; 14 R350). -/
def Obligations.SpecialRegisterWords : Prop :=
  W3Gives .smov 10 0 (·.ty) (fun s w _ l =>
    ⟨if w.a.toNat < 128 then s.special w.a.toNat l else s.special (w.a.toNat - 128) l >>> 32, 0, 0⟩)
    (pre := fun s w => 24 ≤ w.a.toNat ∧ w.a.toNat ≤ 27 → s.me.isWarp = false)
  ∧ (∀ (w : W3) (s : State) (x : Nat) (ls : List Nat), (Instr.smovw w).wellFormed = true → Clear3 s 10 1 w →
    (24 ≤ w.a.toNat ∧ w.a.toNat ≤ 27 → s.me.isWarp = false) → s.active w.g w.gn = x :: ls →
    ∃ t, exec (.smovw w) s = .next t.retire ∧ (∀ a, t.mem.byte a = s.mem.byte a) ∧ t.rf = s.rf
      ∧ (w.a = 8 → t = s.updMe (fun a => { a with threads := a.threads.mapIdx (fun l th =>
          if l ∈ s.active w.g w.gn then { th with meet := s.reg l w.b.toNat } else th) }))
      ∧ (w.a = 9 → t = s.updMe (fun a => { a with lc0 := s.reg x w.b.toNat }))
      ∧ (w.a = 10 → t = s.updMe (fun a => { a with lc1 := s.reg x w.b.toNat }))
      ∧ (w.a = 11 → t = s.updMe (fun a => { a with lc2 := s.reg x w.b.toNat }))
      ∧ (w.a = 13 → w.ty = .n64 → t = s.updMe (fun a => { a with rngKey := s.pair x w.b.toNat }))
      ∧ (w.a = 14 → w.ty = .n64 → t = s.updMe (fun a => { a with rngCtr := s.pair x w.b.toNat }))
      ∧ (w.a = 13 → w.ty = .n32 → t = s.updMe (fun a => { a with
          rngKey := pair64 (s.reg x w.b.toNat) (hi32 s.me.rngKey) }))
      ∧ (w.a = 141 → t = s.updMe (fun a => { a with rngKey := pair64 (lo32 s.me.rngKey) (s.reg x w.b.toNat) }))
      ∧ (w.a = 14 → w.ty = .n32 → t = s.updMe (fun a => { a with
          rngCtr := pair64 (s.reg x w.b.toNat) (hi32 s.me.rngCtr) }))
      ∧ (w.a = 142 → t = s.updMe (fun a => { a with rngCtr := pair64 (lo32 s.me.rngCtr) (s.reg x w.b.toNat) }))
      ∧ (w.a = 16 → t = s.updMe (fun a => { a with fpmode :=
          (if 6 ≤ (s.reg x w.b.toNat &&& 7).toNat then s.me.fpmode else s.reg x w.b.toNat &&& 7) }))
      ∧ (w.a = 17 → t = s.updMe (fun a => { a with iexc := s.reg x w.b.toNat &&& 3 }))
      ∧ (w.a = 18 → t = s.updMe (fun a => { a with fexc := s.reg x w.b.toNat &&& 31 }))
      ∧ (w.a = 21 → t = s.updMe (fun a => { a with racemode :=
          (if s.reg x w.b.toNat &&& 3 = 3 then s.me.racemode else s.reg x w.b.toNat &&& 3) }))
      ∧ (w.a = 22 → t = s.updMe (fun a => { a with trapvec := s.reg x w.b.toNat &&& 0xFFFFFFFB }))
      ∧ (w.a = 24 → t = s.updMe (fun a => { a with shp0 := s.reg x w.b.toNat }))
      ∧ (w.a = 25 → t = s.updMe (fun a => { a with shp1 := s.reg x w.b.toNat }))
      ∧ (w.a = 26 → t = s.updMe (fun a => { a with shp2 := s.reg x w.b.toNat }))
      ∧ (w.a = 27 → t = s.updMe (fun a => { a with shp3 := s.reg x w.b.toNat })))

/-! ### Warps and control flow -/

/-- 09 R227: the pair lock is taken where no warp holds it, waited for in order where another does, and passed to the
first that waits, whose xacq may then go on, once the holder's writes to the extended set have landed. The model's choices it rests on:
notes/assumptions/75.md. -/
def Obligations.PairLockWords : Prop :=
  (∀ (w : W3) (s : State) (l : PairLock), (Instr.xacq w).wellFormed = true → Clear3 s 10 2 w → s.active w.g w.gn ≠ [] →
    s.me.isWarp = true → s.me.regE ≠ 0 → s.lock s.me.core s.me.pairGroup = l →
    (l.holder = none → l.waiters = [] ∨ l.waiters.head? = some s.me.slot →
      ∃ t, exec (.xacq w) s = .next t ∧ KeepsData s t ∧ t.me.threads = s.retire.me.threads
        ∧ t.lock s.me.core s.me.pairGroup = ⟨some s.me.slot, l.waiters.filter (· ≠ s.me.slot)⟩
        ∧ ∀ k, k ≠ lockKey s.me.core s.me.pairGroup → t.locks.get {} k = s.locks.get {} k)
    ∧ (l.holder = some s.me.slot →
      ∃ t, exec (.xacq w) s = .next t ∧ KeepsData s t ∧ t.me.threads = s.retire.me.threads ∧ t.locks = s.locks)
    ∧ (∀ h, l.holder = some h → h ≠ s.me.slot → s.me.slot ∉ l.waiters →
      ∃ t, exec (.xacq w) s = .next t ∧ KeepsData s t ∧ t.me.threads = s.me.threads ∧ (t.parked).isSome
        ∧ t.lock s.me.core s.me.pairGroup = ⟨some h, l.waiters ++ [s.me.slot]⟩))
  ∧ (∀ (w : W3) (s : State) (l : PairLock), (Instr.xrel w).wellFormed = true → Clear3 s 10 3 w → s.active w.g w.gn ≠ [] →
    s.me.isWarp = true → s.lock s.me.core s.me.pairGroup = l → l.holder = some s.me.slot →
    (∀ p ∈ s.me.pend, extRow p.row = false) →
    ∃ t, exec (.xrel w) s = .next t ∧ t.rf = s.rf ∧ t.rfPoison = s.rfPoison ∧ (∀ a, t.mem.byte a = s.mem.byte a)
      ∧ t.me.threads = s.retire.me.threads
      ∧ t.lock s.me.core s.me.pairGroup = ⟨l.waiters.head?, l.waiters.tail⟩
      ∧ (∀ k, k ≠ lockKey s.me.core s.me.pairGroup → t.locks.get {} k = s.locks.get {} k)
      ∧ (∀ id, l.waiters.head?.map (s.me.core * 32 + ·) ≠ some id → t.others.find id = s.others.find id)
      ∧ (∀ u q, l.waiters.head? = some u → u ≠ s.me.slot → s.others.find (s.me.core * 32 + u) = some q →
        t.others.find (s.me.core * 32 + u) = some { q with parks := q.parks.map (fun (p : Park) =>
          if p.wait = Wait.lock then { p with done := true } else p) }))

/-- 09 R237, R238: split gives the lower half of the positions to the warp in its slot and the upper half to a new warp
in the lowest free slot, each half with its own threads, gone on to the next word, and an empty register cache, moves no
register row and writes 0 to the active lanes of both; with no free slot it writes 7. The model's choices it rests on: notes/assumptions/48.md, notes/assumptions/74.md. -/
def Obligations.SplitHalvesTheWarp : Prop :=
  ∀ (w : W3) (s : State) (c sl : Nat), (Instr.split w).wellFormed = true → Clear3 s 9 0 w → s.me.kind = .warp c sl →
    16 < s.me.width → s.busy s.me = false →
    (∀ u, s.freeSlot s.cluster = some u →
      (∃ (l : Nat) (th : Thread), s.me.width / 2 ≤ l ∧ l < 2 * (s.me.width / 2)
        ∧ s.me.threads[l]? = some th ∧ th.live = true) →
      ∃ t x, exec (.split w) s = .next t ∧ t.me.kind = .warp c sl ∧ t.me.width = s.me.width / 2
        ∧ t.me.base = s.me.base ∧ t.agent (AgentKind.warp s.me.core u).id = some x
        ∧ x.kind = .warp c u ∧ x.width = s.me.width / 2 ∧ x.base = s.me.base + s.me.width / 2 ∧ x.frame = s.me.frame
        ∧ OnlyRows s t (rowsOf s (s.active 0 false) [w.d.toNat])
        ∧ (∀ l ∈ s.active 0 false, t.rf.get 0 (rowKey s.me (s.me.base + l) w.d.toNat) = 0)
        ∧ t.me.cache = [] ∧ x.cache = []
        ∧ (Straight s → (∀ th ∈ s.me.threads, th.live = true → th.st = .runnable) →
          t.me.threads = (movedOn s).take (s.me.width / 2)
          ∧ x.threads = ((movedOn s).drop (s.me.width / 2)).take (s.me.width / 2))
        ∧ ∀ a, t.mem.byte a = s.mem.byte a)
    ∧ (s.freeSlot s.cluster = none → Gives (.split w) s (s.active 0 false) .n32 w.d (fun _ => ⟨7, 0, 0⟩) 0)

/-- 09 R239: fuse writes its code and goes on as it was where no partner can be joined; where the partner waits on the
same word and nothing forbids it, the two become one warp of twice the width in the lower one's slot, with the lower one's
threads before the upper one's, gone on to the next word, an empty register cache, and code 0 in the destination of every
lane that was held at the word.
fuseq writes the code that fuse would give now, and changes nothing else (R240). The model's choices it rests on:
notes/assumptions/74.md. -/
def Obligations.FuseJoinsTwoWarps : Prop :=
  ((∀ (w : W3) (s : State) (k : Nat), (Instr.fuse w).wellFormed = true → s.me.isWarp = true → Clear3 s 9 1 w →
    s.fuseCheck = .error k → Gives (.fuse w) s (s.active 0 false) .n32 w.d (fun _ => ⟨(BitVec.ofNat 32 k).setWidth 64, 0, 0⟩) 0)
  ∧ (∀ (w : W3) (s : State) (p : Agent), (Instr.fuse w).wellFormed = true → s.me.isWarp = true → Clear3 s 9 1 w →
    s.fuseCheck = .ok p → s.agent p.id = some p → p.id ≠ s.me.id → s.busy s.me = false → s.busy p = false →
    p.fusingAt s.issuePc = true → s.joinCode s.me p = 0 →
    ∃ t, exec (.fuse w) s = .next t ∧ (∀ a, t.mem.byte a = s.mem.byte a)
      ∧ t.me.id = (if s.me.base < p.base then s.me.id else p.id)
      ∧ t.others.find (if s.me.base < p.base then p.id else s.me.id) = none
      ∧ t.me.width = 2 * s.me.width ∧ t.me.base = min s.me.base p.base
      ∧ t.me.iexc = s.me.iexc ||| p.iexc ∧ t.me.fexc = s.me.fexc ||| p.fexc ∧ t.me.cache = []
      ∧ (let q : State := { s with me := p }
        OnlyRows s t (rowsOf s s.group [w.d.toNat] ++ rowsOf q q.group [w.d.toNat])
        ∧ (∀ r ∈ rowsOf s s.group [w.d.toNat] ++ rowsOf q q.group [w.d.toNat], t.rf.get 0 r = 0)
        ∧ (Straight s → Straight q → (∀ th ∈ s.me.threads ++ p.threads, th.live = true → th.st = .runnable) →
          t.me.threads = if s.me.base < p.base then movedOn s ++ movedOn q else movedOn q ++ movedOn s))))
  ∧ ((∀ (w : W3) (s : State) (k : Nat), (Instr.fuseq w).wellFormed = true → s.me.isWarp = true → Clear3 s 9 2 w →
    s.fuseCheck = .error k → Gives (.fuseq w) s (s.active 0 false) .n32 w.d (fun _ => ⟨(BitVec.ofNat 32 k).setWidth 64, 0, 0⟩) 0)
  ∧ (∀ (w : W3) (s : State) (p : Agent), (Instr.fuseq w).wellFormed = true → s.me.isWarp = true → Clear3 s 9 2 w →
    s.fuseCheck = .ok p →
    let together := ∀ t ∈ p.threads, ∀ u ∈ p.threads, t.live = true → u.live = true → t.pc = u.pc
    (p.fusingAt s.issuePc = true ∨ together →
      Gives (.fuseq w) s (s.active 0 false) .n32 w.d (fun _ => ⟨BitVec.ofNat 64 (s.joinCode s.me p), 0, 0⟩) 0)
    ∧ (p.fusingAt s.issuePc = false → ¬ together →
      Gives (.fuseq w) s (s.active 0 false) .n32 w.d (fun _ => ⟨1, 0, 0⟩) 0)))

/-- 09 R233: a word's result enters an active warp's register cache of six entries as the latest, and so does a source
whose reuse hint is set (02 R42), in the word's own turn; the entry that entered least recently leaves. A warp whose last
open group parks leaves the active set with no entry; xacq and xrel leave no entry of the extended set. (yield, split and
fuse leave none: FlowWords, SplitHalvesTheWarp, FuseJoinsTwoWarps.) That a register which is held enters anew is the model's
choice: notes/assumptions/81.md. -/
def Obligations.RegisterCache : Prop :=
  ((∀ p ∈ ([(.iadd, 0), (.isub, 1), (.imul, 2), (.imad, 4), (.imin, 7), (.imax, 8)] : List ((W3 → Instr) × Nat)),
    ∀ (w : W3) (s : State), (p.1 w).wellFormed = true → Clear3 s 1 p.2 w → s.active w.g w.gn ≠ [] →
    s.me.isWarp = true → s.me.sched = .active →
    ∃ t, exec (p.1 w) s = .next t ∧ t.me.cache =
      (resultRegs w.ty w.d.toNat ++ s.me.cache.filter (· ∉ resultRegs w.ty w.d.toNat)).take 6)
  ∧ (∀ (s t : State) (a : Agent) (i : Instr) (major fn : Nat) (w : W3) (h : W3Shape), i.fields = .w3 major fn w →
    w3Shape major fn w = some h → t.agent s.me.id = some a → a.id = s.me.id → a.isWarp = true → a.sched = .active →
    a.anyOpen = true → a.parkAt s.issuePc = none → a.cache.length ≤ 6 →
    let hs := ((if w.hintA then fieldRegs h.a w.ty w.a else []) ++ (if w.hintB then fieldRegs h.b w.ty w.b else [])).eraseDups
    ∃ b, (issued s (some i) t).agent s.me.id = some b ∧ b.sched = .active ∧ b.cache.length ≤ 6
      ∧ (∀ n ∈ b.cache, n ∈ hs ∨ n ∈ a.cache)
      ∧ (a.cache = s.me.cache → b.cache = (hs ++ a.cache.filter (· ∉ hs)).take 6)
      ∧ (∀ r, r ∉ s.me.cache → a.cache = (r :: s.me.cache).take 6 → b.cache =
          (r :: hs.filter (· ≠ r) ++ (s.me.cache.take 5).filter (· ∉ hs)).take 6)))
  ∧ (∀ (s t : State) (a : Agent) (i : Instr), t.agent s.me.id = some a → a.id = s.me.id → a.isWarp = true →
    a.sched = .active → a.groupPcs ≠ [] → a.anyOpen = false →
    ∃ b, (issued s (some i) t).agent s.me.id = some b ∧ b.sched = .parked ∧ b.cache = [])
  ∧ (∀ (w : W3) (s : State), (Instr.xacq w).wellFormed = true → Clear3 s 10 2 w → s.active w.g w.gn ≠ [] →
    s.me.isWarp = true → s.me.regE ≠ 0 → s.lock s.me.core s.me.pairGroup = ⟨none, []⟩ →
    ∃ t, exec (.xacq w) s = .next t ∧ t.me.cache = s.me.cache.filter (· < 128))
  ∧ (∀ (w : W3) (s : State) (l : PairLock), (Instr.xrel w).wellFormed = true → Clear3 s 10 3 w →
    s.active w.g w.gn ≠ [] → s.me.isWarp = true → s.lock s.me.core s.me.pairGroup = l → l.holder = some s.me.slot →
    (∀ p ∈ s.me.pend, extRow p.row = false) →
    ∃ t, exec (.xrel w) s = .next t ∧ t.me.cache = s.me.cache.filter (· < 128))

/-- 11 R275, R281, R282: a transfer sends each active lane to its target and the rest of the group to the next word; a
call writes the link pair of its active lanes; registers and memory stand otherwise. Stated where no loop level is
active and no thread has a meeting address; the other cases are LoopLevels and MeetingPointHoldsAndReleases. A register
target whose low three bits are not 0 in some active lane is, for jmpr, callr and ret, the fault MISALIGNED_TARGET of the
lowest such lane, with the target as its address, and a warp's callr writes no link pair then. -/
def Obligations.BranchesSendLanesToTheirTargets : Prop :=
  ((∀ (w : WB) (s : State) (con : WB → Instr) (target : Nat → DWord) (sources : List Nat),
    (con, target, sources) ∈ [(Instr.bra, fun _ => s.issuePc + 8 * w.off.signExtend 64, []),
      (Instr.jmpr, fun l => s.pair l w.reg.toNat, [w.reg.toNat, w.reg.toNat + 1]),
      (Instr.ret, fun l => s.pair l w.reg.toNat, [w.reg.toNat, w.reg.toNat + 1])] →
    (con w).wellFormed = true → Clear s w.g w.gn sources sources → Straight s → s.group ≠ [] →
    (∀ l ∈ s.active w.g w.gn, target l &&& 7 = 0) →
    ∃ t, exec (con w) s = .next t ∧ KeepsData s t ∧ KeepsPlace s.me t.me
      ∧ (∀ l ∈ s.group, stOf t l = some .runnable
        ∧ pcOf t l = some (if l ∈ s.active w.g w.gn then target l else s.issuePc + 8))
      ∧ ∀ l, l ∉ s.group → t.me.threads[l]? = s.me.threads[l]?)
  ∧ (∀ (w : WB) (s : State) (con : WB → Instr) (target : Nat → DWord) (sources : List Nat),
    (con, target, sources) ∈ [(Instr.call, fun _ => s.issuePc + 8 * w.off.signExtend 64, []),
      (Instr.callr, fun l => s.pair l w.reg.toNat, [w.reg.toNat, w.reg.toNat + 1])] →
    (con w).wellFormed = true → Clear s w.g w.gn [w.reg.toNat, w.reg.toNat + 1] sources → Straight s → s.group ≠ [] →
    (∀ l ∈ s.active w.g w.gn, target l &&& 7 = 0) →
    ∃ t, exec (con w) s = .next t ∧ (∀ a, t.mem.byte a = s.mem.byte a) ∧ KeepsPlace s.me t.me
      ∧ OnlyRows s t (rowsOf s (s.active w.g w.gn) [w.reg.toNat, w.reg.toNat + 1])
      ∧ (∀ l ∈ s.active w.g w.gn, t.pair l w.reg.toNat = s.issuePc + 8)
      ∧ (∀ l ∈ s.group, stOf t l = some .runnable
        ∧ pcOf t l = some (if l ∈ s.active w.g w.gn then target l else s.issuePc + 8))
      ∧ ∀ l, l ∉ s.group → t.me.threads[l]? = s.me.threads[l]?))
  ∧ (∀ (w : WB) (s : State) (con : WB → Instr) (l : Nat) (pre post : List Nat),
    con ∈ [Instr.jmpr, Instr.callr, Instr.ret] → (con w).wellFormed = true →
    Clear s w.g w.gn [w.reg.toNat, w.reg.toNat + 1] [w.reg.toNat, w.reg.toNat + 1] →
    s.active w.g w.gn = pre ++ l :: post → (∀ j ∈ pre, s.pair j w.reg.toNat &&& 7 = 0) →
    s.pair l w.reg.toNat &&& 7 ≠ 0 →
    ∃ t, exec (con w) s = .next t ∧ t = s.takeFault fcMisalignedTarget l 0 (s.pair l w.reg.toNat)
      ∧ (s.me.isWarp = true → t.rf = s.rf ∧ t.rfPoison = s.rfPoison ∧ t.me.threads = s.me.threads))

/-- 11 R284 to R287: a loop word executed by every thread of the warp opens the next level with its counter and body, and
its group goes to the first word of the body; a count of 0 skips the body. Where every thread that has not exited is held
at the end of the one active level, a counter above 1 is decremented and the threads start the body again, and a counter
of 0 or 1 ends the level with its counter 0. brk by every thread of the warp ends the innermost level, sets its counter
to 0 and sends every thread to the level's end. The model's choices it rests on: notes/assumptions/25.md,
notes/assumptions/26.md, notes/assumptions/55.md. -/
def Obligations.LoopLevels : Prop :=
  (∀ (w : WB) (s : State) (x : Nat) (ls : List Nat), (Instr.loop w).wellFormed = true →
    Clear s 0 false [w.reg.toNat] [] [w.reg.toNat] → s.group = x :: ls → s.wholeGroup = true → Straight s →
    w.hint = 0 → s.branchTarget w.off ≠ s.issuePc + 8 →
    ∃ t, exec (.loop w) s = .next t ∧ KeepsData s t ∧ KeepsPlace s.me t.me
      ∧ t.me.lc0 = s.reg x w.reg.toNat ∧ t.me.lc1 = s.me.lc1 ∧ t.me.lc2 = s.me.lc2
      ∧ (s.reg x w.reg.toNat ≠ 0 → t.me.loops = [⟨s.issuePc + 8, s.branchTarget w.off, false⟩]
        ∧ ∀ l ∈ s.group, pcOf t l = some (s.issuePc + 8) ∧ stOf t l = some .runnable)
      ∧ (s.reg x w.reg.toNat = 0 → t.me.loops = []
        ∧ ∀ l ∈ s.group, pcOf t l = some (s.branchTarget w.off) ∧ stOf t l = some .runnable))
  ∧ (∀ (a : Agent) (l : Loop), a.loops = [l] → (∃ t ∈ a.threads, t.live = true) →
    (∀ t ∈ a.threads, t.live = true → t.st = .atLoop) → (∀ t ∈ a.threads, t.meet = 0xFFFFFFFF) →
    (1 < a.lc0.toNat → (a.settle settleFuel).1 = { a with
      lc0 := a.lc0 - 1, loops := [{ l with again := true }],
      threads := a.threads.map (fun t => if t.live then { t with pc := l.start, st := .runnable } else t) })
    ∧ (a.lc0.toNat ≤ 1 → (a.settle settleFuel).1 = { a with
      lc0 := 0, loops := [],
      threads := a.threads.map (fun t => if t.live then { t with pc := l.stop, st := .runnable } else t) }))
  ∧ (∀ (w : WB) (s : State) (l : Loop), (Instr.brk w).wellFormed = true → Clear s w.g w.gn [] [] → s.me.loops = [l] →
    (∀ t ∈ s.me.threads, t.meet = 0xFFFFFFFF) → s.wholeGroup = true → s.active w.g w.gn ≠ [] →
    ∃ t, exec (.brk w) s = .next t ∧ KeepsData s t ∧ KeepsPlace s.me t.me ∧ t.me.loops = [] ∧ t.me.lc0 = 0
      ∧ ∀ x ∈ s.group, pcOf t x = some l.stop ∧ stOf t x = some .runnable)

/-- 11 R277, R278, R283: meet sets the meeting register of each active lane; a thread that arrives at its meeting
address is held there, and where every thread that has not exited is held at one address, all are released with no
meeting address. -/
def Obligations.MeetingPointHoldsAndReleases : Prop :=
  (∀ (w : WB) (s : State), (Instr.meet w).wellFormed = true → Clear s w.g w.gn [] [] → Straight s → s.group ≠ [] →
    meetAddr s.me.codeBase (meetValue s.me.codeBase (s.branchTarget w.off)) ≠ some (s.issuePc + 8) →
    ∃ t, exec (.meet w) s = .next t ∧ KeepsData s t ∧ KeepsPlace s.me t.me
      ∧ (∀ l ∈ s.active w.g w.gn, t.me.threads[l]?.map (·.meet) =
          some (lo32 ((s.branchTarget w.off - s.me.codeBase).sshiftRight 3)))
      ∧ ∀ l ∈ s.group, l ∉ s.active w.g w.gn → t.me.threads[l]?.map (·.meet) = some 0xFFFFFFFF)
  ∧ (∀ (a : Agent) (pc : DWord) (t : Thread), a.loops = [] → t.st = .runnable → meetAddr a.codeBase t.meet = some t.pc →
    arrive a pc t = { t with st := .atMeet })
  ∧ (∀ (a : Agent) (m : DWord), (∃ t ∈ a.threads, t.live = true) →
    (∀ t ∈ a.threads, t.live = true → t.st = .atMeet ∧ t.pc = m) →
    a.settle settleFuel = ({ a with threads := a.threads.map (fun t =>
      if t.live then { t with st := .runnable, meet := 0xFFFFFFFF } else t) }, 0))

/-- 11 R275, R290 to R292, R294; 13 R342: the retirement of a word sends its group to the next word, 8 bytes on, and leaves
registers, memory and the other threads; nop does that alone. exit and tail end their active lanes; a conductor thread
whose last lane ends is idle, RUN reading 0; another agent is touched only where the warp's end passes its pair lock on;
tail by the last thread of a warp hands the warp's outstanding work to the
retirement tracker. yield takes an active warp out of the active set with its register cache emptied; spin marks the warp
as spinning and keeps its next word back for 17 clk of its die's clock, which its end is tested by (00 R4); both go on to
the next word. The model's choices it rests on: notes/assumptions/9.md. -/
def Obligations.FlowWords : Prop :=
  ((∀ (w : W3) (s : State), (Instr.nop w).wellFormed = true → Clear3 s 17 0 w → exec (.nop w) s = .next s.retire)
  ∧ (∀ s : State, KeepsData s s.retire ∧ KeepsPlace s.me s.retire.me)
  ∧ (∀ s : State, Straight s → s.group ≠ [] →
    (∀ l ∈ s.group, pcOf s.retire l = some (s.issuePc + 8) ∧ stOf s.retire l = some .runnable)
    ∧ ∀ l, l ∉ s.group → s.retire.me.threads[l]? = s.me.threads[l]?))
  ∧ ((∀ (w : W3) (s : State), (Instr.exit w).wellFormed = true → Clear3 s 17 1 w → s.active w.g w.gn ≠ [] →
    ∃ t, exec (.exit w) s = .next t ∧ t.rf = s.rf ∧ t.rfPoison = s.rfPoison ∧ (∀ a, t.mem.byte a = s.mem.byte a)
      ∧ (¬ ((s.lock s.me.core s.me.pairGroup).holder = some s.me.slot ∧ (s.lock s.me.core s.me.pairGroup).waiters ≠ []) →
        t.others = s.others)
      ∧ KeepsPlace s.me t.me ∧ (∀ l ∈ s.active w.g w.gn, stOf t l = some .exited)
      ∧ (s.me.isWarp = false → (∀ l th, s.me.threads[l]? = some th → th.live = true → l ∈ s.active w.g w.gn) →
        t.me.xqctl = s.me.xqctl &&& ~~~0x200))
  ∧ (∀ (w : W3) (s : State), (Instr.tail w).wellFormed = true → Clear3 s 17 2 w → s.active w.g w.gn ≠ [] →
    s.me.isWarp = true → (∀ l th, s.me.threads[l]? = some th → th.live = true → l ∈ s.active w.g w.gn) →
    (s.coreOf s.me.core).tracker.length < 16 →
    ∃ t, exec (.tail w) s = .next t ∧ t.rf = s.rf ∧ t.rfPoison = s.rfPoison ∧ (∀ a, t.mem.byte a = s.mem.byte a)
      ∧ (¬ ((s.lock s.me.core s.me.pairGroup).holder = some s.me.slot ∧ (s.lock s.me.core s.me.pairGroup).waiters ≠ []) →
        t.others = s.others)
      ∧ KeepsPlace s.me t.me ∧ (∀ l ∈ s.active w.g w.gn, stOf t l = some .exited)
      ∧ (s.openAccesses s.me.id ≠ [] → (t.coreOf s.me.core).tracker = (s.coreOf s.me.core).tracker ++
          [⟨s.me.part, s.me.grid, s.me.cluster, s.openAccesses s.me.id, s.openCommands s.me.id⟩]
        ∧ t.openAccesses s.me.id = [])))
  ∧ ((∀ (w : W3) (s : State), (Instr.yield w).wellFormed = true → Clear3 s 17 4 w → s.active w.g w.gn ≠ [] →
    s.me.isWarp = true →
    ∃ t, exec (.yield w) s = .next t ∧ KeepsData s t ∧ KeepsPlace s.me t.me ∧ t.me.threads = s.retire.me.threads
      ∧ (s.me.sched = .active → t.me.sched = .pending ∧ t.me.cache = [] ∧ t.me.readySince = s.tick))
  ∧ (∀ (w : W3) (s : State), (Instr.spin w).wellFormed = true → Clear3 s 17 5 w → s.active w.g w.gn ≠ [] →
    ∃ t, exec (.spin w) s = .next t ∧ KeepsData s t ∧ KeepsPlace s.me t.me ∧ t.me.threads = s.retire.me.threads
      ∧ t.me.spinning = s.me.isWarp ∧ t.me.quiet = some s.tick
      ∧ ∀ u : State, u.spinOver t.me = decide (s.tick + u.clkTicks (dieOf s.me.core) 17 ≤ u.tick)))

/-- 11 R293; 14 R348, R358: a trap word is SOFTWARE_TRAP with the code of its lowest active lane: with %trapvec.SE it
enters the handler with the trapping word as link and clears SE, and without it a warp takes the fault. -/
def Obligations.TrapWordEntersTheHandlerOrFaults : Prop :=
  ∀ (w : W3) (s : State) (x : Nat) (ls : List Nat), (Instr.trap w).wellFormed = true → Clear3 s 17 3 w →
    s.active w.g w.gn = x :: ls →
    (s.me.trapvec.getLsbD 1 = true → Straight s → 2 ≤ s.me.regB → s.me.regB ≤ 256 →
      ∃ t, exec (.trap w) s = .next t ∧ (∀ a, t.mem.byte a = s.mem.byte a)
        ∧ OnlyRows s t (rowsOf s (s.active w.g w.gn) [s.me.regB - 2, s.me.regB - 1])
        ∧ (∀ l ∈ s.active w.g w.gn, t.pair l (s.me.regB - 2) = s.issuePc
          ∧ pcOf t l = some (s.me.codeBase + (s.me.trapvec &&& 0xFFFFFFF8).setWidth 64))
        ∧ (∀ l ∈ s.group, l ∉ s.active w.g w.gn → pcOf t l = some (s.issuePc + 8))
        ∧ t.me.trapvec = s.me.trapvec &&& ~~~2#32
        ∧ t.me.trapinfo = trapInfo fcSoftwareTrap x ((s.reg x w.a.toNat).toNat % 65536) false)
    ∧ (s.me.trapvec.getLsbD 1 = false → s.me.isWarp = true →
      ∃ t, exec (.trap w) s = .next t ∧ KeepsData s t ∧ t.me.threads = s.me.threads ∧ t.me.halted = .stop
        ∧ t.me.trapinfo = trapInfo fcSoftwareTrap x ((s.reg x w.a.toNat).toNat % 65536) false)

/-! ### Memory words -/

/-- 07 R175 to R181: a load whose lanes all pass their checks is in flight with one piece for each word it reads, its
registers pending; a warp's ld and ldnt go on at once, and an ldacq, or a load of a conductor thread, waits. lddec is in
flight with the pieces of its elements and scale bytes, every register of its result pending, and the status of its
rounding pending on %fexc (10 R252). pref never faults and writes no register: it goes on once its pages translate, and a
page that no TLB holds is first walked, as a load's is (04 R111). The model's choices it rests on:
notes/assumptions/13.md, notes/assumptions/37.md, notes/assumptions/76.md. -/
def Obligations.LoadsEnterFlight : Prop :=
  (∀ (w : WM) (s : State) (con : WM → Instr) (kind : AccKind) (ps : List Piece),
    (con, kind) ∈ [(Instr.ld, AccKind.load), (Instr.ldacq, .ldacq), (Instr.ldnt, .ldnt)] →
    (con w).wellFormed = true →
    Clear s w.g w.gn (groupRegs w.d w.sz.toNat ++ addrRegs w.sp w.a) (addrRegs w.sp w.a) →
    s.checkLanes { s.newAccess kind w.sc.code.toNat with width := sizeBytes w.sz.toNat } true
      (fun r => s.checkLane r r.bytes) ((s.active w.g w.gn).map (s.loadReq w)) [] none = .ok ps →
    ps ≠ [] → s.overlaps ps = false →
    ∃ t, exec (con w) s = .next t ∧ InFlight s t s.nextId kind w.sc.code.toNat ps ∧ t.rf = s.rf ∧ KeepsDevice s t
      ∧ GoesOnOrWaits s t (kind == .ldacq || !s.me.isWarp))
  ∧ (∀ (w : WM) (s : State) (ps : List Piece), (Instr.lddec w).wellFormed = true →
    let regs := if w.sz.toNat ≤ 2 then [w.d.toNat] else groupRegs w.d w.sz.toNat
    Clear s w.g w.gn (regs ++ addrRegs .g w.a) (addrRegs .g w.a) →
    s.checkLanes { s.newAccess .lddec w.sc.code.toNat with shape := w.sz.toNat, dest := w.d.toNat } true s.checkDecode
      ((s.active w.g w.gn).map (fun l =>
        { lane := l, ea := s.ea .g w.a w.off.toInt l, bytes := shapeElems w.sz.toNat, need := { rd := true }, words := [] }))
      [] none = .ok ps →
    ps ≠ [] → s.overlaps ps = false →
    ∃ t, exec (.lddec w) s = .next t ∧ InFlight s t s.nextId .lddec w.sc.code.toNat ps ∧ t.rf = s.rf ∧ KeepsDevice s t
      ∧ GoesOnOrWaits s t (!s.me.isWarp)
      ∧ (∀ l ∈ s.active w.g w.gn, ∀ n ∈ regs, ∃ q ∈ t.me.pend, q.row = rowKey s.me (s.me.base + l) n ∧ q.req = s.nextId)
      ∧ ∃ q ∈ t.me.pend, q.row = fexcRow ∧ q.req = s.nextId)
  ∧ (∀ (w : WM) (s : State), (Instr.pref w).wellFormed = true →
    Clear s w.g w.gn (addrRegs w.sp w.a) (addrRegs w.sp w.a) →
    ((∀ l ∈ s.active w.g w.gn, ∀ page, s.prefPlace w l ≠ .miss page) →
      ∃ t, exec (.pref w) s = .next t ∧ t.rf = s.rf ∧ t.me.threads = s.retire.me.threads ∧ t.me.halted = s.me.halted
        ∧ t.me.trapinfo = s.me.trapinfo ∧ t.me.pend = s.me.pend ∧ t.others = s.others)
    ∧ ((∃ l ∈ s.active w.g w.gn, ∃ page, s.prefPlace w l = .miss page) →
      ∃ t, exec (.pref w) s = .next t ∧ Waits s t ∧ t.me.halted = s.me.halted ∧ t.me.trapinfo = s.me.trapinfo
        ∧ t.me.pend = s.me.pend))

/-- 07 R169 to R175, R177, R182: a store whose lanes all pass their checks retires and is in flight with the words and data
it writes; it has changed no byte of device memory yet, and a strel's writes wait for its release. The word a 4-byte
store of a lane goes to: in the scratchpad, the cluster's word at the address in bits [21:0] of the register plus the
offset, where it lies within the scratchpad; in space 0, where the TLB maps the page to device memory with write
permission, the word at the page's frame plus the offset in the page, whatever the page's size (04 R109). The model's choices it rests on:
notes/assumptions/76.md. -/
def Obligations.StoresEnterFlight : Prop :=
  ((∀ (w : WM) (s : State) (con : WM → Instr) (kind : AccKind) (ps : List Piece),
    (con, kind) ∈ [(Instr.st, AccKind.store), (Instr.stnt, .stnt)] → (con w).wellFormed = true →
    Clear s w.g w.gn (groupRegs w.d w.sz.toNat ++ addrRegs w.sp w.a) (groupRegs w.d w.sz.toNat ++ addrRegs w.sp w.a) →
    s.checkLanes { s.newAccess kind w.sc.code.toNat with width := sizeBytes w.sz.toNat } false
      (fun r => s.checkLane r r.bytes) ((s.active w.g w.gn).map (s.storeReq w)) [] none = .ok ps →
    ps ≠ [] → s.overlaps ps = false → s.active w.g w.gn ≠ [] →
    ∃ t, exec (con w) s = .next t ∧ InFlight s t s.nextId kind w.sc.code.toNat ps ∧ t.rf = s.rf ∧ KeepsDevice s t
      ∧ t.me.threads = s.retire.me.threads)
  ∧ (∀ (w : WM) (s : State) (ps : List Piece), (Instr.strel w).wellFormed = true →
    Clear s w.g w.gn (groupRegs w.d w.sz.toNat ++ addrRegs w.sp w.a) (groupRegs w.d w.sz.toNat ++ addrRegs w.sp w.a) →
    s.checkLanes { s.newAccess .strel w.sc.code.toNat with width := sizeBytes w.sz.toNat } false
      (fun r => s.checkLane r r.bytes) ((s.active w.g w.gn).map (s.storeReq w)) [] none = .ok ps →
    ps ≠ [] → s.overlaps ps = false → s.active w.g w.gn ≠ [] →
    ∃ t id, exec (.strel w) s = .next t ∧ InFlight s t id .strel w.sc.code.toNat ps ∧ t.rf = s.rf ∧ KeepsDevice s t
      ∧ t.me.threads = s.retire.me.threads
      ∧ (s.releaseWaits (s.me.scope w.sc.code.toNat) ≠ [] → ∃ a r x, t.accesses.find id = some a ∧ a.after = some r
          ∧ t.releases.find r = some x ∧ x.waits = s.releaseWaits (s.me.scope w.sc.code.toNat))))
  ∧ ((∀ (w : WM) (s : State) (l : Nat), w.sz = 2 → w.sp = .sp → s.me.isWarp = true →
    let at_ := ((s.reg l w.a.toNat).toNat % 2 ^ 22 : Int) + w.off.toInt
    (at_ % 4 = 0 → 0 ≤ at_ → at_ + 4 ≤ (s.cluster.scratch : Int) → ∃ p, s.checkLane (s.storeReq w l) 4 = .ok [p]
      ∧ p.key = (s.me.cluster * 2 ^ 22 + at_.toNat) / 4 ∧ p.scr = true ∧ p.mask = 15 ∧ p.val = s.reg l w.d.toNat)
    ∧ (at_ % 4 ≠ 0 → s.checkLane (s.storeReq w l) 4 = .fault fcMisalignedAccess 0 (BitVec.ofInt 64 at_))
    ∧ (at_ % 4 = 0 → at_ < 0 ∨ (s.cluster.scratch : Int) < at_ + 4 →
      s.checkLane (s.storeReq w l) 4 = .fault fcScratchBounds 0 (BitVec.ofInt 64 at_)))
  ∧ (∀ (w : WM) (s : State) (l : Nat) (e : TlbEntry), w.sz = 2 → w.sp = .g → s.noGroups s.me.part = false →
    let va := s.pair l w.a.toNat + BitVec.ofInt 64 w.off.toInt
    let at_ := e.leaf.frame + va.toNat % 2 ^ levelShift e.leaf.span
    va.toNat < 2 ^ 56 → s.tlbFind (va.toNat / 65536) = some e →
    (va.toNat % 4 ≠ 0 → s.checkLane (s.storeReq w l) 4 = .fault fcMisalignedAccess 0 va)
    ∧ (va.toNat % 4 = 0 → e.leaf.wr = true → e.leaf.wr2 = true → e.leaf.loc = 0 → e.leaf.wb = false →
      e.leaf.lost = none → s.inWindow s.me.part at_ = true →
      ∃ p, s.checkLane (s.storeReq w l) 4 = .ok [p] ∧ p.key = at_ / 4 ∧ p.scr = false
        ∧ p.mask = 15 ∧ (e.leaf.frame % 4 = 0 → p.val = s.reg l w.d.toNat))
    ∧ (va.toNat % 4 = 0 → e.leaf.wr = false →
      ∃ d, s.checkLane (s.storeReq w l) 4 = .fault fcProtection d va)))

/-- 07 R184 to R187: every ATOM word whose lanes pass their checks is in flight as the operation of its function, with its
operands; a form that returns the old value has its registers pending, and only a conductor thread waits for it; the lanes' checks include that an aaddf under CANON needs no
scratchpad entry beyond a core's 256 (07 R191). What an
atomic writes for an old value x and an operand y of 32 bits: sums wrap, minimum and maximum are the type's, ainc and adec
wrap at their bound, acas writes only where the old value equals its first operand. The model's choices it rests
on: notes/assumptions/37.md, notes/assumptions/76.md. -/
def Obligations.AtomicsEnterFlight : Prop :=
  (∀ (w : W3) (s : State) (con : W3 → Instr) (fn : Nat) (ps : List Piece),
    (con, fn) ∈ [(Instr.aadd, 0), (.amin, 1), (.amax, 2), (.aand, 3), (.aor, 4), (.axor, 5), (.axch, 6), (.acas, 7),
      (.ainc, 8), (.adec, 9), (.aaddf, 10), (.radd, 11), (.rmin, 12), (.rmax, 13), (.rand, 14), (.ror, 15),
      (.rxor, 16), (.raddf, 17)] →
    (con w).wellFormed = true → Clear3 s 0x1A fn w →
    s.checkLanes { s.newAccess (.atomic fn) w.m.toNat with
        wide := w.ty.isPair, ty := w.ty.code.toNat, width := if w.ty.isPair then 8 else 4 } (decide (fn ≤ 10))
      (fun r => s.checkLane r r.bytes (hostAtomOk fn)) ((s.active w.g w.gn).map (s.atomReq fn w)) [] none = .ok ps →
    ps ≠ [] → s.overlaps ps = false →
    ∃ t, exec (con w) s = .next t ∧ InFlight s t s.nextId (.atomic fn) w.m.toNat ps ∧ t.rf = s.rf ∧ KeepsDevice s t
      ∧ GoesOnOrWaits s t (decide (fn ≤ 10) && !s.me.isWarp))
  ∧ (∀ x y z : Word,
    (atomNew 0 .i32 (x.setWidth 64) (y.setWidth 64) (z.setWidth 64)).1.map lo32 = some (x + y)
    ∧ (atomNew 1 .i32 (x.setWidth 64) (y.setWidth 64) (z.setWidth 64)).1.map lo32 = some (if y.slt x then y else x)
    ∧ (atomNew 1 .n32 (x.setWidth 64) (y.setWidth 64) (z.setWidth 64)).1.map lo32 = some (if y.ult x then y else x)
    ∧ (atomNew 2 .i32 (x.setWidth 64) (y.setWidth 64) (z.setWidth 64)).1.map lo32 = some (if x.slt y then y else x)
    ∧ (atomNew 3 .n32 (x.setWidth 64) (y.setWidth 64) (z.setWidth 64)).1.map lo32 = some (x &&& y)
    ∧ (atomNew 4 .n32 (x.setWidth 64) (y.setWidth 64) (z.setWidth 64)).1.map lo32 = some (x ||| y)
    ∧ (atomNew 5 .n32 (x.setWidth 64) (y.setWidth 64) (z.setWidth 64)).1.map lo32 = some (x ^^^ y)
    ∧ (atomNew 6 .n32 (x.setWidth 64) (y.setWidth 64) (z.setWidth 64)).1.map lo32 = some y
    ∧ (atomNew 7 .n32 (x.setWidth 64) (y.setWidth 64) (z.setWidth 64)).1.map lo32 = (if x = y then some z else none)
    ∧ (atomNew 8 .n32 (x.setWidth 64) (y.setWidth 64) (z.setWidth 64)).1.map lo32 =
        some (if y.ule x then 0 else x + 1)
    ∧ (atomNew 9 .n32 (x.setWidth 64) (y.setWidth 64) (z.setWidth 64)).1.map lo32 =
        some (if x = 0 ∨ y.ult x then y else x - 1))

/-- 06 R152, R164; 07 R192, R193: acq drops the clean words its mask names in the caches of its scope, and keeps the
rest; rel and fence with nothing to wait for go on at once, a fence having acquired all; a release at system scope always
waits, for the acknowledgements of the ports (01 R23). The model's choices it
rests on: notes/assumptions/36.md. -/
def Obligations.SyncWords : Prop :=
  (∀ (w : W3) (s : State) (x c sl : Nat) (ls : List Nat), (Instr.acq w).wellFormed = true → Clear3 s 0x1B 1 w →
    s.active w.g w.gn = x :: ls → s.me.kind = .warp c sl → s.readsPending = false →
    ∃ t, exec (.acq w) s = .next t ∧ KeepsData s t ∧ t.me.threads = s.retire.me.threads
      ∧ (1 ≤ w.m.toNat → Acquired s t (l1Cache c) ((s.reg x w.a.toNat).toNat % 65536))
      ∧ (2 ≤ w.m.toNat → Acquired s t (sectionCache (c / 8)) ((s.reg x w.a.toNat).toNat % 65536)))
  ∧ (∀ (w : W3) (s : State), (Instr.rel w).wellFormed = true → Clear3 s 0x1B 2 w → s.active w.g w.gn ≠ [] →
    s.parked = none → s.readsPending = false →
    (s.releaseWaits (s.me.scope w.m.toNat) = [] →
      (s.me.scope w.m.toNat ≤ 2 ∨ (s.me.scope w.m.toNat ≤ 4 ∧ s.ownerQuiet s.me.owner = true)) →
      exec (.rel w) s = .next s.retire)
    ∧ ((s.releaseWaits (s.me.scope w.m.toNat) ≠ [] ∨ s.me.scope w.m.toNat = 5) →
      ∃ t x, exec (.rel w) s = .next t ∧ KeepsData s t ∧ t.me.threads = s.me.threads
        ∧ t.releases.find s.nextId = some x ∧ x.waits = s.releaseWaits (s.me.scope w.m.toNat)
        ∧ x.scope = s.me.scope w.m.toNat ∧ x.owner = s.me.owner))
  ∧ (∀ (w : W3) (s : State) (c sl : Nat), (Instr.fence w).wellFormed = true → Clear3 s 0x1B 0 w →
    s.active w.g w.gn ≠ [] → s.parked = none → s.readsPending = false → s.me.kind = .warp c sl →
    s.releaseWaits w.m.toNat = [] → (w.m.toNat ≤ 2 ∨ (w.m.toNat ≤ 4 ∧ s.ownerQuiet s.me.owner = true)) →
    ∃ t, exec (.fence w) s = .next t ∧ KeepsData s t ∧ t.me.threads = s.retire.me.threads
      ∧ (1 ≤ w.m.toNat → Acquired s t (l1Cache c) 0xFFFF)
      ∧ (2 ≤ w.m.toNat → Acquired s t (sectionCache (c / 8)) 0xFFFF))

/-- 07 R194, R195; 06 R165: both forms of region complete in every state that meets `Clear3`, for warps and conductor
threads. regionRewrite changes an entry of the context's table where its values are admitted and writes the code of the
first check that fails where they are not; both forms drop the clean words that the context filled under the index, in
the core's L1 and its section cache, or in the conductor core. With no active lane nothing happens. -/
def Obligations.RegionWords : Prop :=
  (∀ (w : W3) (s : State), (Instr.regionInvalidate w).wellFormed = true → Clear3 s 0x1B 3 w →
    (s.active w.g w.gn = [] → exec (.regionInvalidate w) s = .next s.retire)
    ∧ ∀ x ls, s.active w.g w.gn = x :: ls →
      ∃ t, exec (.regionInvalidate w) s = .next t ∧ KeepsData s t ∧ t.me.threads = s.retire.me.threads
        ∧ RegionDropped s t ((s.reg x w.a.toNat).toNat % 16))
  ∧ (∀ (w : W3) (s : State), (Instr.regionRewrite w).wellFormed = true → Clear3 s 0x1B 3 w → s.active w.g w.gn = [] →
    exec (.regionRewrite w) s = .next s.retire)
  ∧ (∀ (w : W3) (s : State) (x : Nat) (ls : List Nat), (Instr.regionRewrite w).wellFormed = true →
    Clear3 s 0x1B 3 w → s.active w.g w.gn = x :: ls → (s.parts.find s.me.part).isSome = true →
    let i := (s.reg x w.a.toNat).toNat % 16
    let base := (s.pair x w.b.toNat).toNat
    let len := (s.reg x w.c.toNat).toNat * 65536
    let code := if i = 0 then 1 else if base % 65536 ≠ 0 ∨ 2 ^ 56 ≤ base then 2 else if 2 ^ 56 < base + len then 3 else 0
    ∃ t, exec (.regionRewrite w) s = .next t ∧ (∀ a, t.mem.byte a = s.mem.byte a) ∧ RegionDropped s t i
      ∧ OnlyRows s t (rowsOf s (s.active w.g w.gn) [w.d.toNat])
      ∧ (∀ l ∈ s.active w.g w.gn, t.reg l w.d.toNat = BitVec.ofNat 32 code)
      ∧ (t.context s.me.part s.me.ctx).regions.get {} i =
          (if code = 0 then ⟨base, len⟩ else (s.context s.me.part s.me.ctx).regions.get {} i)
      ∧ ∀ j, j ≠ i → (t.context s.me.part s.me.ctx).regions.get {} j = (s.context s.me.part s.me.ctx).regions.get {} j)

/-- 07 R196: waitm reads its word strongly; it writes the value where that differs from its operand, and waits on the
word where it does not and no limit has passed. The model's choices it rests on: notes/assumptions/16.md,
notes/assumptions/38.md, notes/assumptions/56.md. -/
def Obligations.WaitmReadsOrWaits : Prop :=
  ∀ (w : W3) (s : State) (x : Nat) (ls : List Nat) (p : Piece), (Instr.waitm w).wellFormed = true →
    Clear3 s 0x1B 4 w → s.active w.g w.gn = x :: ls →
    s.checkLanes (s.newAccess .load 5) true (fun q => s.checkLane q 4)
      [{ lane := x, ea := { space := .g, addr := s.pair x w.a.toNat }, bytes := 4, need := { rd := true }, words := [{}] }]
      [] none = .ok [p] → s.overlaps [p] = false →
    (s.touchPieces [p]).obtainWaits (s.newAccess .load 5) p = false →
    let v := ((s.touchPieces [p]).obtain (s.newAccess .load 5) p).2
    let limit := (s.reg x w.c.toNat).toNat
    let expired := limit ≠ 0 ∧ limit ≤ s.tick - s.began
    (v ≠ s.reg x w.b.toNat ∨ expired → ∃ t, exec (.waitm w) s = .next t
      ∧ (∀ l ∈ s.active w.g w.gn, t.reg l w.d.toNat = v) ∧ t.me.threads = s.retire.me.threads)
    ∧ (v = s.reg x w.b.toNat → ¬ expired → ∃ t k b, exec (.waitm w) s = .next t ∧ t.rf = s.rf
      ∧ t.me.threads = s.me.threads ∧ t.parked = some k ∧ k.wait = .word p.key b ∧ k.limit = limit)

/-- 08 R207, R209, R218 to R221; 02 R51: a status queue's words: pop takes the first completed command's word, qpoll reads
it and leaves it, qlen counts the commands with none; push writes its call record's 256 words at the head of the ring (tick, address,
core, slot and context, the calling positions, the sequence number, and the request word of each position) and leaves its
threads' calls pending. A status queue with no command gives pop 0, one whose commands are all in progress makes it wait; pop, qpoll and
qlen of q4 give each lane its reply, whether it is there, and whether a call is pending; q5 to q7 are QUEUE_MISUSE, and a
conductor thread's push or pop of q4 is ILLEGAL_UNIT. -/
def Obligations.QueueWords : Prop :=
  ((∀ (w : W3) (s : State) (e : QueueEntry), (Instr.pop w).wellFormed = true → Clear3 s 11 1 w →
    s.active w.g w.gn ≠ [] → w.b.toNat ≤ 3 → (s.me.queues.getD w.b.toNat {}).first = some e → e.join.mask = 0 →
    ∃ t, exec (.pop w) s = .next t ∧ (∀ a, t.mem.byte a = s.mem.byte a)
      ∧ OnlyRows s t (rowsOf s (s.active w.g w.gn) [w.d.toNat])
      ∧ (∀ l ∈ s.active w.g w.gn, t.reg l w.d.toNat = e.word.getD 0 |||
          (if (s.me.queues.getD w.b.toNat {}).lost then 0x8000 else 0))
      ∧ t.me.queues = s.me.queues.set w.b.toNat ((s.me.queues.getD w.b.toNat {}).take e))
  ∧ W3Gives .qpoll 11 2 (fun _ => .n32) (fun s w _ _ =>
      ⟨match (s.me.queues.getD w.b.toNat {}).first with
        | some e => ((s.me.queues.getD w.b.toNat {}).word e).setWidth 64
        | none => 0, 0, 0⟩) (pre := fun s w => w.b.toNat ≤ 3 ∧ s.active w.g w.gn ≠ [])
  ∧ W3Gives .qlen 11 3 (fun _ => .n32) (fun s w _ _ =>
      ⟨(BitVec.ofNat 32 ((s.me.queues.getD w.b.toNat {}).entries.countP (·.word.isNone))).setWidth 64, 0, 0⟩)
      (pre := fun s w => w.b.toNat ≤ 3 ∧ s.active w.g w.gn ≠ [])
  ∧ (∀ (w : W3) (s : State), (Instr.push w).wellFormed = true → Clear3 s 11 0 w → s.active w.g w.gn ≠ [] →
    s.me.isWarp = true → w.b = 4 → bitN (s.preg s.me.part 0x11) 0 = true → (∀ l ∈ s.active w.g w.gn, s.callOf l = none) →
    (s.parts.find s.me.part).isSome = true →
    (s.preg s.me.part 0x0F + 2 ^ 32 - s.preg s.me.part 0x10) % 2 ^ 32 ≠ 2 ^ bitsN (s.preg s.me.part 0x0E) 3 0 →
    ∃ t, exec (.push w) s = .next t ∧ t.rf = s.rf
      ∧ t.preg s.me.part 0x0F = (s.preg s.me.part 0x0F + 1) % 2 ^ 32
      ∧ (∀ l ∈ s.active w.g w.gn, (t.me.calls.find? (fun c => c.pos == s.me.base + l && !c.cancelled)).isSome = true)
      ∧ (let head := s.preg s.me.part 0x0F
        let at_ := bitsN (s.preg s.me.part 0x0E) 51 12 * 4096 + 1024 * (head % 2 ^ bitsN (s.preg s.me.part 0x0E) 3 0)
        let lanes := s.active w.g w.gn
        let mask : DWord := BitVec.ofNat 64 (laneMask (lanes.map (s.me.base + ·)))
        ∀ d x, s.gpa s.me.part at_ = .ok (d, x) → s.forwards = [] →
          t.memWord (d / 4) = BitVec.ofNat 32 s.tick ∧ t.memWord (d / 4 + 1) = BitVec.ofNat 32 (s.tick / 2 ^ 32)
          ∧ t.memWord (d / 4 + 2) = lo32 s.issuePc ∧ t.memWord (d / 4 + 3) = hi32 s.issuePc
          ∧ t.memWord (d / 4 + 4) = BitVec.ofNat 32 (s.me.core + s.me.slot * 2 ^ 16 + s.me.ctx * 2 ^ 24)
          ∧ t.memWord (d / 4 + 5) = lo32 mask ∧ t.memWord (d / 4 + 6) = hi32 mask
          ∧ t.memWord (d / 4 + 7) = BitVec.ofNat 32 (seqOf head)
          ∧ (∀ i, 8 ≤ i → i < 16 → t.memWord (d / 4 + i) = 0)
          ∧ (∀ f < 64, (∀ l ∈ lanes, s.me.base + l ≠ f) → t.memWord (d / 4 + 16 + f) = 0)
          ∧ (∀ l ∈ lanes, s.me.base + l < 64 → t.memWord (d / 4 + 16 + s.me.base + l) = s.reg l w.a.toNat)
          ∧ ∀ i, 80 ≤ i → i < 256 → t.memWord (d / 4 + i) = 0)))
  ∧ (W3Gives .pop 11 1 (fun _ => .n32) (fun _ _ _ _ => ⟨0, 0, 0⟩)
    (pre := fun s w => w.b.toNat ≤ 3 ∧ (s.me.queues.getD w.b.toNat {}).entries = [])
  ∧ (∀ (w : W3) (s : State), (Instr.pop w).wellFormed = true → Clear3 s 11 1 w → s.active w.g w.gn ≠ [] →
    w.b.toNat ≤ 3 → (s.me.queues.getD w.b.toNat {}).entries ≠ [] → (s.me.queues.getD w.b.toNat {}).first = none →
    ∃ t, exec (.pop w) s = .next t ∧ Waits s t)
  ∧ (∀ (w : W3) (s : State), (Instr.pop w).wellFormed = true → Clear3 s 11 1 w → s.active w.g w.gn ≠ [] →
    s.me.isWarp = true → w.b = 4 → (∀ l ∈ s.active w.g w.gn, ∀ c, s.callOf l = some c → c.reply ≠ none) →
    ∃ t, exec (.pop w) s = .next t ∧ OnlyRows s t (rowsOf s (s.active w.g w.gn) [w.d.toNat])
      ∧ (∀ l ∈ s.active w.g w.gn, t.reg l w.d.toNat = ((s.callOf l).bind (·.reply)).getD 0)
      ∧ ∀ c ∈ t.me.calls, ∀ l ∈ s.active w.g w.gn, c.pos ≠ s.me.base + l)
  ∧ W3Gives .qpoll 11 2 (fun _ => .n32) (fun s _ _ l => ⟨flag ((s.callOf l).any (·.reply.isSome)), 0, 0⟩)
    (pre := fun _ w => w.b = 4)
  ∧ W3Gives .qlen 11 3 (fun _ => .n32) (fun s _ _ l => ⟨flag (s.callOf l).isSome, 0, 0⟩) (pre := fun _ w => w.b = 4)
  ∧ (∀ (w : W3) (s : State) (con : W3 → Instr) (fn x : Nat) (ls : List Nat),
    (con, fn) ∈ [(Instr.push, 0), (.pop, 1), (.qpoll, 2), (.qlen, 3)] → (con w).wellFormed = true →
    Clear3 s 11 fn w → s.active w.g w.gn = x :: ls → 5 ≤ w.b.toNat →
    exec (con w) s = .next (s.takeFault fcQueueMisuse x 0 0))
  ∧ (∀ (w : W3) (s : State) (con : W3 → Instr), con ∈ [Instr.push, .pop] → s.me.isWarp = false → w.b = 4 →
    exec (con w) s = .next (s.takeFault fcIllegalUnit (s.group.headD 0) 0 0)))

/-- 08 R199 to R204, R209, R211: a COPY word whose control word and addresses pass their checks puts one command into
its core's queue, with a piece for each address, takes the next place in its status queue, and raises its tag's
count. The model's choices it rests on: notes/assumptions/36.md. -/
def Obligations.CopyWordsQueueACommand : Prop :=
  (∀ (w : W3) (s : State) (con : W3 → Instr) (fn : Nat) (kind : CmdKind) (x : Nat) (ls : List Nat),
    (con, fn, kind) ∈ [(Instr.cpy, 0, CmdKind.cpy), (.gath, 1, .gath), (.scat, 2, .scat), (.coll, 3, .coll)] →
    (con w).wellFormed = true → Clear3 s 0x20 fn w → s.active w.g w.gn = x :: ls → w.d.toNat ≤ 3 →
    let act := s.active w.g w.gn
    let n := (s.reg x w.c.toNat).toNat
    let ctl := s.reg x (w.c.toNat + 1)
    let tag := (ctl.extractLsb' 0 6).toNat
    let src (l : Nat) : DWord := s.pair l w.a.toNat
    let dst (l : Nat) : DWord := s.pair l w.b.toNat
    let at_ (l : Nat) : DWord := BitVec.ofNat 64 (n * (if s.me.isWarp then l else 0))
    cmdSizeOk kind n = true → s.cmdFault kind w act x n ctl = none → s.slotsUsed s.me.core w.d.toNat < 128 →
    s.readsPending = false → (ctl.getLsbD 6 = true → s.tagSet.counts.get 0 tag < 255) →
    (s.me.isWarp = true → (s.clusters.find s.me.cluster).isSome = true) →
    ∃ t id c, exec (con w) s = .next t ∧ KeepsDevice s t ∧ t.rf = s.rf ∧ t.me.threads = s.retire.me.threads
      ∧ s.nextId ≤ id ∧ t.cmds.find id = some c
      ∧ c.kind = kind ∧ c.queue = w.d.toNat ∧ c.agent = s.me.id ∧ c.size = n ∧ c.ctl = ctl
      ∧ c.scope = s.me.scope w.m.toNat ∧ c.running = none ∧ c.at_ = 0
      ∧ c.pieces = (match kind with
        | .cpy => [⟨src x, dst x, n⟩]
        | .gath => act.map (fun l => ⟨src l, dst x + at_ l, n⟩)
        | .scat => act.map (fun l => ⟨src x + at_ l, dst l, n⟩)
        | _ => act.map (fun l => ⟨src l, dst x, n⟩))
      ∧ c.bytes = (if fn = 1 ∨ fn = 2 then n * act.length else n)
      ∧ t.me.queues = s.me.queues.mapIdx (fun i q => if i = w.d.toNat then
          { q with seq := (q.seq + 1) % 65536, entries := q.entries ++ [{ cmd := id }] } else q)
      ∧ t.tagSet.counts.get 0 tag = s.tagSet.counts.get 0 tag + (if ctl.getLsbD 6 then 1 else 0)
      ∧ (ctl.getLsbD 6 = true → t.tagSet.bits.getLsbD tag = false))
  ∧ (∀ (w : W3) (s : State) (con : W3 → Instr) (fn : Nat) (kind : CmdKind) (x : Nat) (ls : List Nat),
    (con, fn, kind) ∈ [(Instr.cpy, 0, CmdKind.cpy), (.gath, 1, .gath), (.scat, 2, .scat), (.coll, 3, .coll)] →
    (con w).wellFormed = true → Clear3 s 0x20 fn w → s.active w.g w.gn = x :: ls →
    (4 ≤ w.d.toNat → exec (con w) s = .next (s.takeFault fcQueueMisuse x 0 0))
    ∧ (w.d.toNat ≤ 3 → cmdSizeOk kind (s.reg x w.c.toNat).toNat = false →
      exec (con w) s = .next (s.takeFault fcEngineCommand x 0 0)))

/-- 08 R211, R212: tagwa waits for the tags of its mask that have commands outstanding, tagwy for one of them; tagff
gives the lowest tag that is set; tagclr clears the bits of its mask. The model's choices it rests on:
notes/assumptions/32.md. -/
def Obligations.TagWords : Prop :=
  ∀ (w : W3) (s : State) (x : Nat) (ls : List Nat), s.active w.g w.gn = x :: ls →
    let m := s.pair x w.a.toNat
    let set (i : Nat) : Bool := s.tagSet.bits.getLsbD i
    let idle (i : Nat) : Prop := s.tagSet.counts.get 0 i = 0
    ((Instr.tagwa w).wellFormed = true → Clear3 s 0x21 0 w →
      ((∀ i < 64, m.getLsbD i = true → set i = true ∨ idle i) → ∃ t, exec (.tagwa w) s = .next t ∧ KeepsData s t
        ∧ t.me.threads = s.retire.me.threads ∧ t.tagSet = s.tagSet)
      ∧ ((∃ i < 64, m.getLsbD i = true ∧ set i = false ∧ ¬ idle i) → ∃ t, exec (.tagwa w) s = .next t ∧ Waits s t))
    ∧ ((Instr.tagwy w).wellFormed = true → Clear3 s 0x21 1 w →
      ((∃ i < 64, m.getLsbD i = true ∧ set i = true) ∨ (∀ i < 64, m.getLsbD i = true → idle i) →
        ∃ t, exec (.tagwy w) s = .next t ∧ KeepsData s t ∧ t.me.threads = s.retire.me.threads ∧ t.tagSet = s.tagSet)
      ∧ ((∀ i < 64, m.getLsbD i = true → set i = false) → (∃ i < 64, m.getLsbD i = true ∧ ¬ idle i) →
        ∃ t, exec (.tagwy w) s = .next t ∧ Waits s t))
    ∧ ((Instr.tagff w).wellFormed = true → Clear3 s 0x21 2 w →
      ∃ t, exec (.tagff w) s = .next t ∧ OnlyRows s t (rowsOf s (s.active w.g w.gn) [w.d.toNat])
        ∧ (∀ l ∈ s.active w.g w.gn, t.reg l w.d.toNat =
            BitVec.ofNat 32 (((List.range 64).find? (fun i => m.getLsbD i && set i)).getD 64))
        ∧ (∀ a, t.mem.byte a = s.mem.byte a) ∧ t.tagSet = s.tagSet ∧ t.me.threads = s.retire.me.threads)
    ∧ ((Instr.tagclr w).wellFormed = true → Clear3 s 0x21 3 w →
      (s.me.isWarp = true → (s.clusters.find s.me.cluster).isSome = true) →
      ∃ t, exec (.tagclr w) s = .next t ∧ KeepsData s t ∧ t.me.threads = s.retire.me.threads
        ∧ t.tagSet.bits = s.tagSet.bits &&& ~~~m ∧ t.tagSet.counts = s.tagSet.counts
        ∧ ∀ i < 64, t.tagSet.joins.get [] i = if m.getLsbD i then [] else s.tagSet.joins.get [] i)

/-- 08 R213 to R215: gongi sets a gong's four words, gonga arrives at it and gives its phase before, gongw waits while
the phase is its operand's, gongt gives the phase. The model's choices it rests on: notes/assumptions/32.md. -/
def Obligations.GongWords : Prop :=
  ∀ (w : W3) (s : State) (x : Nat) (ls : List Nat), s.active w.g w.gn = x :: ls → s.me.isWarp = true →
    let a := (s.reg x w.a.toNat).toNat % 2 ^ 22
    let k := (s.me.cluster * 2 ^ 22 + a) / 4
    let b := s.reg x w.b.toNat
    let g := s.gong k
    let phase : Word := if g.word1.getLsbD 31 then 1 else 0
    a % 16 = 0 → a + 16 ≤ s.cluster.scratch →
    s.overlaps ((List.range 4).map (fun i => { lane := x, tid := s.me.tid x, key := k + i, scr := true })) = false →
    (∀ i < 4, s.scratchBad (k + i) 15 = false) → s.readsPending = false →
    ((Instr.gongi w).wellFormed = true → Clear3 s 0x22 0 w →
      let c : Word := (s.reg x w.c.toNat) &&& 0xFFFF
      ∃ t, exec (.gongi w) s = .next t ∧ KeepsData s t ∧ t.me.threads = s.retire.me.threads
        ∧ t.gong k = ⟨b, c, b, c⟩ ∧ t.gongJoins.get [] k = []
        ∧ ∀ j, j < k ∨ k + 4 ≤ j → t.scratchWord j = s.scratchWord j)
    ∧ ((Instr.gonga w).wellFormed = true → Clear3 s 0x22 1 w →
      (g.word1 &&& 0xFFFF ≠ 0 → ∃ t, exec (.gonga w) s = .next t
        ∧ OnlyRows s t (rowsOf s (s.active w.g w.gn) [w.d.toNat])
        ∧ (∀ l ∈ s.active w.g w.gn, t.reg l w.d.toNat = phase)
        ∧ (∀ i, t.mem.byte i = s.mem.byte i)
        ∧ (let pend := (g.word1 &&& 0xFFFF) - 1
          t.gong k = (if pend = 0 ∧ g.rem + b = 0 then
            ⟨g.relb, ((1 - phase) <<< 31) ||| (g.word3 &&& 0xFFFF), g.relb, g.word3⟩
            else ⟨g.rem + b, (phase <<< 31) ||| pend, g.relb, g.word3⟩))
        ∧ ∀ j, j < k ∨ k + 4 ≤ j → t.scratchWord j = s.scratchWord j)
      ∧ (g.word1 &&& 0xFFFF = 0 → exec (.gonga w) s = .next (s.takeFault fcEngineCommand x 0 0)))
    ∧ ((Instr.gongw w).wellFormed = true → Clear3 s 0x22 2 w →
      (phase ≠ b &&& 1 → ∃ t, exec (.gongw w) s = .next t ∧ KeepsData s t ∧ t.me.threads = s.retire.me.threads)
      ∧ (phase = b &&& 1 → ∃ t, exec (.gongw w) s = .next t ∧ Waits s t))
    ∧ ((Instr.gongt w).wellFormed = true → Clear3 s 0x22 3 w →
      ∃ t, exec (.gongt w) s = .next t ∧ OnlyRows s t (rowsOf s (s.active w.g w.gn) [w.d.toNat])
        ∧ (∀ l ∈ s.active w.g w.gn, t.reg l w.d.toNat = phase) ∧ t.gong k = g
        ∧ (∀ i, t.mem.byte i = s.mem.byte i) ∧ t.me.threads = s.retire.me.threads)

/-- 08 R216: chset and chclr put a strong write of a chime word in flight; chwait goes on once its word is at least its
operand, and waits on the word until then. The model's choices it rests on: notes/assumptions/16.md,
notes/assumptions/36.md, notes/assumptions/76.md. -/
def Obligations.ChimeWords : Prop :=
  (∀ (w : W3) (s : State) (x : Nat) (ls : List Nat) (con : W3 → Instr) (fn : Nat) (v : Word) (ps : List Piece),
    (con, fn, v) ∈ [(Instr.chset, 0, s.reg x w.b.toNat), (.chclr, 2, 0)] → (con w).wellFormed = true →
    Clear3 s 0x23 fn w → s.active w.g w.gn = x :: ls →
    s.checkLanes (s.newAccess .chime w.m.toNat) false (fun q => s.checkLane q 4)
      [{ lane := x, ea := { space := .g, addr := s.pair x w.a.toNat }, bytes := 4, need := { wr := true },
         words := [{ val := v }] }] [] none = .ok ps → ps ≠ [] → s.overlaps ps = false →
    ∃ t id, exec (con w) s = .next t ∧ InFlight s t id .chime w.m.toNat ps ∧ t.rf = s.rf ∧ KeepsDevice s t
      ∧ t.me.threads = s.retire.me.threads)
  ∧ (∀ (w : W3) (s : State) (x : Nat) (ls : List Nat) (p : Piece), (Instr.chwait w).wellFormed = true →
    Clear3 s 0x23 1 w → s.active w.g w.gn = x :: ls →
    s.checkLanes (s.newAccess .load w.m.toNat) true (fun q => s.checkLane q 4)
      [{ lane := x, ea := { space := .g, addr := s.pair x w.a.toNat }, bytes := 4, need := { rd := true }, words := [{}] }]
      [] none = .ok [p] → s.overlaps [p] = false → s.readsPending = false →
    (s.touchPieces [p]).obtainWaits (s.newAccess .load w.m.toNat) p = false →
    let v := ((s.touchPieces [p]).obtain (s.newAccess .load w.m.toNat) p).2
    (s.reg x w.b.toNat ≤ v → ∃ t, exec (.chwait w) s = .next t ∧ t.rf = s.rf ∧ t.me.threads = s.retire.me.threads)
    ∧ (v < s.reg x w.b.toNat → ∃ t k b, exec (.chwait w) s = .next t ∧ t.rf = s.rf
      ∧ t.me.threads = s.me.threads ∧ t.parked = some k ∧ k.wait = .word p.key b))

/-! ### The matrix unit, launches and the supervisor -/

/-- 12 R306 to R309: mzero and manch set a tile's rows, mres resolves 16 columns of a row into registers and mcmp
compares 32; the tile's other rows stand.
12 R310 to R312: msta puts the resolved words of its rows in flight as stores and msave the four-word images of
their elements; mrest sets each element from its image and leaves the row floating. The model's choices it rests
on: notes/assumptions/16.md, notes/assumptions/76.md. -/
def Obligations.AccumulatorWords : Prop :=
  ((∀ (w : W3) (s : State), (Instr.mzero w).wellFormed = true → Clear3 s 0x28 1 w → s.active w.g w.gn ≠ [] →
    TileReady s w.d.toNat (s.active w.g w.gn) →
    ∃ t, exec (.mzero w) s = .next t ∧ KeepsData s t ∧ t.me.threads = s.retire.me.threads
      ∧ KeepsOtherRows s t w.d.toNat (s.active w.g w.gn)
      ∧ ∀ l ∈ s.active w.g w.gn, t.isFixed w.d.toNat l = false ∧ ∀ j < 128, t.acc w.d.toNat l j = {})
  ∧ (∀ (w : W3) (s : State), (Instr.manch w).wellFormed = true → Clear3 s 0x28 8 w → s.active w.g w.gn ≠ [] →
    TileReady s w.d.toNat (s.active w.g w.gn) →
    (∀ l ∈ s.active w.g w.gn, ∀ j < 128, (s.acc w.d.toNat l j).poison = false) →
    ∃ t, exec (.manch w) s = .next t ∧ KeepsData s t ∧ t.me.threads = s.retire.me.threads
      ∧ KeepsOtherRows s t w.d.toNat (s.active w.g w.gn)
      ∧ ∀ l ∈ s.active w.g w.gn, t.isFixed w.d.toNat l = true ∧ ∀ j < 128, t.acc w.d.toNat l j =
          (s.acc w.d.toNat l j).rescale (scaleOf ((s.reg l w.b.toNat).toNat % 256)))
  ∧ (∀ (w : W3) (s : State), (Instr.mres w).wellFormed = true → Clear3 s 0x28 2 w → s.active w.g w.gn ≠ [] →
    TileReady s w.a.toNat (s.active w.g w.gn) →
    (∀ l ∈ s.active w.g w.gn, ∀ j < 16, (s.acc w.a.toNat l (16 * w.c.toNat + j)).poison = false) →
    let r (l j : Nat) : Nat × Nat :=
      (s.acc w.a.toNat l (16 * w.c.toNat + j)).resolve (fmtOf w.ty) (s.mode w.m false l 0)
    let n := if w.ty = .f32 then 16 else 8
    ∃ t, exec (.mres w) s = .next t ∧ Retires s t
      ∧ OnlyRows s t (rowsOf s (s.active w.g w.gn) ((List.range n).map (w.d.toNat + ·)))
      ∧ (∀ l ∈ s.active w.g w.gn, ∀ i < n, t.reg l (w.d.toNat + i) = BitVec.ofNat 32
          (if w.ty = .f32 then (r l i).1 else (r l (2 * i)).1 + (r l (2 * i + 1)).1 * 65536))
      ∧ t.me.fexc = s.me.fexc ||| BitVec.ofNat 32 ((s.active w.g w.gn).foldl (fun x l =>
          x ||| (List.range 16).foldl (fun y j => y ||| (r l j).2) 0) 0))
  ∧ W3Gives .mcmp 0x28 3 (fun _ => .n32) (fun s w _ l =>
      let r (i : Nat) : Nat × Nat := (s.acc w.a.toNat l (32 * w.c.toNat + i)).resolve fmtF32 .rne
      let c (i : Nat) : Bool × Nat := fpCmp fmtF32 w.m.toNat (r i).1 (s.reg l w.b.toNat).toNat
      ⟨BitVec.ofNat 64 (laneMask ((List.range 32).filter (fun i => (c i).1))),
        (List.range 32).foldl (fun x i => x ||| ((r i).2 ||| (c i).2)) 0, 0⟩)
    (pre := fun s w => TileReady s w.a.toNat (s.active w.g w.gn)
      ∧ ∀ l ∈ s.active w.g w.gn, ∀ j < 32, (s.acc w.a.toNat l (32 * w.c.toNat + j)).poison = false))
  ∧ ((∀ (w : W3) (s : State) (ps : List Piece), (Instr.msta w).wellFormed = true → Clear3 s 0x28 4 w →
    s.active w.g w.gn ≠ [] → TileReady s w.d.toNat (s.active w.g w.gn) →
    (∀ l ∈ s.active w.g w.gn, ∀ j < 128, (s.acc w.d.toNat l j).poison = false) →
    s.checkLanes (s.newAccess .matrix 0) false s.checkRow ((s.active w.g w.gn).map (fun l =>
      rowReq s w l { wr := true } ((s.staRow w l).1.map (fun v => { val := v })))) [] none = .ok ps →
    ps ≠ [] → s.overlaps ps = false →
    ∃ t, exec (.msta w) s = .next t ∧ InFlight s t s.nextId .matrix 0 ps ∧ t.rf = s.rf ∧ KeepsDevice s t
      ∧ t.me.threads = s.retire.me.threads
      ∧ t.me.fexc = s.me.fexc ||| BitVec.ofNat 32 ((s.active w.g w.gn).foldl (fun x l => x ||| (s.staRow w l).2) 0))
  ∧ (∀ (w : W3) (s : State) (ps : List Piece), (Instr.msave w).wellFormed = true → Clear3 s 0x28 5 w →
    s.active w.g w.gn ≠ [] → TileReady s w.d.toNat (s.active w.g w.gn) →
    s.checkLanes (s.newAccess .matrix 0) false s.checkRow ((s.active w.g w.gn).map (fun l =>
      rowReq s w l { wr := true } ((s.saveRow w l).map (fun v => { val := v.1, val2 := if v.2 then 1 else 0 })))) [] none
      = .ok ps → ps ≠ [] → s.overlaps ps = false →
    ∃ t, exec (.msave w) s = .next t ∧ InFlight s t s.nextId .matrix 0 ps ∧ t.rf = s.rf ∧ KeepsDevice s t
      ∧ t.me.threads = s.retire.me.threads)
  ∧ (∀ (e : Acc) (c : BitVec 42), -128 ≤ e.anchor → e.anchor ≤ 127 → -(2 ^ 42) ≤ e.v → e.v ≤ 2 ^ 42 - 2 →
    e.poison = false → Acc.ofImage (e.image c) = e)
  ∧ (∀ (w : W3) (s : State) (ps : List Piece), (Instr.mrest w).wellFormed = true → Clear3 s 0x28 6 w →
    s.active w.g w.gn ≠ [] → TileReady s w.d.toNat (s.active w.g w.gn) →
    s.checkLanes (s.newAccess .load 0) true s.checkRow ((s.active w.g w.gn).map (fun l =>
      rowReq s w l { rd := true } (List.replicate 512 {}))) [] none = .ok ps → s.overlaps ps = false →
    ps.any ((s.touchPieces ps).obtainWaits (s.newAccess .load 0)) = false →
    let words (l : Nat) : List Word :=
      (((s.touchPieces ps).obtainAll (s.newAccess .load 0) ps).2.filter (fun e => e.1 == l)).map (·.2)
    ∃ t, exec (.mrest w) s = .next t ∧ t.rf = s.rf ∧ t.me.threads = s.retire.me.threads
      ∧ KeepsOtherRows s t w.d.toNat (s.active w.g w.gn)
      ∧ ∀ l ∈ s.active w.g w.gn, t.isFixed w.d.toNat l = false ∧ ∀ j < 128,
          t.acc w.d.toNat l j = Acc.ofImage (((words l).drop (4 * j)).take 4)))

/-- 12 R302 to R304, R313, R316, R320; 03 R93: mma adds each row's products with a panel to the row's elements in
ascending order, under CANON with the row first fixed at anchor 0; the panel is read as it stands, or, while an mldb is
writing it, with free choices of old and new; mldb enters its core's loader queue; mbank is
PRIVILEGE in a warp and ILLEGAL_UNIT in a conductor thread. The model's choices it rests on:
notes/assumptions/36.md, notes/assumptions/39.md. -/
def Obligations.MatrixWords : Prop :=
  (∀ (w : W3) (s : State) (x : Nat) (ls : List Nat), (Instr.mma w).wellFormed = true → Clear3 s 0x28 0 w →
    s.active w.g w.gn = x :: ls → s.me.isWarp = true → s.ownsTile w.d.toNat = true →
    (∀ l ∈ s.active w.g w.gn, ∀ j < 128, (s.acc w.d.toNat l j).poison = false) →
    let half := s.cluster.ctxPos
    let unit := (s.reg x (w.b.toNat + 1)).toNat
    let read := if w.ty = .i32 then s.mixed half unit 256 32 else s.mixed half unit 128 64
    let tag := read.panelTag half unit
    let blocks := if w.ty = .i32 then read.panelBlocks half unit 256 32 else read.panelBlocks half unit 128 64
    (s.loadingAt half unit = none → read = s ∧ s.tagSuits w.ty half unit tag = panelSuits w.ty tag)
    ∧ (s.loadingAt half unit ≠ none → s.tagSuits w.ty half unit tag = decide (tag ≠ 0))
    ∧ (991 < unit ∨ s.tagSuits w.ty half unit tag = false →
      exec (.mma w) s = .next (s.takeFault fcEngineCommand x 0 0))
    ∧ (unit ≤ 991 → s.tagSuits w.ty half unit tag = true →
    ∃ t, exec (.mma w) s = .next t ∧ KeepsData s t ∧ t.me.threads = s.retire.me.threads
      ∧ KeepsOtherRows s t w.d.toNat (s.active w.g w.gn)
      ∧ (t.coreOf s.me.core).mma = (s.coreOf s.me.core).mma
          ++ [⟨s.bankOf, w.d.toNat, (s.active w.g w.gn).map (s.me.base + ·), s.me.id⟩]
      ∧ ∀ l ∈ s.active w.g w.gn, ∀ j < 128, t.acc w.d.toNat l j =
          (products (s.aRow w l) (read.bColumn w half tag blocks j)).foldl
            (fun e p => e.add (s.isFixed w.d.toNat l || s.me.repro.getLsbD 0) p)
            (if s.me.repro.getLsbD 0 = true ∧ s.isFixed w.d.toNat l = false then (s.acc w.d.toNat l j).rescale 0
              else s.acc w.d.toNat l j)))
  ∧ (∀ (w : W3) (s : State) (x : Nat) (ls : List Nat), (Instr.mldb w).wellFormed = true → Clear3 s 0x28 7 w →
    s.active w.g w.gn = x :: ls → s.me.isWarp = true →
    let src := s.pair x w.a.toNat
    let unit := (s.reg x w.b.toNat).toNat
    let count := (s.reg x w.c.toNat).toNat
    let ctl := s.reg x (w.c.toNat + 1)
    let tag := (ctl.extractLsb' 0 6).toNat
    s.mldbFault src unit count ctl = none → (s.loads s.me.core).length < 8 → s.readsPending = false →
    (ctl.getLsbD 6 = true → s.tagSet.counts.get 0 tag < 255) → (s.clusters.find s.me.cluster).isSome = true →
    ∃ t id c, exec (.mldb w) s = .next t ∧ KeepsData s t ∧ t.me.threads = s.retire.me.threads
      ∧ t.cmds.find id = some c ∧ (t.coreOf s.me.core).loader = (s.coreOf s.me.core).loader ++ [id]
      ∧ c.kind = .mldb ∧ c.ty = w.ty.code.toNat ∧ c.half = s.cluster.ctxPos ∧ c.bytes = 8192 * count
      ∧ c.pieces = (List.range count).map (fun i =>
          ⟨src + BitVec.ofNat 64 (8192 * i), BitVec.ofNat 64 (unit + 33 * i), 8192⟩)
      ∧ t.tagSet.counts.get 0 tag = s.tagSet.counts.get 0 tag + (if ctl.getLsbD 6 then 1 else 0))
  ∧ ∀ (w : W3) (s : State), exec (.mbank w) s = .next
      (s.takeFault (if s.me.isWarp then fcPrivilege else fcIllegalUnit) (s.group.headD 0) 0 0)

/-- 13 R326, R327, R330, R331: launch reads its descriptor and region table and, once the walks of its completion word's
pages can run (04 R112), either gives a refusal code or makes a WAITING grid under the next serial, and waits until then; ldisp gives the entry of the first row that fits; lstat gives a grid's state.
The model's choices it rests on: notes/assumptions/16.md, notes/assumptions/17.md. -/
def Obligations.LaunchWords : Prop :=
  (∀ (w : W3) (s s1 s2 s3 : State) (x : Nat) (ls : List Nat) (d table : List Word), (Instr.launch w).wellFormed = true →
    s.me.isWarp = false → Clear3 s 0x30 0 w → s.active w.g w.gn = x :: ls → (s.pair x w.a.toNat).toNat % 64 = 0 →
    Reads s x (s.pair x w.a.toNat) 16 64 s1 d →
    (if Desc.regtab d ≠ 0 ∧ Desc.regtabOk d = true then Reads s1 x (BitVec.ofNat 64 (Desc.regtab d)) 60 16 s2 table
      else s2 = s1 ∧ table = []) →
    let p := s.me.part
    let ctx := s.me.ctx
    let pages := if Desc.ok d = true then pageStarts (Desc.done d) (Desc.doneBytes d) else []
    s2.me = s.me → (¬ WalksRun s2 p ctx pages → ∃ t, exec (.launch w) s = .next t ∧ t.rf = s2.rf
      ∧ t.me.threads = s.me.threads ∧ t.parked.isSome = true)
    ∧ (WalksRun s2 p ctx pages → s3 = s2.walked p ctx pages id →
    let code := s3.refusal p ctx d table
    let serial := nextSerial (s3.part p).serial
    (code ≠ 0 → ∃ t, exec (.launch w) s = .next t ∧ t.reg x w.d.toNat = 0
      ∧ t.reg x (w.d.toNat + 1) = BitVec.ofNat 32 code ∧ (t.part p).grids = (s3.part p).grids)
    ∧ (code = 0 → (s3.parts.find p).isSome = true →
      ∃ t g, exec (.launch w) s = .next t ∧ t.reg x w.d.toNat = BitVec.ofNat 32 serial
        ∧ t.reg x (w.d.toNat + 1) = BitVec.ofNat 32 ctx ∧ (t.part p).serial = serial
        ∧ (t.part p).grids.find (gridKey ctx serial) = some g ∧ g.desc = d ∧ g.table = table ∧ g.ctx = ctx
        ∧ g.argBlock = s.pair x w.b.toNat ∧ g.st = .waiting ∧ g.placed = 0 ∧ g.link = (s3.startRelease 4).2)))
  ∧ (∀ (w : W3) (s u : State) (x i : Nat) (ls : List Nat), (Instr.ldisp w).wellFormed = true →
    s.me.isWarp = false → Clear3 s 0x30 1 w → s.active w.g w.gn = x :: ls → (s.pair x w.a.toNat).toNat % 8 = 0 →
    let rows := min (s.reg x w.b.toNat).toNat 256
    RowsPassed s x (s.pair x w.a.toNat) i u →
    (i = rows → ∃ t, exec (.ldisp w) s = .next t ∧ t.reg x w.d.toNat = 0 ∧ t.reg x (w.d.toNat + 1) = 0)
    ∧ ∀ v r, i < rows → Reads u x (s.pair x w.a.toNat + BitVec.ofNat 64 (40 * i)) 10 8 v r → rowFits s.me r →
      ∃ t, exec (.ldisp w) s = .next t ∧ t.reg x w.d.toNat = r.getD 8 0 ∧ t.reg x (w.d.toNat + 1) = r.getD 9 0)
  ∧ (∀ (w : W3) (s : State) (x : Nat) (ls : List Nat), (Instr.lstat w).wellFormed = true → s.me.isWarp = false →
    Clear3 s 0x30 2 w → s.active w.g w.gn = x :: ls →
    let found := (s.part s.me.part).grids.find (s.pair x w.a.toNat).toNat
    ∃ t, exec (.lstat w) s = .next t ∧ Retires s t ∧ OnlyRows s t (rowsOf s [x] [w.d.toNat])
      ∧ (found = none → t.reg x w.d.toNat = 15)
      ∧ ∀ g, found = some g → t.reg x w.d.toNat = (if g.ctx ≠ s.me.ctx then 15 else match g.st with
          | .waiting => 8
          | .running => 9
          | .draining => 10
          | .ended => g.word))
  ∧ (∀ (w : W3) (s : State) (con : W3 → Instr), con ∈ [Instr.launch, .ldisp, .lstat] → s.me.isWarp = true →
    exec (con w) s = .next (s.takeFault fcIllegalUnit (s.group.headD 0) 0 0))

/-- 14 R381, R382: csrr gives the named register of the target to every active lane, and csrw writes the fields that
its level may write; below supervisor level a SYSTEM word is PRIVILEGE (01 R27; 02 R51). The model's choices it
rests on: notes/assumptions/20.md, notes/assumptions/21.md, notes/assumptions/52.md. -/
def Obligations.ControlRegisterWords : Prop :=
  (∀ (w : W3) (s : State) (x p th : Nat) (ls : List Nat), (Instr.csrr w).wellFormed = true → Supervises s →
    Clear3 s 0x38 0 w → s.active w.g w.gn = x :: ls → s.target w.a.toNat (s.reg x w.b.toNat).toNat = some (p, th) →
    Gives (.csrr w) s (s.active w.g w.gn) w.ty w.d (fun _ => ⟨
      if w.a.toNat = 0x07 then (s.part p).reg 0x07 ||| (if (s.part p).draining = [] then 0 else 0x100000)
      else if w.a.toNat ≤ 0x23 then (s.part p).reg w.a.toNat
      else match s.agent (8192 + th) with
        | none => 0
        | some a => match w.a.toNat with
          | 0x40 => a.xqctl
          | 0x41 => a.xqpc
          | 0x42 => a.xqarg
          | 0x43 => a.xtepc
          | 0x44 => a.xtaddr
          | _ => a.xtstat, 0, 0⟩) 0)
  ∧ (∀ (w : W3) (s : State) (x p th : Nat) (ls : List Nat), (Instr.csrw w).wellFormed = true → Supervises s →
    Clear3 s 0x38 1 w → s.active w.g w.gn = x :: ls → s.target w.a.toNat (s.reg x w.c.toNat).toNat = some (p, th) →
    let words := if w.ty = .n64 then 3 else 1
    (w.a.toNat ≤ 0x23 → w.a ≠ 0x07 → w.a ≠ 0x08 → (vendorSel w.a.toNat = true → s.me.level = .vendor) →
      ∃ t, exec (.csrw w) s = .next t ∧ KeepsData s t ∧ t.me.threads = s.retire.me.threads
        ∧ (t.part p).reg w.a.toNat = written w.a.toNat ((s.part p).reg w.a.toNat) words (s.opB w x)
        ∧ ∀ sel, sel ≠ w.a.toNat → (t.part p).reg sel = (s.part p).reg sel)
    ∧ (w.a = 0x41 → s.me.id ≠ 8192 + th → (∀ a, s.agent (8192 + th) = some a → a.id = 8192 + th) →
      ∃ t, exec (.csrw w) s = .next t ∧ t.me.threads = s.retire.me.threads ∧ ∀ a, s.agent (8192 + th) = some a →
        (t.agent (8192 + th)).map (·.xqpc) = some (
          let m : DWord := if w.ty = .n64 then 0x00FFFFFFFFFFFFF8 else 0xFFFFFFF8
          (a.xqpc &&& ~~~m) ||| (s.opB w x &&& m)))
    ∧ (w.a = 0x42 → s.me.id ≠ 8192 + th → w.ty = .n64 → (∀ a, s.agent (8192 + th) = some a → a.id = 8192 + th) →
      ∃ t, exec (.csrw w) s = .next t ∧ t.me.threads = s.retire.me.threads ∧ ∀ a, s.agent (8192 + th) = some a →
        (t.agent (8192 + th)).map (·.xqarg) = some (s.opB w x)))
  ∧ (∀ (w : W3) (s : State), vendorSel w.a.toNat = true → s.me.level ≠ .vendor →
    exec (.csrw w) s = .next (s.takeFault fcPrivilege (s.group.headD 0) 0 0))
  ∧ (∀ (w : W3) (s : State) (con : W3 → Instr), con ∈ [Instr.csrr, .csrw, .tlbinvRange, .tlbinvCtx, .tlbinvPart,
      .haltGrid, .haltCtx, .resumeGrid, .resumeCtx, .tret, .ctxsv, .ctxrs, .errclr, .errclrCo, .knell] →
    s.me.isWarp = true ∨ s.me.level = .user →
    exec (con w) s = .next (s.takeFault fcPrivilege (s.group.headD 0) 0 0))

/-- 14 R361: the fault of a user thread whose partition's XCTVEC is enabled enters the handler at supervisor level with
XTEPC, XTADDR and XTSTAT written; tret goes back to XTEPC at the level before and clears INTRAP. -/
def Obligations.ConductorTrapAndReturn : Prop :=
  (∀ (s : State) (n code lane detail : Nat) (addr : DWord), s.me.kind = .conductor n → s.me.level = .user →
    ((s.part s.me.part).reg 0x20).getLsbD 0 = true → s.me.xtstat.getLsbD 33 = false →
    (s.me.threads.length ≤ 1 ∨ ∀ th ∈ s.me.threads,
      meetAddr s.me.codeBase th.meet ≠ some ((s.part s.me.part).reg 0x20 &&& 0x00FFFFFFFFFFFFF8)) →
    let t := s.takeFault code lane detail addr
    t.me.level = .supervisor ∧ t.me.xtepc = s.issuePc ∧ t.me.xtaddr = addr
      ∧ t.me.xtstat = (trapInfo code lane detail false).setWidth 64 ||| 0x200000000
      ∧ t.me.trapinfo = trapInfo code lane detail false ∧ t.me.parks = []
      ∧ (∀ l < s.me.threads.length, pcOf t l = some ((s.part s.me.part).reg 0x20 &&& 0x00FFFFFFFFFFFFF8)
        ∧ stOf t l = some .runnable)
      ∧ KeepsData s t ∧ t.parts = s.parts)
  ∧ (∀ (s : State) (n code lane detail : Nat) (addr : DWord), s.me.kind = .conductor n → s.me.level = .supervisor →
    let t := s.takeFault code lane detail addr
    t.me.level = .supervisor ∧ t.me.trapinfo = trapInfo code lane detail false
      ∧ t.me.xqctl = s.me.xqctl &&& ~~~0x200 ∧ (∀ l < s.me.threads.length, stOf t l = some .exited) ∧ t.rf = s.rf)
  ∧ (∀ (w : W3) (s : State), (Instr.tret w).wellFormed = true → Supervises s → Clear3 s 0x38 5 w →
    s.active w.g w.gn ≠ [] → Straight s →
    (s.me.xtepc &&& 7 = 0 → ∃ t, exec (.tret w) s = .next t ∧ KeepsData s t
      ∧ t.me.level = (if s.me.xtstat.getLsbD 32 then .supervisor else .user)
      ∧ t.me.xtstat = s.me.xtstat &&& ~~~0x200000000 ∧ t.me.xtepc = s.me.xtepc
      ∧ ∀ l < s.me.threads.length, pcOf t l = some s.me.xtepc ∧ stOf t l = some .runnable)
    ∧ (s.me.xtepc &&& 7 ≠ 0 →
      exec (.tret w) s = .next (s.takeFault fcMisalignedTarget ((s.active w.g w.gn).headD 0) 0 s.me.xtepc)))

/-- 04 R115; 14 R364, R373, R383: tlbinv drops what it covers from the TLBs and the walk caches, waits for an operation of
its form and goes on once that is done; halt and resume give their status, mark the grid or context, and stop or free its
warps, and a halt waits while a stop is in progress. The model's choices it rests on:
notes/assumptions/46.md, notes/assumptions/52.md. -/
def Obligations.SupervisorWords : Prop :=
  (∀ (w : W3) (s : State) (x : Nat) (ls : List Nat) (con : W3 → Instr) (form ctx page count : Nat),
    (con, form, ctx, page, count) ∈ [
      (Instr.tlbinvRange, 0, (s.reg x w.c.toNat).toNat % 64, (s.pair x w.a.toNat).toNat / 65536, (s.reg x w.b.toNat).toNat),
      (.tlbinvCtx, 1, (s.reg x w.c.toNat).toNat % 64, 0, 0), (.tlbinvPart, 2, 0, 0, 0), (.tlbinvAll, 3, 0, 0, 0)] →
    (con w).wellFormed = true → Supervises s → (form = 3 → s.me.level = .vendor) → Clear3 s 0x38 2 w →
    s.active w.g w.gn = x :: ls →
    (s.parked = none →
      let op := PkgOp.tlbinv s.me.part form ctx page count (s.coveredFrames (.tlbinv s.me.part form ctx page count []))
      ∃ t, exec (con w) s = .next t ∧ Waits s t ∧ t.ops.find s.nextId = some op
        ∧ (∀ e ∈ t.tlb, op.coversEntry e.2 = false) ∧ ∀ e ∈ t.walkCache, op.drops e.2 = false)
    ∧ ((s.parked.any (·.done)) = true → exec (con w) s = .next s.retire))
  ∧ (∀ (w : W3) (s : State), s.me.level ≠ .vendor →
    exec (.tlbinvAll w) s = .next (s.takeFault fcPrivilege (s.group.headD 0) 0 0))
  ∧ (∀ (w : W3) (s : State) (x : Nat) (ls : List Nat), (Instr.haltGrid w).wellFormed = true → Supervises s →
    Clear3 s 0x38 3 w → s.active w.g w.gn = x :: ls → s.parked = none →
    ((s.part s.me.part).stop ≠ none → ∃ t, exec (.haltGrid w) s = .next t ∧ Waits s t)
    ∧ ((s.part s.me.part).stop = none →
    let k := (s.pair x w.a.toNat).toNat
    ((s.part s.me.part).grids.find k = none →
      Gives (.haltGrid w) s (s.active w.g w.gn) .n32 w.d (fun _ => ⟨1, 0, 0⟩) 0)
    ∧ ∀ g, (s.part s.me.part).grids.find k = some g → g.live = true →
      (g.halted = .halt → Gives (.haltGrid w) s (s.active w.g w.gn) .n32 w.d (fun _ => ⟨2, 0, 0⟩) 0)
      ∧ (g.halted ≠ .halt → ∃ t, exec (.haltGrid w) s = .next t
        ∧ ((t.part s.me.part).grids.find k).map (·.halted) = some .halt
        ∧ ∀ id a, s.regReqs = [] → id ≠ s.me.id → s.others.find id = some a → a.id = id → a.isWarp = true →
          a.part = s.me.part → a.grid = k → a.halted ≠ .knell → (t.others.find id).map (·.halted) = some .halt)))
  ∧ (∀ (w : W3) (s : State) (x : Nat) (ls : List Nat), (Instr.resumeGrid w).wellFormed = true → Supervises s →
    Clear3 s 0x38 4 w → s.active w.g w.gn = x :: ls →
    let k := (s.pair x w.a.toNat).toNat
    ((s.part s.me.part).grids.find k = none →
      Gives (.resumeGrid w) s (s.active w.g w.gn) .n32 w.d (fun _ => ⟨1, 0, 0⟩) 0)
    ∧ ∀ g, (s.part s.me.part).grids.find k = some g → g.live = true →
      (g.halted ≠ .halt → Gives (.resumeGrid w) s (s.active w.g w.gn) .n32 w.d (fun _ => ⟨2, 0, 0⟩) 0)
      ∧ (g.halted = .halt → ∃ t, exec (.resumeGrid w) s = .next t
        ∧ (∀ l ∈ s.active w.g w.gn, t.reg l w.d.toNat = 0)
        ∧ ((t.part s.me.part).grids.find k).map (·.halted) = some .none
        ∧ ∀ id a, (s.part s.me.part).knell = none → s.others.find id = some a → a.isWarp = true → a.part = s.me.part →
          a.grid = k → a.halted ≠ .stop → a.halted ≠ .knell → (t.others.find id).map (·.halted) = some .none))
  ∧ (∀ (w : W3) (s : State) (x : Nat) (ls : List Nat), (Instr.haltCtx w).wellFormed = true → Supervises s →
    Clear3 s 0x38 3 w → s.active w.g w.gn = x :: ls → s.parked = none →
    ((s.part s.me.part).stop ≠ none → ∃ t, exec (.haltCtx w) s = .next t ∧ Waits s t)
    ∧ ((s.part s.me.part).stop = none →
    let c := (s.reg x w.b.toNat).toNat % 64
    ((s.part s.me.part).contexts.find c = none →
      Gives (.haltCtx w) s (s.active w.g w.gn) .n32 w.d (fun _ => ⟨1, 0, 0⟩) 0)
    ∧ ∀ y, (s.part s.me.part).contexts.find c = some y →
      (y.halted = true → Gives (.haltCtx w) s (s.active w.g w.gn) .n32 w.d (fun _ => ⟨2, 0, 0⟩) 0)
      ∧ (y.halted = false → ∃ t, exec (.haltCtx w) s = .next t ∧ (t.context s.me.part c).halted = true)))
  ∧ (∀ (w : W3) (s : State) (x : Nat) (ls : List Nat), (Instr.resumeCtx w).wellFormed = true → Supervises s →
    Clear3 s 0x38 4 w → s.active w.g w.gn = x :: ls →
    let c := (s.reg x w.b.toNat).toNat % 64
    ((s.part s.me.part).contexts.find c = none →
      Gives (.resumeCtx w) s (s.active w.g w.gn) .n32 w.d (fun _ => ⟨1, 0, 0⟩) 0)
    ∧ ∀ y, (s.part s.me.part).contexts.find c = some y → y.halted = true →
      ∃ t, exec (.resumeCtx w) s = .next t ∧ (∀ l ∈ s.active w.g w.gn, t.reg l w.d.toNat = 0)
        ∧ (t.context s.me.part c).halted = false)

/-- 14 R366, R367, R384: ctxsv writes the image of a halted context and frees the context, or gives why it does not, and
waits while the walks of its pages cannot run (04 R112); ctxrs restores a context, halted, from an image, of which it reads
the header first and the rest where that is well formed; errclr turns poisoned words into zeros; knell posts a deadline.
The model's choices it rests on: notes/assumptions/17.md, notes/assumptions/49.md, notes/assumptions/50.md. -/
def Obligations.ImageAndKnellWords : Prop :=
  (∀ (w : W3) (s : State) (x : Nat) (ls : List Nat), (Instr.ctxsv w).wellFormed = true → Supervises s →
    Clear3 s 0x38 6 w → s.active w.g w.gn = x :: ls →
    let p := s.me.part
    let c := (s.reg x w.b.toNat).toNat % 64
    let a := (s.pair x w.a.toNat).toNat
    (c = s.me.ctx → ∃ t, exec (.ctxsv w) s = .next t ∧ (∀ l ∈ s.active w.g w.gn, t.reg l w.d.toNat = 1)
      ∧ t.images = s.images)
    ∧ (c ≠ s.me.ctx → s.contextLive p c = false → ∃ t, exec (.ctxsv w) s = .next t
      ∧ (∀ l ∈ s.active w.g w.gn, t.reg l w.d.toNat = 3) ∧ t.images = s.images)
    ∧ (c ≠ s.me.ctx → s.contextLive p c = true → (s.context p c).halted = true → s.quiet p c = true →
      ((s.reg x w.c.toNat).toNat < s.imageKib → ∃ t, exec (.ctxsv w) s = .next t
        ∧ (∀ l ∈ s.active w.g w.gn, t.reg l w.d.toNat = 2
          ∧ t.reg l (w.d.toNat + 1) = BitVec.ofNat 32 s.imageKib) ∧ t.images = s.images)
      ∧ (s.imageKib ≤ (s.reg x w.c.toNat).toNat → a % 65536 = 0 →
        let pages := if a < 2 ^ 62 then pageStarts a (1024 * s.imageKib) else []
        let u := s.walked p s.me.ctx pages id
        (¬ WalksRun s p s.me.ctx pages → ∃ t, exec (.ctxsv w) s = .next t ∧ Waits s t ∧ t.images = s.images)
        ∧ (WalksRun s p s.me.ctx pages → u.me = s.me →
        u.rangeFault p s.me.ctx a (1024 * s.imageKib) { wr := true } = none →
        u.rangeBlock p s.me.ctx a (1024 * s.imageKib) = none →
        ∃ t img, exec (.ctxsv w) s = .next t ∧ (∀ l ∈ s.active w.g w.gn, t.reg l w.d.toNat = 0)
          ∧ t.images = img :: s.images ∧ img.part = p ∧ img.ctx = c ∧ (t.part p).contexts.find c = none
          ∧ ∀ k g, (t.part p).grids.find k = some g → g.ctx ≠ c))))
  ∧ (∀ (w : W3) (s : State) (x : Nat) (ls : List Nat), (Instr.ctxrs w).wellFormed = true → Supervises s →
    Clear3 s 0x38 7 w → s.active w.g w.gn = x :: ls →
    let p := s.me.part
    let c := (s.reg x w.b.toNat).toNat % 64
    let a := (s.pair x w.a.toNat).toNat
    (s.contextLive p c = true → Gives (.ctxrs w) s (s.active w.g w.gn) .n32 w.d (fun _ => ⟨1, 0, 0⟩) 0)
    ∧ ∀ h r u v, s.contextLive p c = false → a % 65536 = 0 → ReadsRange s a 16 u h →
      (if headerOk h = true then ReadsRange u a (256 * (h.getD 1 0).toNat) v r else v = u ∧ r = h) →
      v.me = s.me → v.images = s.images →
      (∀ k, v.checkImage p c r = .error k → ∃ t, exec (.ctxrs w) s = .next t
        ∧ (∀ l ∈ s.active w.g w.gn, t.reg l w.d.toNat = BitVec.ofNat 32 k) ∧ t.images = s.images)
      ∧ ∀ img, v.checkImage p c r = .ok img → (v.parts.find p).isSome = true →
        ∃ t, exec (.ctxrs w) s = .next t ∧ (t.part p).contexts.find c ≠ none ∧ (t.context p c).halted = true)
  ∧ (∀ (w : W3) (s : State) (x : Nat) (ls ks : List Nat) (con : W3 → Instr) (co : Bool),
    (con, co) ∈ [(Instr.errclr, false), (.errclrCo, true)] → (con w).wellFormed = true → Supervises s →
    Clear3 s 0x38 8 w → s.active w.g w.gn = x :: ls → s.pair x w.a.toNat &&& 3 = 0 →
    s.clearKeys co (s.pair x w.a.toNat).toNat (min (s.reg x w.b.toNat).toNat (2 ^ 20)) = .ok ks →
    ∃ t, exec (con w) s = .next t
      ∧ (∀ l ∈ s.active w.g w.gn, t.reg l w.d.toNat = BitVec.ofNat 32 (ks.filter (fun k => s.regOf k == .p)).length)
      ∧ (∀ k ∈ ks, s.regOf k = .p → t.regOf k = .u ∧ t.memWord k = 0)
      ∧ ∀ k, k ∉ ks ∨ s.regOf k ≠ .p → t.regOf k = s.regOf k ∧ t.memWord k = s.memWord k)
  ∧ (∀ (w : W3) (s : State) (x p : Nat) (ls : List Nat) (g : Nat × Grid), (Instr.knell w).wellFormed = true →
    Supervises s → Clear3 s 0x38 9 w → s.active w.g w.gn = x :: ls → s.me.level = .supervisor → p = s.me.part →
    let d := (s.pair x w.a.toNat).toNat
    (s.reg x w.b.toNat ≠ 0 → Gives (.knell w) s (s.active w.g w.gn) .n32 w.d (fun _ => ⟨3, 0, 0⟩) 0)
    ∧ (s.reg x w.b.toNat = 0 → (s.part p).knell.isSome = true → ((s.part p).reg 0x1E).toNat ≤ d →
      Gives (.knell w) s (s.active w.g w.gn) .n32 w.d (fun _ => ⟨1, 0, 0⟩) 0)
    ∧ (s.reg x w.b.toNat = 0 → (s.part p).knell = none → s.tick < d → (s.part p).grids = [g] → g.2.live = true →
      Desc.disc g.2.d = true →
      ∃ t, exec (.knell w) s = .next t ∧ (∀ l ∈ s.active w.g w.gn, t.reg l w.d.toNat = 0)
        ∧ ((t.part p).reg 0x1E).toNat = d
        ∧ (t.part p).knell.map (fun k => (k.grids, k.begun)) = some ([g.1], (s.part p).stop.isNone)))

/-! ### The hardware's own steps -/

/-- 04 R114; 05 R130 to R132, R135, R139; 06 R149, R162; 07 R176, R182; 09 R231: a store drains into its owner's copy,
through an L1 in two stages, or into its scratchpad, and one of a part of a word that its owner does not hold takes its place
at the bank, whose other bytes it keeps; an owner's request registers its word, a read at the bank obtains the
word, a write at the bank leaves it U with its value, the four pieces of an aligned 16-byte store of package or system
scope in one step, all or none, a forward's reply brings the owner's data back, and returned data fill the pending
registers. Memory stands where the cache that takes the word need give up no line. The model's choices it rests on:
notes/assumptions/11.md, notes/assumptions/13.md, notes/assumptions/15.md, notes/assumptions/16.md,
notes/assumptions/51.md, notes/assumptions/76.md. -/
def Obligations.MemorySteps : Prop :=
  (∀ (s : State) (req : Nat) (a : Access) (p : Piece), s.pieceOf req = some (a, p) →
    a.kind = .store ∨ a.kind = .stnt ∨ a.kind = .strel ∨ a.kind = .chime → p.poison = false → s.mayWrite req a p = true →
    (a.path p = .section_ ∨ (a.path p = .l1 ∧ p.inL1 = true) → p.mask = 15 → ∃ t, exec (.storeDrain req) s = .next t
      ∧ t.copyOf a.owner p.key = some p.val ∧ (t.pieceOf req).all (·.2.done) = true ∧ t.rf = s.rf
      ∧ (s.notFull a.owner (lineOf p.key) = true → t.mem = s.mem))
    ∧ (a.path p = .l1 → p.inL1 = false → ∃ t b q, exec (.storeDrain req) s = .next t
      ∧ t.pieceOf req = some (b, q) ∧ q.inL1 = true ∧ q.done = false ∧ q.val = p.val ∧ t.copies = s.copies
      ∧ (∀ c old, a.l1 = some c → s.cleanOf c p.key = some old → s.cacheLines c ≠ some 0 →
        (t.cleanOf c p.key).map (·.val) = some (mergeBytes p.mask old.val p.val)) ∧ t.mem = s.mem ∧ t.rf = s.rf)
    ∧ (a.path p = .section_ ∨ (a.path p = .l1 ∧ p.inL1 = true) → p.mask ≠ 15 →
      (∀ old, s.holdsWord a.owner p.key = true → s.copyOf a.owner p.key = some old →
        ∃ t, exec (.storeDrain req) s = .next t ∧ t.copyOf a.owner p.key = some (mergeBytes p.mask old p.val)
          ∧ (t.pieceOf req).all (·.2.done) = true ∧ t.rf = s.rf
          ∧ (s.notFull a.owner (lineOf p.key) = true → t.mem = s.mem))
      ∧ (s.holdsWord a.owner p.key = false → exec (.storeDrain req) s = .next s
        ∧ (s.lineHeld p.key = false → s.l1Waits a p = false → s.sending a.owner = false → 4 * p.key < hostCopyBase →
          s.regOf p.key = .u → (s.openLines.get [] a.owner).length < 4096 →
          ∃ t, exec (.bankRead req) s = .next t ∧ t.regOf p.key = .o ∧ t.ownerOf p.key = a.owner
            ∧ t.copyOf a.owner p.key = some (mergeBytes p.mask (s.memWord p.key) p.val)
            ∧ (t.pieceOf req).all (·.2.done) = true ∧ t.rf = s.rf)))
    ∧ (a.path p = .scratch → p.mask = 15 ∨ s.scratchBad p.key 15 = false → ∃ t, exec (.storeDrain req) s = .next t
      ∧ t.scratchWord p.key = mergeBytes p.mask (s.scratchWord p.key) p.val
      ∧ (∀ k, k ≠ p.key → t.scratchWord k = s.scratchWord k) ∧ (t.pieceOf req).all (·.2.done) = true ∧ t.mem = s.mem))
  ∧ (∀ (s : State) (req : Nat) (r : RegReq), s.regReqs.find req = some r → s.lineHeld r.word = false →
    (s.regReqs.pick (fun k q => decide (k < req) && q.owner == r.owner)).isEmpty = true →
    s.raceWith r.word r.owner = none ∨ r.racemode = 0 → (s.openLines.get [] r.owner).length < 4096 →
    ∃ t, exec (.registrationRequest req) s = .next t ∧ t.regReqs.find req = none ∧ t.regOf r.word = .o
      ∧ t.ownerOf r.word = r.owner ∧ t.rf = s.rf)
  ∧ (∀ (s : State) (req : Nat) (a : Access) (p : Piece), s.pieceOf req = some (a, p) →
    a.kind = .load ∨ a.kind = .ldacq ∨ a.kind = .ldnt → a.detached = false → s.needsRead a p = true →
    s.lineHeld p.key = false → 4 * p.key < hostCopyBase → s.regOf p.key = .u → s.l1Waits a p = false →
    s.servedSince a p = none →
    ∃ t, exec (.bankRead req) s = .next t ∧ (t.pieceOf req).map (·.2.got) = some (some (s.l1Over a p (s.memWord p.key)))
      ∧ (t.pieceOf req).map (·.2.done) = some true
      ∧ (s.notFull a.innerCache (lineOf p.key) = true → t.mem = s.mem))
  ∧ (∀ (s : State) (req : Nat) (a : Access) (p : Piece), s.pieceOf req = some (a, p) →
    a.kind = .store ∨ a.kind = .stnt ∨ a.kind = .strel ∨ a.kind = .chime → a.path p = .bank → p.poison = false →
    (a.quad p = false → exec (.bankAccess req) s = .next (s.bankPiece req))
    ∧ (a.quad p = true →
      let js := (List.range a.pieces.length).filter (fun j => (a.pieces.getD j p).lane == p.lane)
      let ready (j : Nat) : Prop := ∀ q, a.pieces[j]? = some q →
        q.done = true ∨ s.bankReady (req - req % 65536 + j) a q = true
      ((∀ j ∈ js, ready j) →
        exec (.bankAccess req) s = .next (js.foldl (fun t j => t.bankPiece (req - req % 65536 + j)) s))
      ∧ ((∃ j ∈ js, ¬ ready j) → exec (.bankAccess req) s = .next s))
    ∧ (s.mayWrite req a p = true → s.lineHeld p.key = false → s.registering a.owner p.key = false → a.wide = false →
      4 * p.key < hostCopyBase → s.regOf p.key = .u ∨ (s.regOf p.key = .p ∧ p.mask = 15) →
      let t := s.bankPiece req
      t.regOf p.key = .u ∧ t.memWord p.key = mergeBytes p.mask (s.memWord p.key) p.val
        ∧ (t.pieceOf req).all (·.2.done) = true ∧ ∀ k, k ≠ p.key → t.memWord k = s.memWord k))
  ∧ (∀ (s : State) (line : Nat) (f : Forward), s.forwards.find line = some f →
    let v := if s.forwarded f then s.current f.word else f.val
    ∃ t, exec (.forwardReply line) s = .next t ∧ t.forwards.find line = none ∧ t.rf = s.rf
      ∧ (∀ a p, s.pieceOf f.req = some (a, p) → p.key = f.word → p.done = false → a.kind.reads = true → a.detached = false →
        (t.pieceOf f.req).map (fun x => (x.2.got, x.2.done)) = some (some (s.l1Over a p v), true))
      ∧ (s.forwarded f = true → (∀ a p, s.pieceOf f.req = some (a, p) →
          a.kind.reads = true ∨ a.kind.isAtomic = true ∨ p.key ≠ f.word ∨ p.done = true) →
        t.regOf f.word = .u ∧ t.memWord f.word = v)
      ∧ (s.forwarded f = false → t.regOf f.word = s.regOf f.word ∧ t.memWord f.word = s.memWord f.word)
      ∧ (∀ a p, s.forwarded f = true → s.pieceOf f.req = some (a, p) → p.key = f.word → p.done = false →
        a.kind.reads = false → a.kind.isAtomic = false → (s.openLines.get [] a.owner).length < 4096 →
        t.regOf f.word = .o ∧ t.ownerOf f.word = a.owner
          ∧ t.copyOf a.owner f.word = some (mergeBytes p.mask v p.val)))
  ∧ (∀ (s : State) (id : Nat) (a : Access), s.accesses.find id = some a → a.agent = s.me.id →
    a.kind = .load ∨ a.kind = .ldnt → (∀ p ∈ a.pieces, p.done = true ∧ p.poison = false ∧ p.bad = none) →
    a.detached = false → a.holds = false → (a.pieces.filterMap (·.row)).Nodup →
    ∃ t, exec (.loadDataReturn id) s = .next t ∧ t.accesses.find id = none
      ∧ (∀ p ∈ a.pieces, ∀ r v, p.row = some r → p.got = some v → t.rf.get 0 r = p.bytes v)
      ∧ (∀ r, r ∉ a.pieces.filterMap (·.row) → t.rf.get 0 r = s.rf.get 0 r)
      ∧ (∀ q ∈ t.me.pend, q.req ≠ id) ∧ t.me.threads = s.me.threads ∧ t.mem = s.mem)

/-- 05 R136, R137; 06 R152: a release at package scope takes its owner's open-line list and pushes its next line, whose
open words become R; its last acknowledgement ends it and what waits on it goes on; a section cache that replaces a line
writes its O words back and leaves them OL, no longer held, and not before a line of its set that an stnt has marked;
a release of system scope waits for the acknowledgements of the host port and of the fabric ports too (01 R23). The model's choices it rests on: notes/assumptions/11.md. -/
def Obligations.ReleaseSteps : Prop :=
  (∀ (s : State) (id l : Nat) (ls : List Nat) (r : Release), s.releases.find id = some r → 3 ≤ r.scope →
    r.taken = true ∨ (r.waits = [] ∧ s.regReqs.anyV (fun q => q.owner == r.owner) = false) →
    (if r.taken then r.pushes else s.openLines.get [] r.owner) = l :: ls → s.forwards.find l = none →
    ∃ t, exec (.releasePush id) s = .next t
      ∧ t.releases.find id = some { r with
        taken := true, pushes := ls, acks := r.acks + (if r.taken then 0 else s.portAcks r) + 1 }
      ∧ (∀ w ∈ s.openWords l r.owner, t.regOf w = .r) ∧ (r.taken = false → t.openLines.get [] r.owner = [])
      ∧ t.mem = s.mem ∧ t.rf = s.rf)
  ∧ (∀ (s : State) (id : Nat) (r : Release), s.releases.find id = some r → 3 ≤ r.scope → r.taken = false → r.waits = [] →
    s.regReqs.anyV (fun q => q.owner == r.owner) = false → s.openLines.get [] r.owner = [] → r.acks + s.portAcks r ≠ 0 →
    ∃ t, exec (.releasePush id) s = .next t
      ∧ t.releases.find id = some { r with taken := true, pushes := [], acks := r.acks + s.portAcks r } ∧ t.mem = s.mem)
  ∧ (∀ (s : State) (r : Release), s.portAcks r = if r.scope = 5 then
    1 + (List.range 256).countP (fun i => (s.part r.part).fport.testBit i) else 0)
  ∧ (∀ (s : State) (id : Nat) (r : Release), s.releases.find id = some r →
    (2 ≤ r.acks → ∃ t, exec (.pushAcknowledge id) s = .next t
      ∧ t.releases.find id = some { r with acks := r.acks - 1 } ∧ t.mem = s.mem)
    ∧ (r.acks = 1 → r.taken = true → r.pushes = [] →
      (if r.scope = 3 then s.earlierUnsent id r.owner = false
        else (s.releases.pick (fun k q => decide (k < id) && q.owner == r.owner && decide (3 ≤ q.scope))).isEmpty = true) →
      ∃ t, exec (.pushAcknowledge id) s = .next t ∧ t.releases.find id = none ∧ t.mem = s.mem
        ∧ t.me.parks.map (·.pc) = s.me.parks.map (·.pc)
        ∧ ∀ k ∈ s.me.parks, k.wait = .release id → { k with done := true } ∈ t.me.parks))
  ∧ (∀ (s : State) (sec line : Nat), sec < 32 → s.forwards.find line = none → s.notFirst sec line = false →
    ∃ t, exec (.sectionCacheWriteBack sec line) s = .next t
      ∧ (∀ w ∈ s.wordsOf line sec, s.regOf w = .o → s.registering sec w = false → t.regOf w = .ol ∧ t.memWord w = s.current w
        ∧ t.held.get false (copyKey sec w) = false)
      ∧ (∀ w, w ∉ s.wordsOf line sec → t.regOf w = s.regOf w ∧ t.memWord w = s.memWord w))

/-- 04 R110, R111, R115, R116, R118, R119: a walk gives its requester the translation or its fault, once it is among those that its partition's walkers run
(04 R112) and no forward holds a line that it reads (05 R131); tlbinv leaves no
translation it covers; a counted access raises the count in its leaf by one, to 4,095 at most; a word blocked for 16,384
clk, at its clock as it is then (00 R4), executes again. The model's choices it rests on: notes/assumptions/9.md,
notes/assumptions/12.md, notes/assumptions/17.md,
notes/assumptions/34.md. -/
def Obligations.TranslationSteps : Prop :=
  (∀ (s : State) (n : Nat) (w : Walk), s.walks.find n = some w → w.agents = [s.me.id] →
    (s.walking w.part).contains n = true → (s.part w.part).holds (.walker w.part ((s.walking w.part).idxOf n)) = false →
    s.walkStuck w = false →
    (∀ leaf, w.found = some (.leaf leaf) ∨ (w.found = none
        ∧ ∃ log, s.walkPage w.part w.ctx (w.page * 65536) = .ok (leaf, log)) →
      ∃ t, exec (.pageWalk n) s = .next t ∧ t.walks.find n = none
        ∧ t.tlb.find (tlbKey (if s.me.isWarp then l2Tlb s.me.slice else l1Tlb s.me.core) w.part w.ctx
            (spanPage leaf.span w.page)) = some ⟨w.part, w.ctx, spanPage leaf.span w.page, leaf⟩
        ∧ ∀ k ∈ s.me.parks, k.wait = .walk n → { k with done := true } ∈ t.me.parks)
    ∧ (∀ code detail, w.found = some (.fault code detail) ∨ (w.found = none
        ∧ ∃ log, s.walkPage w.part w.ctx (w.page * 65536) = .error ⟨⟨code, detail⟩, log⟩) →
      ∃ t, exec (.pageWalk n) s = .next t ∧ t.walks.find n = none ∧ t.tlb = s.tlb
        ∧ ⟨w.page, code, detail⟩ ∈ t.me.xfaults)
    ∧ ∀ m, s.walks.find m ≠ none → (s.walking w.part).contains m = false → (∀ v, s.walks.find m = some v → v.part = w.part) →
      exec (.pageWalk m) s = .next s)
  ∧ (∀ (s : State) (n : Nat) (o : PkgOp), s.ops.find n = some o → s.coveredBusy n o = false →
    ∃ t, exec (.tlbinvCompletion n) s = .next t ∧ t.ops.find n = none
      ∧ (∀ k e, t.tlb.find k = some e → o.coversEntry e = false)
      ∧ ∀ k ∈ s.me.parks, k.wait = .op n → { k with done := true } ∈ t.me.parks)
  ∧ (∀ (s : State) (c : CountInc) (cs : List CountInc), s.counts = c :: cs →
    s.lineHeld (c.entry / 4 + 2) = false → s.regOf (c.entry / 4 + 2) ≠ .p → s.preg c.part 0x05 % 4096 = 0 →
    let v := s.current (c.entry / 4 + 2)
    let n := min 4095 ((v.extractLsb' 12 12).toNat + 1)
    ∃ t, exec .accessCounterIncrement s = .next t ∧ t.counts = cs
      ∧ t.current (c.entry / 4 + 2) = (v &&& 0xFF000FFF) ||| (BitVec.ofNat 32 n <<< 12))
  ∧ (∀ (s : State) (id : Nat),
    exec (.writeBlockRetry id) s = .next (s.updAgent id (fun a => { a with parks := a.parks.map (fun k =>
      match k.wait with
        | .writeBlock _ => if k.since + s.clkTicks (dieOf (Agent.core { kind := kindOf id })) 16384 ≤ s.tick then
            { k with done := true } else k
        | _ => k) })))

/-- 07 R196, R197; 08 R221; 09 R239: a watched wait is tried again once its watch has fired or 65,536 ticks have
passed, a polled one after 1,024 and one with a limit at its limit; an answered call's reply is held; a fuse that has
waited 1,024 clk gives 1. The model's choices it rests on: notes/assumptions/56.md. -/
def Obligations.WaitSteps : Prop :=
  (∀ (s : State) (id : Nat),
    exec (.watchFire id) s = .next (s.updAgent id (fun a => { a with parks := a.parks.map (fun k =>
      match k.wait with
        | .word _ true => if k.fired = true ∨ k.since + 65536 ≤ s.tick then { k with done := true } else k
        | _ => k) }))
    ∧ exec (.waitmPoll id) s = .next (s.updAgent id (fun a => { a with parks := a.parks.map (fun k =>
      match k.wait with
        | .word _ false => if k.since + 1024 ≤ s.tick then { k with done := true } else k
        | _ => k) }))
    ∧ exec (.waitmLimitExpiry id) s = .next (s.updAgent id (fun a => { a with parks := a.parks.map (fun k =>
      match k.wait with
        | .word _ _ => if k.limit ≠ 0 ∧ k.t0 + k.limit ≤ s.tick then { k with done := true } else k
        | _ => k) })))
  ∧ (∀ (s : State) (k : Call), s.me.calls = [k] → k.reply = none → k.cancelled = false →
    (s.getGpa s.me.part (k.record + 32) 1).headD 0 = k.seq →
    (∀ d x, s.gpa s.me.part (k.record + 320 + 4 * k.pos) = .ok (d, x) → s.lineHeld (d / 4) = false) →
    ∃ t, exec (.callReplyFetch s.me.id) s = .next t ∧ t.rf = s.rf
      ∧ t.me.calls = [{ k with reply := some ((s.getGpa s.me.part (k.record + 320 + 4 * k.pos) 1).headD 0) }])
  ∧ (∀ (s : State) (p : Park) (d : Nat), s.me.parks = [p] → p.wait = .fuse d → p.done = false → s.me.halted = .none →
    p.t0 + s.clkTicks (dieOf s.me.core) 1024 ≤ s.tick → d < 256 →
    ∃ t, exec (.fuseWaitExpiry s.me.id) s = .next t ∧ t.me.parks = []
      ∧ (∀ l ∈ s.me.groupAt p.pc, t.reg l d = 1)
      ∧ OnlyRows s t (rowsOf s (s.me.groupAt p.pc) [d]))

/-- 05 R126, R144 to R146; 14 R362, R374: a fill whose code fails poisons the 32 words of its line (the poison map's
records of them lying outside it, or being dropped), and one that does not changes no data of the package; a drained way unit leaves its O words OL, or written back with their line, and every word's
data, and waits for the forwards of its lines; a correctable error is counted; an uncorrectable error poisons or stops what
it strikes, in memory every word of the line that no owner holds; a host read that never completes returns poison, to an
access, a copy engine, a weight loader or a line of the last-level cache. The model's
choices it rests on: notes/assumptions/47.md, notes/assumptions/51.md, notes/assumptions/62.md,
notes/assumptions/63.md, notes/assumptions/65.md. -/
def Obligations.ErrorSteps : Prop :=
  (∀ (s : State) (l p : Nat), s.partOfLine l = some p → (s.lines.get {} l).words.anyV (fun b => b.st != .p) = false →
    (128 * l < hostCopyBase → ∃ t, exec (.llcFill l false) s = .next t
      ∧ (∀ w, 4 * w < hostBase → t.current w = s.current w) ∧ t.rf = s.rf)
    ∧ (∀ u, exec (.llcFill l false) s = .next u → RecordsOutside u p l 0 →
      ∃ t, exec (.llcFill l true) s = .next t ∧ (∀ i < 32, t.regOf (32 * l + i) = .p) ∧ t.rf = s.rf))
  ∧ (∀ (s : State) (p unit : Nat), unit ∈ (s.part p).draining →
    ((∀ l ∈ s.unitLines p unit, s.forwards.find l = none) →
      ∃ t, exec (.wayUnitDrain p unit) s = .next t ∧ (t.part p).draining = (s.part p).draining.filter (· != unit)
        ∧ (∀ w, 4 * w < hostBase → t.current w = s.current w)
        ∧ (∀ l i, l ∈ s.unitLines p unit → l < 2 ^ 66 → i < 32 → s.regOf (32 * l + i) = .o →
          t.regOf (32 * l + i) = .ol ∨ t.regOf (32 * l + i) = .u) ∧ t.rf = s.rf)
    ∧ ((∃ l ∈ s.unitLines p unit, s.forwards.find l ≠ none) → exec (.wayUnitDrain p unit) s = .next s))
  ∧ (∀ (s : State) (p kind : Nat), (s.parts.find p).isSome = true → kind < 8 →
    ∃ t, exec (.correctableError p kind) s = .next t
      ∧ t.preg p (0x1C0 + 4 * kind) = min (2 ^ 32 - 1) (s.preg p (0x1C0 + 4 * kind) + 1)
      ∧ (∀ r, r ≠ 0x1C0 + 4 * kind → t.preg p r = s.preg p r) ∧ t.mem = s.mem ∧ t.rf = s.rf)
  ∧ (∀ (s : State) (p : Nat) (q : Part), s.parts.find p = some q →
    (∀ w, s.partWord p w = true → s.regOf w = .u →
      ((∀ n < 32, RecordOutside ((struckTo s p (w / 32) n).poisonWord (32 * (w / 32) + n)) p (w / 32)) →
        ∃ t, exec (.uncorrectableError p (.memory w)) s = .next t
          ∧ ∀ i < 32, s.regOf (32 * (w / 32) + i) = .u → t.regOf (32 * (w / 32) + i) = .p)
      ∧ (RecordOutside (s.poisonWord w) p (w / 32) →
        ∃ t, exec (.uncorrectableError p (.llc w)) s = .next t ∧ t.regOf w = .p))
    ∧ (∀ sl w, s.partWord p w = true → s.ownerOf w = sl → s.regOf w = .o →
      RecordOutside ((s.poisonWord w).dropClean (sectionCache sl) w) p (w / 32) →
      ∃ t, exec (.uncorrectableError p (.sectionWord sl w)) s = .next t ∧ t.regOf w = .p)
    ∧ (∀ c k a, s.clusters.find c = some k →
      ∃ t, exec (.uncorrectableError p (.scratch c a)) s = .next t ∧ t.scratchPoison.get false (scratchKey c a) = true
        ∧ t.scratch = s.scratch)
    ∧ (∀ core w, ∃ t, exec (.uncorrectableError p (.l1 core w)) s = .next t
      ∧ (∀ x, x / 32 = w / 32 → t.cleanOf (l1Cache core) x = none) ∧ t.mem = s.mem)
    ∧ (∀ row, ∃ t, exec (.uncorrectableError p (.register row)) s = .next t ∧ t.rfPoison.get false row = true
      ∧ (∀ r, r ≠ row → t.rfPoison.get false r = s.rfPoison.get false r) ∧ t.rf = s.rf)
    ∧ (∀ core bank tile row col, ∃ t, exec (.uncorrectableError p (.accumulator core bank tile row col)) s = .next t
      ∧ ((t.coreOf core).acc.get {} (accKey bank tile row col)).poison = true)
    ∧ (∀ core half unit, ∃ t, exec (.uncorrectableError p (.weight core half unit)) s = .next t
      ∧ ∀ u, u / 1024 = half → u % 1024 ≤ unit → unit < u % 1024 + 33 → (t.coreOf core).panels.find u = none)
    ∧ (∀ sl, s.partOf sl = some p → ∃ t, exec (.uncorrectableError p (.sliceControl sl)) s = .next t
      ∧ sl ∈ (t.part p).deadSlices)
    ∧ (∀ e, ∃ t, exec (.uncorrectableError p (.copyEngine e)) s = .next t ∧ t.engineDead.get false e = true)
    ∧ (∀ w k, s.walks.find w = some k → ∃ t, exec (.uncorrectableError p (.walker w)) s = .next t
      ∧ t.walks.find w = none)
    ∧ (∀ l, ∃ t, exec (.uncorrectableError p (.link l)) s = .next t
      ∧ l ∈ t.platform.retraining ∧ t.preg p 0x1DC = min (2 ^ 32 - 1) (s.preg p 0x1DC + 1) ∧ t.mem = s.mem)
    ∧ (∀ c, ∃ t, exec (.uncorrectableError p (.conductorCore c)) s = .next t ∧ c ∈ (t.part p).deadCores)
    ∧ exec (.uncorrectableError p .belfryBase) s = .next { s with platform := { s.platform with halted := true } })
  ∧ (∀ (s : State) (req : Nat) (a : Access) (p : Piece), req < 2 ^ 68 → s.pieceOf req = some (a, p) → p.done = false →
    a.path p = .host → a.detached = false →
    (a.kind = .load → ∃ t, exec (.hostCompletionTimeout req) s = .next t
      ∧ (t.pieceOf req).map (fun x => (x.2.done, x.2.poison)) = some (true, true))
    ∧ (a.kind = .store → s.mayWrite req a p = true → ∃ t, exec (.hostCompletionTimeout req) s = .next t
      ∧ (t.pieceOf req).all (·.2.done) = true ∧ t.rf = s.rf))
  ∧ (∀ (s : State) (e id w : Nat) (c : Command) (src : DWord), e < 2 ^ 68 → s.runningOn e = some (id, c) →
    s.cmds.find id = some c → s.beatGoes e c = true → c.beat.1 = [src] → c.beat.2.2 = 4 → c.port = none → c.grid ≠ 0 →
    s.hostWord c { rd := true } src = some w →
    ∃ t, exec (.hostCompletionTimeout (2 ^ 68 + e)) s = .next t ∧ t.cmds.find id = some { c with stopped := true }
      ∧ t.rf = s.rf)
  ∧ (∀ (s : State) (core id w : Nat) (ids : List Nat) (c : Command) (p : CmdPiece), core < 2 ^ 69 →
    s.loads core = id :: ids → s.cmds.find id = some c → (s.part c.part).holds (.matrix c.core) = false →
    c.forks = [] → c.pieces[c.piece]? = some p → c.at_ < p.len → c.port = none → c.grid ≠ 0 →
    s.hostWord c { rd := true } (p.src + BitVec.ofNat 64 c.at_) = some w →
    ∃ t, exec (.hostCompletionTimeout (2 ^ 69 + core)) s = .next t ∧ t.cmds.find id = some { c with stopped := true }
      ∧ t.rf = s.rf)
  ∧ (∀ (s : State) (l p : Nat), s.partOfLine l = some p → hostCopyBase ≤ 128 * l → 128 * l < hostBase →
    s.forwards.find l = none → s.hostLines.find l = none →
    RecordsOutside (({ s with hostLines := s.hostLines.set l false } : State).fillWay l) p l 8 →
    ∃ t, exec (.hostCompletionTimeout (2 ^ 70 + l)) s = .next t ∧ (∀ i < 32, t.regOf (32 * l + i) = .p) ∧ t.rf = s.rf)

/-- 05 R145; 14 R375; 15 R396, R401: an engine's reset ends its stop, and its command is to be dispatched again; a link's
reset loses the owners behind it; a link that retrains without loss goes on, and one that does not leaves a module out of
service, or is reset where an error had sent a link with no narrow plane into the retrain; a partition's reset gives it its registers and idle threads back; a Function Level Reset of a
VF ends its context's work with ABORTED and leaves its context unhalted, and the PF's also disables every VF. The model's choices it rests on:
notes/assumptions/60.md, notes/assumptions/64.md, notes/assumptions/72.md. -/
def Obligations.ResetSteps : Prop :=
  (∀ (s : State) (e p : Nat), s.partOfEngine e = some p →
    ∃ t, exec (.engineReset e) s = .next t ∧ t.engineDead.get false e = false
      ∧ (∀ w, w < 2 ^ 64 → t.copyOf (0x020 + e) w = none)
      ∧ (∀ id c, s.cmds.find id = some c → c.running = some e →
        t.cmds.find id = some { c with running := none, replay := true, landed := [] })
      ∧ t.hostOut = s.hostOut ++ [.pfVector])
  ∧ (∀ (s : State) (l : LinkId), ∃ t, exec (.linkReset l) s = .next t ∧ t.hostOut = s.hostOut ++ [.pfVector]
      ∧ (∀ d i, l = .compute d → i < 4 → (s.partOf (4 * d + i)).isSome = true →
        ∀ w, w < 2 ^ 64 → t.copyOf (4 * d + i) w = none)
      ∧ (∀ d i, l = .edge d → i < 64 → (s.partOfPort (64 * d + i)).isSome = true →
        ∀ w, w < 2 ^ 64 → t.copyOf (0x080 + 64 * d + i) w = none)
      ∧ (∀ i, l = .port i → (s.partOfPort i).isSome = true → ∀ w, w < 2 ^ 64 → t.copyOf (0x080 + i) w = none)
      ∧ (l = .host → t.copies = s.copies ∧ t.lines = s.lines))
  ∧ (∀ (s : State) (l : LinkId) (m : Nat),
    exec (.linkRetrain l m true) s = .next { s with platform := { s.platform with
      retraining := s.platform.retraining.filter (· != l) } }
    ∧ (narrowModules l = 0 → l ∈ s.platform.retraining →
      exec (.linkRetrain l m false) s = exec (.linkReset l) s)
    ∧ ((l, m) ∉ s.platform.failedModules → narrowModules l ≠ 0 ∨ l ∉ s.platform.retraining → ∃ t, exec (.linkRetrain l m false) s = .next t
      ∧ t.platform.failedModules = (l, m) :: s.platform.failedModules
      ∧ (m < narrowModules l → (∀ i < narrowModules l, i ≠ m → (l, i) ∈ s.platform.failedModules) →
        l ∈ t.platform.failedLinks)))
  ∧ (∀ (s : State) (p : Nat) (q : Part), s.parts.find p = some q →
    ∃ t, exec (.partitionReset p) s = .next t
      ∧ t.part p = { logn := q.logn, cegrp := q.cegrp, rate := q.rate, burst := q.burst, fport := q.fport, touched := false }
      ∧ t.hostOut.getLast? = some .pfVector
      ∧ (∀ k e, t.tlb.find k = some e → e.part ≠ p)
      ∧ ∀ n, s.me.kind = .conductor n → p ≤ n / 8 → n / 8 < p + 2 ^ q.logn → t.me.xqctl = 0)
  ∧ (∀ (s : State) (n : Nat) (v : VfEntry), s.vfOn n = some v →
    ∃ t, exec (.vfFunctionLevelReset n) s = .next t ∧ t.vfs.find n = some { v with ccres := 0, open_ := false }
      ∧ (t.context v.first v.ctx).halted = false
      ∧ ∀ k g, (s.part v.first).grids.find k = some g → g.ctx = v.ctx → g.st ≠ .ended → g.ending = none →
        EndsWith t v.first k 4)
  ∧ (∀ (s : State) (p : Nat) (q : Part), s.parts = [(p, q)] →
    ∃ t, exec .pfFunctionLevelReset s = .next t ∧ (∀ n, t.vfOn n = none)
      ∧ t.part p = { logn := q.logn, cegrp := q.cegrp, rate := q.rate, burst := q.burst, fport := q.fport, touched := false })

/-- 12 R316; 13 R344, R345; 14 R357; 16 R408: a rotation gives the place of an active warp to a pending one that has
been ready for 128 clk; a spin demotion sends a spinning warp to the pending set and is counted; an overdue warp stops
with WATCHDOG; a stall sample takes a place in its ring and the core's next slot; an mma's rows become ready. The
model's choices it rests on: notes/assumptions/9.md, notes/assumptions/55.md, notes/assumptions/56.md. -/
def Obligations.SchedulingSteps : Prop :=
  (∀ (s : State) (core : Nat) (p a : Agent),
    firstBy (·.readySince) (s.coreWarps core Agent.readyPending) = some p → rotated (s.coreWarps core Agent.inActive) = some a →
    s.agent p.id = some p → s.agent a.id = some a → p.readySince + s.clkTicks (dieOf core) 128 ≤ s.tick →
    8 ≤ (s.coreWarps core Agent.inActive).length →
    ∃ t, exec (.warpRotation core) s = .next t ∧ t.agent p.id = some { p with sched := .active, entered := s.nextId }
      ∧ t.agent a.id = some { a with sched := .pending, readySince := s.tick, cache := [] } ∧ t.rf = s.rf ∧ t.mem = s.mem)
  ∧ (∀ (s : State) (core : Nat) (a : Agent), firstSpinning (s.coreWarps core Agent.inActive) = some a →
    s.agent a.id = some a → s.coreWarps core (fun b => b.readyPending && !b.spinning) ≠ [] → a.ctx < 64 →
    (s.parts.find a.part).isSome = true →
    8 ≤ (s.coreWarps core Agent.inActive).length ∨ 6 < ((s.coreWarps core Agent.inActive).filter (·.spinning)).length →
    let u := (s.updAgent a.id (fun b => { b with sched := .pending, readySince := s.tick, cache := [] })).countEvent
      a.part a.ctx 7 1
    exec (.spinDemotion core) s = .next u.schedule
      ∧ (u.schedule.context a.part a.ctx).counters.get 0 7 = (s.context a.part a.ctx).counters.get 0 7 + 1)
  ∧ (∀ s : State, s.me.isWarp = true → s.overdue s.me = true →
    let lane := s.me.threads.findIdx Thread.live
    ∃ t, exec (.watchdog s.me.id) s = .next t ∧ t.me = { s.me with
      trapinfo := BitVec.ofNat 32 (0x15 + lane % 64 * 256), halted := .stop, xfaults := [], parks := s.me.parks.filter (fun k => k.pc != s.me.nextPc) }
      ∧ ((s.parts.find s.me.part).isSome = true → ∃ st, (t.part s.me.part).stop = some st
        ∧ ∃ f ∈ st.faults, f.code = 0x15 ∧ f.grid = s.me.grid ∧ f.pc = s.me.nextPc))
  ∧ (∀ (s : State) (core : Nat) (a : Agent), s.nextSlot core (s.coreOf core).sampleSlot = some a →
    (s.parts.find a.part).isSome = true → (s.preg a.part 0x198).testBit 0 = true →
    (s.coreOf core).sampleTick + s.clkTicks (dieOf core) (2 ^ bitsN (s.preg a.part 0x198) 5 1) ≤ s.tick →
    ¬ RingFull s a.part sampleRing →
    ∃ t, exec (.stallSample core) s = .next t ∧ t.preg a.part 0x188 = (s.preg a.part 0x188 + 1) % 2 ^ 32
      ∧ (t.coreOf core).sampleSlot = (a.slot + 1) % 32 ∧ (t.coreOf core).sampleTick = s.tick ∧ t.rf = s.rf)
  ∧ (∀ (s : State) (core : Nat), ∃ t, exec (.mmaRowsReady core) s = .next t
      ∧ t.coreOf core = { s.coreOf core with mma := (s.coreOf core).mma.tail }
      ∧ (∀ c, c ≠ core → t.coreOf c = s.coreOf c) ∧ t.rf = s.rf ∧ t.mem = s.mem)

/-- 08 R198, R199, R204 to R206, R209, R211; 12 R299, R313, R314: an idle engine takes its partition's next command; a
beat of one word moves it from the source to the destination and advances its command; a command completes once
its bytes are performed, its status word entering its queue and its tag set; a beat of a weight load is staged, a
panel whose beats have all been read is placed under its tag, and the last panel completes the command. A beat's walks run
first (04 R112). The model's choices it rests on: notes/assumptions/17.md, notes/assumptions/40.md. -/
def Obligations.EngineSteps : Prop :=
  (∀ (s : State) (e p id : Nat) (c : Command), s.partOfEngine e = some p → (s.part p).stop = none →
    s.engineDead.get false e = false → s.cmds.anyV (fun x => x.running == some e) = false →
    s.nextCommand p = some (id, c) → c.port = none → c.finished = false →
    ∃ t, exec (.commandDispatch e) s = .next t ∧ t.cmds.find id = some { c with running := some e, replay := false }
      ∧ (∀ j, j ≠ id → t.cmds.find j = s.cmds.find j) ∧ t.mem = s.mem ∧ t.rf = s.rf)
  ∧ (∀ (s : State) (e id : Nat) (c : Command), s.runningOn e = some (id, c) → s.cmds.find id = some c →
    (s.part c.part).holds (.copy e) = false → c.stopped = false → c.forks = [] → c.finished = false →
    s.beatWaits c = false → c.port = none → WalksRun s c.part c.ctx c.beatAddrs →
    let u := s.walked c.part c.ctx c.beatAddrs (fun x => x)
    u.cmds = s.cmds → u.beatFault c = none → u.beatWaits c = false →
    ∃ t k, exec (.copyBeat e) s = .next t ∧ t.cmds.find id = some k
      ∧ k.at_ = (c.advance c.beat.2.2).at_ ∧ k.piece = (c.advance c.beat.2.2).piece ∧ t.rf = s.rf
      ∧ (∀ (src : DWord) (q r : Place), c.kind ≠ .coll → c.beat.1 = [src] → c.beat.2.2 = 4 →
        u.cmdPlace c src { rd := true } = .ok (.mem q) → u.cmdPlace c c.beat.2.1 c.dstNeed = .ok (.mem r) →
        q.pol ≠ 2 → r.pol ≠ 2 → 4 * (q.key / 4) < hostCopyBase → 4 * (r.key / 4) < hostCopyBase →
        u.regOf (q.key / 4) = .u → u.regOf (r.key / 4) = .u → c.ctl.getLsbD 9 = false →
        (u.openLines.get [] (0x020 + e)).length < 4096 → t.current (r.key / 4) = u.memWord (q.key / 4) ∧ t.regOf (r.key / 4) = .ol
          ∧ t.ownerOf (r.key / 4) = 0x020 + e))
  ∧ (∀ (s : State) (id e : Nat) (c : Command), s.cmds.find id = some c → c.running = some e → c.finished = true →
    c.forks = [] → c.stopped = false → c.port = none →
    let word : Word := BitVec.ofNat 32 (c.res + c.kind.code * 16 + (c.ctl.extractLsb' 0 6).toNat * 256
      + (if c.ctl.getLsbD 6 then 0x4000 else 0) + c.seq * 65536)
    ∃ t, exec (.commandCompletion id) s = .next t ∧ t.cmds.find id = none
      ∧ (c.agent = s.me.id → t.me.queues = s.me.queues.mapIdx (fun i q =>
        if i = c.queue then q.deliver id word c.join else q))
      ∧ (∀ cl, c.core < 256 → c.ctl.getLsbD 6 = true → s.clusters.find c.cluster = some cl →
        t.clusters.find c.cluster = some { cl with tags := cl.tags.complete (c.ctl.extractLsb' 0 6).toNat c.join })
      ∧ t.rf = s.rf)
  ∧ (∀ (s : State) (id : Nat) (c : Command) (p : CmdPiece), s.cmds.find id = some c →
    c.kind = .mldb → (s.loads c.core).head? = some id → c.forks = [] →
    (s.part c.part).holds (.matrix c.core) = false → c.pieces[c.piece]? = some p →
    let at_ := c.half * 2 ^ 18 + 256 * p.dst.toNat
    let ks := c.staged.map (·.1)
    let es := c.staged.flatMap (·.2)
    let pages := spanOf (p.src + BitVec.ofNat 64 c.at_) 512
    (c.at_ < p.len → s.loadWaits c p = false → WalksRun s c.part c.ctx pages →
      ∀ u tag bs, (s.walked c.part c.ctx pages (fun x => x)).loadBeat c p = .ok (u, tag, bs) → u.cmds.find id = some c →
      ∃ t, exec (.weightLoadComplete id) s = .next t
        ∧ t.cmds.find id = some { c with at_ := c.at_ + 512, staged := c.staged ++ bs, tag := tag }
        ∧ t.cores = u.cores ∧ t.rf = u.rf)
    ∧ (p.len ≤ c.at_ → c.tag ≠ 0 → ∃ t, exec (.weightLoadComplete id) s = .next t
      ∧ t.cmds.find id = (if c.piece + 1 < c.pieces.length then
          some { c with piece := c.piece + 1, at_ := 0, staged := [], tag := 0 } else none)
      ∧ (t.coreOf c.core).panels.find (c.half * 1024 + p.dst.toNat) = some c.tag
      ∧ (∀ i, i < ks.length → i < 256 → (t.coreOf c.core).weights.get 0 (at_ + i) = ks.getD i 0)
      ∧ (∀ i, i < es.length → (t.coreOf c.core).weights.get 0 (at_ + 256 + i) = es.getD i 0) ∧ t.rf = s.rf))

/-- 08 R217; 13 R329, R332 to R339; 12 R297: a gated cluster is offered once its chime is at least 1, the walk of the
chime's page running first (04 R112); the placer gives
the next unit to a core that admits it, or keeps its place at the head, a section group to the eight cores of a slice;
a cluster that, the release of its launch complete (06 R157), starts has zeros in its scratchpad and every warp's threads at
the grid's code with the argument block in v0:1, the eight clusters of a section group starting together (01 R21); a grid
whose clusters have retired ends DONE, and its record is written: its completion word, 0x80000000, or 0x80000010 after a
race, stands at its address and in its table entry. The model's choices it rests on: notes/assumptions/17.md,
notes/assumptions/44.md, notes/assumptions/48.md. -/
def Obligations.PlacementSteps : Prop :=
  (∀ (s : State) (p k c : Nat) (g : Grid), (s.part p).grids.find k = some g → Desc.gate g.d = true →
    c ∉ g.chimed → c < Desc.ncl g.d → g.offered = true → g.fault = none → (s.part p).chimedBefore k c = false →
    let va : DWord := BitVec.ofNat 64 (Desc.chime g.d + 4 * c)
    (¬ WalksRun s p g.ctx [va.toNat] → ∃ t, exec (.gatedChimeWait p k c) s = .next t ∧ t.parts = s.parts
      ∧ t.mem = s.mem ∧ t.rf = s.rf)
    ∧ (WalksRun s p g.ctx [va.toNat] →
      let v := s.walked p g.ctx [va.toNat] id
      ∀ q, v.xlateNow p g.ctx va { rd := true } = .ok q → (v.part p).grids = (s.part p).grids →
      (v.part p).gateReady = (s.part p).gateReady →
      v.lineHeld (q.key / 4) = false → 4 * (q.key / 4) < hostCopyBase → v.regOf (q.key / 4) = .u →
      let unit := if Desc.sect g.d then c / 8 else c
      let full := Desc.sect g.d = false ∨ ∀ i < 8, 8 * unit + i ∈ c :: g.chimed
      (v.memWord (q.key / 4) = 0 → ∃ t, exec (.gatedChimeWait p k c) s = .next t
        ∧ (t.part p).gateReady = (s.part p).gateReady ∧ (t.part p).grids.find k = some g ∧ t.mem = v.mem ∧ t.rf = v.rf)
      ∧ (v.memWord (q.key / 4) ≠ 0 → ∃ t, exec (.gatedChimeWait p k c) s = .next t
        ∧ (full → (t.part p).gateReady = (s.part p).gateReady ++ [(k, unit)])
        ∧ (¬ full → (t.part p).gateReady = (s.part p).gateReady)
        ∧ (t.part p).grids.find k = some { g with chimed := c :: g.chimed } ∧ t.mem = v.mem ∧ t.rf = v.rf)))
  ∧ (∀ (s : State) (p k u : Nat) (gated : Bool) (g : Grid), (s.part p).stop = none →
    (s.part p).toOffer = some (k, u, gated) → (s.part p).grids.find k = some g →
    (s.offer p k u g = none → exec (.clusterAdmission p) s
      = .next (s.updPart p (fun q => { q with offering := some (k, u, gated) })))
    ∧ (Desc.sect g.d = true → s.offer p k u g ≠ none → ∃ t sl, exec (.clusterAdmission p) s = .next t
      ∧ (∀ i < 8, ∃ c, t.clusters.find (s.nextId + i) = some c ∧ c.part = p ∧ c.grid = k ∧ c.core = 8 * sl + i
        ∧ c.index = 8 * u + i ∧ c.group = some u ∧ c.started = false)
      ∧ (t.part p).grids.find k = some { g with placed := g.placed + 1 } ∧ (t.part p).offering = none)
    ∧ (Desc.sect g.d = false → s.offer p k u g ≠ none → ∃ t c, exec (.clusterAdmission p) s = .next t ∧ t.clusters.find s.nextId = some c
      ∧ c.part = p ∧ c.grid = k ∧ c.index = u ∧ c.group = none ∧ c.started = false
      ∧ s.admits c.core ((g.d).demand p g.ctx) = true
      ∧ c.frames = (s.freeFrames c.core).take (Desc.frames g.d)
      ∧ (t.part p).grids.find k = some { g with placed := g.placed + 1 } ∧ (t.part p).offering = none
      ∧ (∀ j, j ≠ s.nextId → t.clusters.find j = s.clusters.find j) ∧ t.rf = s.rf ∧ t.mem = s.mem))
  ∧ (∀ (s : State) (key : Nat) (c : Cluster) (g : Grid), s.clusters.find key = some c →
    (s.part c.part).grids.find c.grid = some g → c.started = false → g.halted = .none → (s.part c.part).stop = none →
    (∀ r, g.link = some r → s.releases.find r = none) → s.gatedBefore key c = false →
    (((s.startsWith key c).map (·.1)).Nodup → ∃ t, exec (.clusterStart key) s = .next t
      ∧ ∀ e ∈ s.startsWith key c, t.clusters.find e.1 = some { e.2 with started := true }
        ∧ ∀ a < 2 ^ 22, t.scratch.get 0 (scratchKey e.1 a) = 0)
    ∧ (c.group = none → (c.slots.take c.warps).Nodup → c.warps ≤ c.slots.length →
    ∃ t, exec (.clusterStart key) s = .next t ∧ t.clusters.find key = some { c with started := true }
      ∧ (∀ i < c.warps, ∃ a, t.others.find (32 * c.core + c.slots.getD i 0) = some a
        ∧ a.kind = .warp c.core (c.slots.getD i 0) ∧ a.grid = c.grid ∧ a.cluster = key ∧ a.launchIx = i
        ∧ a.level = .user ∧ a.width = c.width
        ∧ a.threads = (List.range c.width).map (fun l =>
          { pos := i % (64 / c.width) * c.width + l, pc := BitVec.ofNat 64 (Desc.code g.d) })
        ∧ ∀ l < c.width, t.rf.get 0 (rowKey a (a.base + l) 0) = lo32 g.argBlock
          ∧ t.rf.get 0 (rowKey a (a.base + l) 1) = hi32 g.argBlock)))
  ∧ (∀ (s : State) (p k : Nat) (g : Grid), (s.part p).grids.find k = some g →
    (g.st ≠ .ended → g.ending = some 0 →
      let u := s.flushSections p
      let v := u.walked p g.ctx (pageStarts (Desc.done g.d) 4) id
      WalksRun u p g.ctx (pageStarts (Desc.done g.d) 4) → v.writable p g.ctx (Desc.done g.d) 4 = none →
      v.heldBack p g.ctx (Desc.done g.d) 4 = false →
      ∀ h, (u.part p).grids.find k = some h → h.ending = some 0 → h.d = g.d → h.ctx = g.ctx →
        (v.part p).grids.find k = some h → (v.part p).knell = none →
      ∃ t g', exec (.gridCompletion p k) s = .next t ∧ (t.part p).grids.find k = some g' ∧ g'.st = .ended
        ∧ g'.race = h.race ∧ g'.word = (if h.race then 0x80000010 else 0x80000000) ∧ t.rf = v.rf
        ∧ ∀ q, v.xlateNow p g.ctx (BitVec.ofNat 64 (Desc.done g.d)) { wr := true } = .ok q → q.pol ≠ 2 →
          4 * (q.key / 4) < hostCopyBase → t.memWord (q.key / 4) = g'.word)
    ∧ (g.st ≠ .ended → g.ending = none → s.outstanding p k = false → s.gridRuns p k = false →
      (s.part p).chargedWith k = false → (g.fate = .checkpoint → g.hwRoute = true) → g.allRetired = true →
      ∃ t, exec (.gridCompletion p k) s = .next t ∧ EndsWith t p k 0)
    ∧ (g.st ≠ .ended → g.ending = none → s.outstanding p k = false → s.gridRuns p k = false →
      (s.part p).chargedWith k = false → g.fate = .checkpoint → g.hwRoute = false →
      ∃ t, exec (.gridCompletion p k) s = .next t ∧ EndsWith t p k 3)
    ∧ (g.st = .ended → exec (.gridCompletion p k) s = .next s))

/-- 14 R352 to R356, R359, R362, R365, R370: an engine at its stop point acknowledges; the roll call ends the stop, the
charged grids with FAULTED and their first fault's code in the completion word; PREEMPT sends every thread of its warp to the handler; a grid past XPRELIM moves to the
hardware route; quiet work ends its quiescence; a slice passes to the next context. The model's choices it rests
on: notes/assumptions/31.md, notes/assumptions/66.md. -/
def Obligations.StopSteps : Prop :=
  (∀ (s : State) (p : Nat) (e : EngineId) (st : Stop) (v : StopView), (s.part p).stop = some st → e ∉ st.reached →
    e ∈ s.enginesOf p → s.mmaRuns e = false → (∀ x, s.walkOn e = some x → s.walkStuck x.2 = false) →
    s.stopView p e = some v →
    ∃ t, exec (.engineStopPoint p e) s = .next t
      ∧ (t.part p).stop = some { st with reached := e :: st.reached, acks := st.acks + 1 } ∧ t.rf = s.rf)
  ∧ (∀ (s : State) (p : Nat) (st : Stop), (s.part p).stop = some st → s.allReached p st = true →
    ∃ t, exec (.rollCallComplete p) s = .next t ∧ (t.part p).stop = none ∧ t.rf = s.rf
      ∧ (st.charged = [] → (s.part p).knell = none → (s.part p).contexts.keysOf (·.haltDue) = [] →
        s.me.part = p → s.me.halted = .stop → t.me.halted = .none)
      ∧ ∀ k code g, st.charged = [(k, code)] → (s.part p).grids.find k = some g → g.st ≠ .ended → g.ending = none →
        EndsWith t p k 1)
  ∧ (∀ s : State, s.me.isWarp = true → s.me.preempt = true → s.me.loops = [] → s.me.halted = .none →
    (s.part s.me.part).stop = none → (s.part s.me.part).holds s.me.engine = false →
    (∀ k ∈ s.me.parks, ∀ n, k.wait ≠ .op n) → 2 ≤ s.me.regB → s.me.regB ≤ 128 →
    (∀ x ∈ s.me.threads, meetAddr s.me.codeBase x.meet ≠ some s.me.handler) →
    ∃ t, exec (.preemptDelivery s.me.id) s = .next t ∧ t.me.trapinfo = 0x20 ∧ t.me.preempt = false
      ∧ t.me.trapvec = s.me.trapvec &&& 0xFFFFFFFE ∧ t.me.parks = [] ∧ t.mem = s.mem
      ∧ t.me.threads = s.me.threads.map (fun x => if x.live then
        { x with pc := s.me.codeBase + ((s.me.trapvec &&& 0xFFFFFFF8).setWidth 64), st := .runnable } else x)
      ∧ ∀ l x, s.me.threads[l]? = some x → x.live = true → t.pair l (s.me.regB - 2) = x.pc)
  ∧ (∀ (s : State) (p k : Nat) (q : Part) (g : Grid), s.parts = [(p, q)] → q.grids.find k = some g → g.live = true →
    g.fate = .checkpoint → (∃ t0, g.ckStart = some t0 ∧ t0 + 1000 * (s.preg p 0x21 % 2 ^ 32) ≤ s.tick) →
    ∃ t g', exec .preemptLimitExpiry s = .next t ∧ (t.part p).grids.find k = some g' ∧ g'.hwRoute = true)
  ∧ (∀ (s : State) (p ctx : Nat), s.quiet p ctx = true → (s.context p ctx).quiescing = true →
    (s.part p).hwGrids ctx = [] →
    ∃ t, exec (.quiescenceComplete p ctx) s = .next t ∧ (t.context p ctx).quiescing = false)
  ∧ (∀ (s : State) (p : Nat), (s.part p).stop = none →
    let len := (s.preg p 0x1D) % 2 ^ 32
    let cs := s.slicing p
    let next := (cs.find? (fun c => (s.part p).sliceCtx < c)).getD (cs.headD 0)
    (len = 0 ∨ cs.length < 2 → s.me.part = p → s.me.halted = .slice →
      ∃ t, exec (.sliceExpiry p) s = .next t ∧ t.me.halted = .none)
    ∧ (len ≠ 0 → 2 ≤ cs.length → s.tick < (s.part p).sliceStart + 1000 * len → (s.part p).sliceCtx ∈ cs →
      exec (.sliceExpiry p) s = .next s)
    ∧ (len ≠ 0 → 2 ≤ cs.length → (s.part p).sliceStart + 1000 * len ≤ s.tick →
      ∃ t, exec (.sliceExpiry p) s = .next t ∧ (t.part p).sliceCtx = next ∧ (t.part p).sliceStart = s.tick
        ∧ (s.me.part = p → s.me.ctx = next → s.me.halted = .slice → t.me.halted = .none)
        ∧ (s.me.part = p → s.me.ctx ∈ cs → s.me.ctx ≠ next → s.me.isWarp = true → s.me.halted = .none →
          (s.part p).grids.anyV (fun g => g.ctx == s.me.ctx && g.live && g.halted == .none) = true →
          t.me.halted = .slice)))

/-- 14 R367 to R369, R372; 15 R394: a knell's decision runs a discardable grid that fits, else checkpoints one that
fits, else discards it; a recomputation keeps a grid that fits and decides again one that no longer does; at the
deadline what has not ended ends, DISCARDED where it is discardable and ABORTED where it is not; PCKNELL posts a knell and gives its status. The model's choices it rests on:
notes/assumptions/45.md, notes/assumptions/50.md, notes/assumptions/56.md. -/
def Obligations.KnellSteps : Prop :=
  (∀ (s : State) (p k : Nat) (q : Part) (g : Grid) (n : Knell), s.parts = [(p, q)] → q.grids = [(k, g)] → g.live = true →
    q.knell = some n → n.begun = true → q.stop = none →
    let room : Int := (s.preg p 0x1E : Int) - s.tick - 150000
    let again (i : Instr) (cum : Nat) : Prop :=
      (g.fits s.tick room = false → ckFits (2 ^ q.logn) (cum + s.saveBytes p k g) room = true →
        ∃ t g', exec i s = .next t ∧ (t.part p).grids.find k = some g' ∧ g'.fate = .checkpoint)
      ∧ (g.fits s.tick room = false → ckFits (2 ^ q.logn) (cum + s.saveBytes p k g) room = false →
        ∃ t, exec i s = .next t ∧ EndsWith t p k 2)
    (Desc.disc g.d = true → n.decided = false →
      (g.fits s.tick room = true → ∃ t, exec .knellDecision s = .next t
        ∧ (t.part p).grids.find k = some { g with fate := .run }
        ∧ (t.part p).knell = some { n with decided := true, t0 := s.tick, cum := 0 })
      ∧ again .knellDecision 0)
    ∧ (n.decided = true → s.tick < n.t0 + 10000 → exec .knellRecompute s = .next s)
    ∧ (Desc.disc g.d = true → n.decided = true → n.t0 + 10000 ≤ s.tick → g.fate = .run →
      (g.fits s.tick room = true → ∃ t, exec .knellRecompute s = .next t ∧ (t.part p).grids = q.grids
        ∧ (t.part p).knell = some { n with t0 := s.tick })
      ∧ again .knellRecompute n.cum)
    ∧ (s.tick < s.preg p 0x1E → exec .knellDeadline s = .next s)
    ∧ (s.preg p 0x1E ≤ s.tick → ∃ t, exec .knellDeadline s = .next t ∧ EndsWith t p k (if Desc.disc g.d then 2 else 4)))
  ∧ (∀ (s : State) (p : Nat) (d : BitVec 64),
    (s.parts.find p = none → exec (.pcknell p d) s = .next s)
    ∧ ∀ q, s.parts.find p = some q →
      (q.knell.isSome = true → s.preg p 0x1E ≤ d.toNat → ∃ t, exec (.pcknell p d) s = .next t
        ∧ t.preg p 0x108 = 0x80000001 ∧ (t.part p).knell = q.knell ∧ t.preg p 0x1E = s.preg p 0x1E)
      ∧ ∀ k g, q.knell = none → q.grids.find k = some g → g.live = true → s.tick < d.toNat →
        ∃ t n, exec (.pcknell p d) s = .next t ∧ t.preg p 0x108 = 0x80000000 ∧ t.preg p 0x1E = d.toNat
          ∧ (t.part p).knell = some n ∧ n.t0 = s.tick ∧ n.decided = false ∧ k ∈ n.grids)

/-- 05 R139; 06 R168; 14 R364; 15 R393, R394: a BAR 2 access reads and writes the word it names at its bank; one of no
BAR is unsupported; a context's control page takes and answers its commands; halt sets a context's work aside, resume
lets it issue, abort ends its grids, and for a partition every context of it. The model's choices it rests on:
notes/assumptions/57.md, notes/assumptions/58.md, notes/assumptions/59.md. -/
def Obligations.HostSteps : Prop :=
  (∀ (s : State) (p off : Nat) (v : BitVec 4096), off < 2 ^ 41 → off % 4 = 0 → s.windowOf off = some p →
    s.inWindow p off = true → s.inWindow p (off + 3) = true → s.lineHeld (off / 4) = false →
    (s.regOf (off / 4) = .u → exec (.barRead .pf 2 off 4) s
      = .next { s with hostOut := s.hostOut ++ [.data ((s.memWord (off / 4)).setWidth 4096)] })
    ∧ (s.regOf (off / 4) = .p → exec (.barRead .pf 2 off 4) s = .next { s with hostOut := s.hostOut ++ [.poisoned] })
    ∧ (s.regOf (off / 4) = .u ∨ s.regOf (off / 4) = .p → ∃ t, exec (.barWrite .pf 2 off 4 v) s = .next t
      ∧ t.memWord (off / 4) = v.setWidth 32 ∧ t.regOf (off / 4) = .u ∧ (∀ w, w ≠ off / 4 → t.memWord w = s.memWord w)
      ∧ t.hostOut = s.hostOut ∧ t.rf = s.rf))
  ∧ (∀ (s : State) (off size : Nat) (v : BitVec 4096),
    exec (.barRead .pf 1 off size) s = .next { s with hostOut := s.hostOut ++ [.unsupported] }
    ∧ exec (.barWrite .pf 1 off size v) s = .next { s with hostOut := s.hostOut ++ [.unsupported] })
  ∧ (∀ (s : State) (n : Nat) (v : VfEntry) (x : BitVec 4096), s.vfOn n = some v →
    exec (.barRead (.vf n) 0 0x10 4) s = .next { s with hostOut := s.hostOut ++ [.data (v.ccres.setWidth 4096)] }
    ∧ (x.toNat % 4 = 1 → exec (.barWrite (.vf n) 0 8 4 x) s = exec (.contextHaltCmd n) s)
    ∧ (x.toNat % 4 = 2 → exec (.barWrite (.vf n) 0 8 4 x) s = exec (.contextResumeCmd n) s)
    ∧ (x.toNat % 4 = 3 → exec (.barWrite (.vf n) 0 8 4 x) s = exec (.contextAbortCmd n) s)
    ∧ ((s.part v.first).contexts.find v.ctx = none →
      exec (.contextHaltCmd n) s = .next { s with vfs := s.vfs.set n { v with ccres := 0x80000001, open_ := false } }
      ∧ exec (.contextResumeCmd n) s = .next { s with vfs := s.vfs.set n { v with ccres := 0x80000001, open_ := false } })
    ∧ (∀ c, (s.part v.first).contexts.find v.ctx = some c →
      (c.halted = false → (s.part v.first).stop ≠ none → ∃ t, exec (.contextHaltCmd n) s = .next t
        ∧ (t.context v.first v.ctx).haltDue = true ∧ t.vfs.find n = some { v with ccres := 0, open_ := true })
      ∧ (c.halted = false → (s.part v.first).stop = none → ∃ t v', exec (.contextHaltCmd n) s = .next t ∧ (t.context v.first v.ctx).halted = true
        ∧ t.vfs.find n = some v' ∧ (v'.ccres = 0 ∨ v'.ccres = 0x80000000)
        ∧ (s.me.isWarp = true → s.me.part = v.first → s.me.ctx = v.ctx → s.me.halted = .none → t.me.halted = .halt))
      ∧ (c.halted = true → ∃ t, exec (.contextHaltCmd n) s = .next t
        ∧ t.vfs.find n = some { v with ccres := 0x80000002, open_ := false })
      ∧ (c.halted = true → ∃ t, exec (.contextResumeCmd n) s = .next t ∧ (t.context v.first v.ctx).halted = false
        ∧ t.vfs.find n = some { v with ccres := 0x80000000, open_ := false }
        ∧ ((s.part v.first).knell = none → s.me.isWarp = true → s.me.part = v.first → s.me.ctx = v.ctx →
          s.me.halted = .halt → t.me.halted = .none)))
    ∧ (∃ t, exec (.contextAbortCmd n) s = .next t ∧ t.vfs.find n = some { v with ccres := 0x80000000, open_ := false }
      ∧ ∀ k g, (s.part v.first).grids.find k = some g → g.ctx = v.ctx → g.st ≠ .ended → g.ending = none →
         EndsWith t v.first k 4))
  ∧ (∀ (s : State) (p : Nat) (q : Part), s.parts.find p = some q →
    (q.contexts = [] → (∃ t, exec (.partitionHaltCmd p) s = .next t ∧ t.preg p 0x118 = 0x80000001)
      ∧ ∃ t, exec (.partitionResumeCmd p) s = .next t ∧ t.preg p 0x118 = 0x80000001)
    ∧ ∀ c x, q.contexts = [(c, x)] →
      (x.halted = false → q.stop = none → ∃ t, exec (.partitionHaltCmd p) s = .next t ∧ (t.context p c).halted = true
        ∧ (t.preg p 0x118 = 0 ∨ t.preg p 0x118 = 0x80000000))
      ∧ (x.halted = true → ∃ t, exec (.partitionResumeCmd p) s = .next t ∧ (t.context p c).halted = false
        ∧ t.preg p 0x118 = 0x80000000)
      ∧ ∃ t, exec (.partitionAbortCmd p) s = .next t ∧ t.preg p 0x118 = 0x80000000
        ∧ ∀ k g, q.grids.find k = some g → g.ctx = c → g.st ≠ .ended → g.ending = none →
           EndsWith t p k 4)

/-- 05 R125, R146; 13 R322, R323; 14 R379, R382; 15 R385, R392; 16 R409: a valid entry of the partition table starts
its partition, an invalid one none, and an entry is disabled only as a partition reset has left it; a VF-table entry takes its
fields; RUN starts an idle thread at XQPC with XQARG in v0:1; XLLCMAP takes a map without conflicts and drains the
units it loses; a register write changes its fields. The model's choices it rests on: notes/assumptions/21.md,
notes/assumptions/42.md, notes/assumptions/50.md, notes/assumptions/61.md. -/
def Obligations.TableSteps : Prop :=
  (∀ (s : State) (i : Nat) (b : BitVec 512), i < 32 →
    let e := readEntryBytes b
    let old := s.ptable.get {} i
    (old.en = false → b.getLsbD 16 = true → s.entryOk i e = true →
      ∃ t q, exec (.partitionTableWrite i b) s = .next t ∧ t.ptable.find i = some e
        ∧ t.parts.find (b.extractLsb' 0 8).toNat = some q ∧ q.logn = (b.extractLsb' 8 8).toNat
        ∧ q.cegrp = (b.extractLsb' 32 32).toNat ∧ q.rate = (b.extractLsb' 64 16).toNat
        ∧ q.burst = (b.extractLsb' 80 16).toNat ∧ q.fport = (b.extractLsb' 128 256).toNat
        ∧ q.regs = [] ∧ q.grids = [] ∧ q.contexts = [])
    ∧ (old.en = false → b.getLsbD 16 = false ∨ s.entryOk i e = false →
      ∃ t, exec (.partitionTableWrite i b) s = .next t ∧ t.parts = s.parts ∧ (t.ptable.get {} i).en = false)
    ∧ (old.en = true → b.getLsbD 16 = false → s.vacant old.first = true → (s.part old.first).touched = false →
      ∃ t, exec (.partitionTableWrite i b) s = .next t ∧ t.parts.find old.first = none)
    ∧ (old.en = true → b.getLsbD 16 = false → s.vacant old.first = false ∨ (s.part old.first).touched = true →
      exec (.partitionTableWrite i b) s = .next s))
  ∧ (∀ (s : State) (n : Nat) (b : BitVec 64), n < 1024 →
    ∃ t v, exec (.vfTableWrite n b) s = .next t ∧ t.vfs.find n = some v
      ∧ v.en = (b.getLsbD 0 && (s.parts.find (b.extractLsb' 8 5).toNat).isSome) ∧ v.sup = b.getLsbD 1
      ∧ v.first = (b.extractLsb' 8 5).toNat ∧ v.ctx = (b.extractLsb' 16 6).toNat
      ∧ (∀ m, m ≠ n → t.vfs.find m = s.vfs.find m) ∧ t.parts = s.parts)
  ∧ (∀ (s : State) (n p : Nat) (a : Agent), s.partOf (n / 8) = some p → s.agent (8192 + n) = some a →
    a.kind = .conductor n →
    (a.xqctl.getLsbD 9 = true → exec (.threadStart n) s = .next s)
    ∧ (a.xqctl.getLsbD 9 = false → (s.part p).knell = none → n / 8 ∉ (s.part p).deadSlices →
      n / 8 ∉ (s.part p).deadCores → ∃ t b, exec (.threadStart n) s = .next t ∧ t.agent (8192 + n) = some b
        ∧ b.kind = .conductor n ∧ b.threads = [{ pc := a.xqpc }] ∧ b.xqctl = a.xqctl ||| 0x200
        ∧ b.level = (if a.xqctl.getLsbD 8 then .supervisor else .user) ∧ b.ctx = (a.xqctl.extractLsb' 0 6).toNat
        ∧ b.part = p ∧ t.rf.get 0 (rowKey b 0 0) = lo32 a.xqarg ∧ t.rf.get 0 (rowKey b 0 1) = hi32 a.xqarg
        ∧ t.mem = s.mem))
  ∧ (∀ (s : State) (p : Nat) (q : Part) (v : BitVec 64), s.parts.find p = some q → v.toNat < 2 ^ 20 →
    v.toNat % 16 ∉ [7, 11, 13, 14] → (q.reg 0x07).toNat < 2 ^ 20 →
    let clash : Bool := (mapUnits v.toNat).any (s.unitsElse p false).contains || (mapUnits v.toNat).any q.draining.contains
    (clash = true → exec (.llcmapWrite p v) s = .next s)
    ∧ (clash = false → v.toNat % 16 = (q.reg 0x07).toNat % 16 ∨ s.anyResident p = false →
      ∃ t, exec (.llcmapWrite p v) s = .next t ∧ (t.part p).reg 0x07 = v
        ∧ (t.part p).draining = q.draining ++ (mapUnits (q.reg 0x07).toNat).filter (fun u => !(mapUnits v.toNat).contains u)
        ∧ t.mem = s.mem ∧ t.rf = s.rf))
  ∧ (∀ (s : State) (p : Nat) (q : Part) (v : BitVec 64), s.parts.find p = some q →
    (∀ (r : CtlReg) (sel : Nat), (r = .csr sel ∧ sel ≤ 0x23 ∧ sel ≠ 0x07 ∧ sel ≠ 0x08)
      ∨ (r, sel) ∈ [(CtlReg.pcLogBase, 0x140), (.pcLogTail, 0x150), (.pcLogCtl, 0x158), (.pcSmpBase, 0x180),
        (.pcSmpTail, 0x190), (.pcSmpCtl, 0x198), (.pcCntBase, 0x1A0), (.pcCntTail, 0x1B0), (.pcCntCtl, 0x1B8)] →
      ∃ t, exec (.registerWrite p r v) s = .next t ∧ (t.part p).reg sel = written sel (q.reg sel) 3 v
        ∧ (∀ x, x ≠ sel → (t.part p).reg x = q.reg x) ∧ t.mem = s.mem ∧ t.rf = s.rf)
    ∧ (∀ (n : Nat) (a : Agent), n < 8 * 2 ^ q.logn → s.agent (8192 + (8 * p + n)) = some a →
      a.kind = .conductor (8 * p + n) →
      ∃ t, exec (.registerWrite p (.thread n 0x42) v) s = .next t
        ∧ t.agent (8192 + (8 * p + n)) = some { a with xqarg := v } ∧ t.rf = s.rf))

/-- 15 R402 to R404; 06 R156: a port takes a descriptor that its HEAD has passed as a command, which waits for the releases
that the writes of its HEAD began; a message on an unbound port is
dropped and counted; a word that arrives through a bound one is registered to the port with its data, and the message
that completes a descriptor is acknowledged; a remote acknowledgement ends the port's oldest sent descriptor, after those
taken before it. Walks run first (04 R112). The model's choices it rests on: notes/assumptions/17.md,
notes/assumptions/53.md, notes/assumptions/67.md, notes/assumptions/68.md. -/
def Obligations.FabricSteps : Prop :=
  (∀ (s : State) (port p : Nat) (head : BitVec 32), s.partOfPort port = some p → bitsN (s.preg p 0x23) 51 6 ≠ 0 →
    (s.ports.get {} port).bound = true →
    let e := s.portEntry p port
    let w (j : Nat) : Nat := (e.getD j 0).toNat
    let size := w 2 % 256
    let taken := (s.part p).ported.get 0 port
    w 4 = head.toNat → 4 ≤ size → size ≤ 12 → (head.toNat + 2 ^ 32 - taken) % 2 ^ 32 = 1 →
    (head.toNat + 2 ^ 32 - w 5) % 2 ^ 32 ≤ 2 ^ size →
    ∃ t c, exec (.portSend port head) s = .next t ∧ t.cmds.find s.nextId = some c ∧ c.port = some port
      ∧ c.desc = s.getGpa p (w 0 / 4096 * 4096 + w 1 * 2 ^ 32 + 64 * (taken % 2 ^ 32 % 2 ^ size)) 16
      ∧ c.forks = ((s.part p).portBy.get [] port).filter (fun r => (s.releases.find r).isSome)
      ∧ c.running = none ∧ (t.part p).ported.get 0 port = head.toNat ∧ t.mem = s.mem ∧ t.rf = s.rf)
  ∧ (∀ (s : State) (port : Nat) (m : FabricMsg),
    let pt := s.ports.get {} port
    (pt.bound = false ∨ s.partOfPort port ≠ some pt.part → ∃ t, exec (.fabricInbound port m) s = .next t
      ∧ t.ports.get {} port = { pt with drops := pt.drops + 1 } ∧ t.mem = s.mem ∧ t.copies = s.copies)
    ∧ (pt.bound = true → s.partOfPort port = some pt.part → (s.parts.find pt.part).isSome = true → pt.faulted = false →
      pt.held = [] →
      (∀ v, m = .complete 0 v → ∃ t, exec (.fabricInbound port m) s = .next t
        ∧ t.ports.get {} port = { pt with acks := pt.acks ++ [false] })
      ∧ ∀ a v r q, m = .data a [v] false r →
        let u0 : State := { s with ports := s.ports.set port pt }
        let u := u0.walked pt.part pt.ctx (msgAddrs pt m) id
        u0.messageWaits pt m = false → WalksRun u0 pt.part pt.ctx (msgAddrs pt m) →
        u.xlateNow pt.part pt.ctx a { wr := true } = .ok q → q.pol ≠ 2 →
        4 * (q.key / 4) < hostCopyBase → u.regOf (q.key / 4) = .u →
        (u.openLines.get [] (0x080 + port)).length < 4096 →
        ∃ t, exec (.fabricInbound port m) s = .next t ∧ t.current (q.key / 4) = v ∧ t.regOf (q.key / 4) = .o
          ∧ t.ownerOf (q.key / 4) = 0x080 + port ∧ t.rf = u.rf))
  ∧ (∀ (s : State) (port id : Nat) (c : Command) (f : Bool),
    (s.cmds.pick (fun _ c => c.port == some port && c.sent && c.ended.isNone)).head? = some (id, c) →
    let pages := if c.statusAt = 0 then [] else [c.statusAt]
    let u := s.walked c.part c.ctx pages (fun x => x)
    (s.portEarlier id port = false → WalksRun s c.part c.ctx pages →
      (c.statusAt = 0 ∨ u.heldBack c.part c.ctx c.statusAt 4 = false →
        ∃ t, exec (.portRemoteAck port f) s = .next t ∧ t.cmds.find id = none ∧ t.rf = u.rf)
      ∧ (c.statusAt ≠ 0 → u.heldBack c.part c.ctx c.statusAt 4 = true → ∃ t, exec (.portRemoteAck port f) s = .next t
        ∧ t.cmds.find id = some { c with running := none, ended := some (if f then 3 else 1) }))
    ∧ (s.portEarlier id port = true ∨ ¬ WalksRun s c.part c.ctx pages → ∃ t, exec (.portRemoteAck port f) s = .next t
      ∧ t.cmds.find id = some { c with running := none, ended := some (if f then 3 else 1) } ∧ t.rf = s.rf))

/-- 14 R374; 16 R410 to R415: power and a package reset bring the package up with empty tables and every word in U,
the links and stacks that failed to train (free values) known, and READY only for an image that the boot ROM accepts; standby removes
power and keeps no state; the firmware's request of a debug stop and the host's of a report are kept; a clock change changes the clocks of the blocks and nothing else; a debug
stop ends every grid ABORTED and stops the clocks once its tick has come; the attestation report holds the image, the
request's nonce and the tick; the
illegal-instruction exception faults its word. The model's choices it rests on: notes/assumptions/69.md,
notes/assumptions/70.md, notes/assumptions/72.md. -/
def Obligations.PlatformSteps : Prop :=
  (∀ (s : State) (i : Instr), i = .powerGood ∨ (i = .packageReset ∧ s.platform.powered = true) →
    let links := Config.untrainedLinks s.free
    let memStacks := Config.untrainedStacks s.free
    ∃ t, exec i s = .next t ∧ t.platform.powered = true ∧ t.platform.ready = s.platform.accepts ∧ t.parts = []
      ∧ t.ptable = [] ∧ t.vfs = [] ∧ t.lines = [] ∧ t.cmds = [] ∧ t.accesses = [] ∧ t.tick = 0
      ∧ t.platform.failedLinks = links ∧ t.platform.failedStacks = memStacks ∧ t.platform.failedModules = []
      ∧ t.hostOut = s.hostOut ++ (if s.platform.accepts = true then [.bringUp links memStacks] else [])
      ∧ t.me = managementReset ∧ t.others = [] ∧ ∀ a, hostBase ≤ a → t.mem.byte a = s.mem.byte a)
  ∧ (∀ s : State, s.platform.powered = false → exec .packageReset s = .next s)
  ∧ (∀ s : State, ∃ t, exec .standby s = .next t ∧ t.platform.powered = false ∧ t.parts = []
    ∧ t.platform.failedLinks = [] ∧ t.platform.failedModules = [])
  ∧ (∀ s : State, ∃ t, exec .clockAndVoltageChange s = .next t ∧ t = { s with clocks := t.clocks, free := t.free })
  ∧ (∀ (s : State) (p : Nat) (d : BitVec 64), exec (.registerWrite p .debugAt d) s
    = .next { s with platform := { s.platform with debugAt := some d.toNat } })
  ∧ (∀ s : State, (∀ d, s.platform.debugAt = some d → s.tick < d) → exec .debugStop s = .next s)
  ∧ (∀ (s : State) (p d : Nat) (q : Part), s.parts = [(p, q)] → s.platform.debugAt = some d → d ≤ s.tick →
    ∃ t, exec .debugStop s = .next t ∧ t.platform.clocksStopped = true
      ∧ ∀ k g, q.grids.find k = some g → g.st ≠ .ended → g.ending = none → EndsWith t p k 4)
  ∧ (∀ (s : State) (off : Nat) (v : BitVec 4096), off < 4096 → exec (.barWrite .pf 0 off 32 v) s
    = .next { s with platform := { s.platform with nonce := some (v.setWidth 256) } })
  ∧ (∀ s : State, s.platform.ready = false ∨ s.platform.nonce = none → exec .attestationReport s = .next s)
  ∧ (∀ (s : State) (n : BitVec 256), s.platform.ready = true → s.platform.nonce = some n →
    ∃ t, exec .attestationReport s = .next t ∧ t.platform.nonce = none ∧ t.platform.report.length = 60
      ∧ t.platform.report.take 2 = [0x00010009, s.platform.image.version]
      ∧ (t.platform.report.drop 18).take 8 = (List.range 8).map (fun i => n.extractLsb' (32 * i) 32)
      ∧ t.platform.report.getD 26 0 = BitVec.ofNat 32 s.tick ∧ t.mem = s.mem ∧ t.rf = s.rf)
  ∧ (∀ s : State, exec .illegalInstruction s = .next (s.takeFault 0x01 (s.group.headD 0) 0 0))
end

