-- ==== Sys2Proof/Laws/PerInstr.lean ====
section
/-! SUPPORT. The family Encoding, one lemma for each instruction: its major, format and fn are assigned (02 R49), and the
decoder's tables give the instruction back from its fields; a hardware step has no word. -/

namespace Sys2Proof.Laws.Encoding

-- One theorem after another: each is evaluated by the kernel, and a thread for each at once takes too much memory.
set_option Elab.async false

/-- What the tables say of an instruction's fields. -/
def Statement (i : Instr) : Prop :=
  match i.fields with
  | .w3 major fn w => majorFmt major = some .w3 ∧ major < 64 ∧ fn < majorFns major ∧ (i.formOk = true → ofW3 major fn w = some i)
  | .wi major fn w => majorFmt major = some .wi ∧ major < 64 ∧ fn < majorFns major ∧ ofWI major fn w = some i
  | .wm major fn w => majorFmt major = some .wm ∧ major < 64 ∧ fn < majorFns major ∧ ofWM major fn w = some i
  | .wb major fn w => majorFmt major = some .wb ∧ major < 64 ∧ fn < majorFns major ∧ ofWB major fn w = some i
  | .pair p => i = .pairedWord p
  | .word => i = .illegalInstruction
  | .step => encode i = none

theorem iadd (x0 : W3) : Statement (.iadd x0) := ⟨rfl, by decide, by decide, fun _ => rfl⟩
theorem isub (x0 : W3) : Statement (.isub x0) := ⟨rfl, by decide, by decide, fun _ => rfl⟩
theorem imul (x0 : W3) : Statement (.imul x0) := ⟨rfl, by decide, by decide, fun _ => rfl⟩
theorem imulh (x0 : W3) : Statement (.imulh x0) := ⟨rfl, by decide, by decide, fun _ => rfl⟩
theorem imad (x0 : W3) : Statement (.imad x0) := ⟨rfl, by decide, by decide, fun _ => rfl⟩
theorem idiv (x0 : W3) : Statement (.idiv x0) := ⟨rfl, by decide, by decide, fun _ => rfl⟩
theorem irem (x0 : W3) : Statement (.irem x0) := ⟨rfl, by decide, by decide, fun _ => rfl⟩
theorem imin (x0 : W3) : Statement (.imin x0) := ⟨rfl, by decide, by decide, fun _ => rfl⟩
theorem imax (x0 : W3) : Statement (.imax x0) := ⟨rfl, by decide, by decide, fun _ => rfl⟩
theorem iabs (x0 : W3) : Statement (.iabs x0) := ⟨rfl, by decide, by decide, fun _ => rfl⟩
theorem ineg (x0 : W3) : Statement (.ineg x0) := ⟨rfl, by decide, by decide, fun _ => rfl⟩
theorem iaddc (x0 : W3) : Statement (.iaddc x0) := ⟨rfl, by decide, by decide, fun _ => rfl⟩
theorem isubb (x0 : W3) : Statement (.isubb x0) := ⟨rfl, by decide, by decide, fun _ => rfl⟩
theorem sel (x0 : W3) : Statement (.sel x0) := ⟨rfl, by decide, by decide, fun _ => rfl⟩
theorem lea (x0 : W3) : Statement (.lea x0) := ⟨rfl, by decide, by decide, fun _ => rfl⟩
theorem icmp (x0 : W3) : Statement (.icmp x0) := ⟨rfl, by decide, by decide, fun _ => rfl⟩
theorem iaddi (x0 : WI) : Statement (.iaddi x0) := ⟨rfl, by decide, by decide, rfl⟩
theorem imuli (x0 : WI) : Statement (.imuli x0) := ⟨rfl, by decide, by decide, rfl⟩
theorem andi (x0 : WI) : Statement (.andi x0) := ⟨rfl, by decide, by decide, rfl⟩
theorem ori (x0 : WI) : Statement (.ori x0) := ⟨rfl, by decide, by decide, rfl⟩
theorem xori (x0 : WI) : Statement (.xori x0) := ⟨rfl, by decide, by decide, rfl⟩
theorem shli (x0 : WI) : Statement (.shli x0) := ⟨rfl, by decide, by decide, rfl⟩
theorem shri (x0 : WI) : Statement (.shri x0) := ⟨rfl, by decide, by decide, rfl⟩
theorem sari (x0 : WI) : Statement (.sari x0) := ⟨rfl, by decide, by decide, rfl⟩
theorem movi (x0 : WI) : Statement (.movi x0) := ⟨rfl, by decide, by decide, rfl⟩
theorem movhi (x0 : WI) : Statement (.movhi x0) := ⟨rfl, by decide, by decide, rfl⟩
theorem icmpi (x0 : WI) : Statement (.icmpi x0) := ⟨rfl, by decide, by decide, rfl⟩
theorem and (x0 : W3) : Statement (.and x0) := ⟨rfl, by decide, by decide, fun _ => rfl⟩
theorem or (x0 : W3) : Statement (.or x0) := ⟨rfl, by decide, by decide, fun _ => rfl⟩
theorem xor (x0 : W3) : Statement (.xor x0) := ⟨rfl, by decide, by decide, fun _ => rfl⟩
theorem andn (x0 : W3) : Statement (.andn x0) := ⟨rfl, by decide, by decide, fun _ => rfl⟩
theorem not (x0 : W3) : Statement (.not x0) := ⟨rfl, by decide, by decide, fun _ => rfl⟩
theorem shl (x0 : W3) : Statement (.shl x0) := ⟨rfl, by decide, by decide, fun _ => rfl⟩
theorem shr (x0 : W3) : Statement (.shr x0) := ⟨rfl, by decide, by decide, fun _ => rfl⟩
theorem sar (x0 : W3) : Statement (.sar x0) := ⟨rfl, by decide, by decide, fun _ => rfl⟩
theorem rol (x0 : W3) : Statement (.rol x0) := ⟨rfl, by decide, by decide, fun _ => rfl⟩
theorem bfx (x0 : W3) : Statement (.bfx x0) := ⟨rfl, by decide, by decide, fun _ => rfl⟩
theorem bfi (x0 : W3) : Statement (.bfi x0) := ⟨rfl, by decide, by decide, fun _ => rfl⟩
theorem popc (x0 : W3) : Statement (.popc x0) := ⟨rfl, by decide, by decide, fun _ => rfl⟩
theorem clz (x0 : W3) : Statement (.clz x0) := ⟨rfl, by decide, by decide, fun _ => rfl⟩
theorem ctz (x0 : W3) : Statement (.ctz x0) := ⟨rfl, by decide, by decide, fun _ => rfl⟩
theorem brev (x0 : W3) : Statement (.brev x0) := ⟨rfl, by decide, by decide, fun _ => rfl⟩
theorem mov (x0 : W3) : Statement (.mov x0) := ⟨rfl, by decide, by decide, fun _ => rfl⟩
theorem fadd (x0 : W3) : Statement (.fadd x0) := ⟨rfl, by decide, by decide, fun _ => rfl⟩
theorem fsub (x0 : W3) : Statement (.fsub x0) := ⟨rfl, by decide, by decide, fun _ => rfl⟩
theorem fmul (x0 : W3) : Statement (.fmul x0) := ⟨rfl, by decide, by decide, fun _ => rfl⟩
theorem ffma (x0 : W3) : Statement (.ffma x0) := ⟨rfl, by decide, by decide, fun _ => rfl⟩
theorem fmin (x0 : W3) : Statement (.fmin x0) := ⟨rfl, by decide, by decide, fun _ => rfl⟩
theorem fmax (x0 : W3) : Statement (.fmax x0) := ⟨rfl, by decide, by decide, fun _ => rfl⟩
theorem fabs (x0 : W3) : Statement (.fabs x0) := ⟨rfl, by decide, by decide, fun _ => rfl⟩
theorem fneg (x0 : W3) : Statement (.fneg x0) := ⟨rfl, by decide, by decide, fun _ => rfl⟩
theorem fcmp (x0 : W3) : Statement (.fcmp x0) := ⟨rfl, by decide, by decide, fun _ => rfl⟩
theorem fclass (x0 : W3) : Statement (.fclass x0) := ⟨rfl, by decide, by decide, fun _ => rfl⟩
theorem frnd (x0 : W3) : Statement (.frnd x0) := ⟨rfl, by decide, by decide, fun _ => rfl⟩
theorem fscal (x0 : W3) : Statement (.fscal x0) := ⟨rfl, by decide, by decide, fun _ => rfl⟩
theorem fcopys (x0 : W3) : Statement (.fcopys x0) := ⟨rfl, by decide, by decide, fun _ => rfl⟩
theorem fcvtFloat (x0 : W3) : Statement (.fcvtFloat x0) := ⟨rfl, by decide, by decide, fun h => by simp_all [Instr.formOk, ofW3]⟩
theorem fcvtFromBinary8 (x0 : W3) : Statement (.fcvtFromBinary8 x0) := ⟨rfl, by decide, by decide, fun h => by simp_all [Instr.formOk, ofW3]⟩
theorem fcvtToBinary8 (x0 : W3) : Statement (.fcvtToBinary8 x0) := ⟨rfl, by decide, by decide, fun h => by simp_all [Instr.formOk, ofW3]⟩
theorem icvt (x0 : W3) : Statement (.icvt x0) := ⟨rfl, by decide, by decide, fun _ => rfl⟩
theorem fpack (x0 : W3) : Statement (.fpack x0) := ⟨rfl, by decide, by decide, fun _ => rfl⟩
theorem funpack (x0 : W3) : Statement (.funpack x0) := ⟨rfl, by decide, by decide, fun _ => rfl⟩
theorem frcp (x0 : W3) : Statement (.frcp x0) := ⟨rfl, by decide, by decide, fun _ => rfl⟩
theorem frsq (x0 : W3) : Statement (.frsq x0) := ⟨rfl, by decide, by decide, fun _ => rfl⟩
theorem fsqrt (x0 : W3) : Statement (.fsqrt x0) := ⟨rfl, by decide, by decide, fun _ => rfl⟩
theorem fex2 (x0 : W3) : Statement (.fex2 x0) := ⟨rfl, by decide, by decide, fun _ => rfl⟩
theorem flg2 (x0 : W3) : Statement (.flg2 x0) := ⟨rfl, by decide, by decide, fun _ => rfl⟩
theorem fsin (x0 : W3) : Statement (.fsin x0) := ⟨rfl, by decide, by decide, fun _ => rfl⟩
theorem fcos (x0 : W3) : Statement (.fcos x0) := ⟨rfl, by decide, by decide, fun _ => rfl⟩
theorem ftanh (x0 : W3) : Statement (.ftanh x0) := ⟨rfl, by decide, by decide, fun _ => rfl⟩
theorem pairedWord (x0 : PairWord) : Statement (.pairedWord x0) := rfl
theorem shfl (x0 : W3) : Statement (.shfl x0) := ⟨rfl, by decide, by decide, fun _ => rfl⟩
theorem vote (x0 : W3) : Statement (.vote x0) := ⟨rfl, by decide, by decide, fun _ => rfl⟩
theorem bcast (x0 : W3) : Statement (.bcast x0) := ⟨rfl, by decide, by decide, fun _ => rfl⟩
theorem redux (x0 : W3) : Statement (.redux x0) := ⟨rfl, by decide, by decide, fun _ => rfl⟩
theorem scan (x0 : W3) : Statement (.scan x0) := ⟨rfl, by decide, by decide, fun _ => rfl⟩
theorem matchLanes (x0 : W3) : Statement (.matchLanes x0) := ⟨rfl, by decide, by decide, fun _ => rfl⟩
theorem lmask (x0 : W3) : Statement (.lmask x0) := ⟨rfl, by decide, by decide, fun _ => rfl⟩
theorem split (x0 : W3) : Statement (.split x0) := ⟨rfl, by decide, by decide, fun _ => rfl⟩
theorem fuse (x0 : W3) : Statement (.fuse x0) := ⟨rfl, by decide, by decide, fun _ => rfl⟩
theorem fuseq (x0 : W3) : Statement (.fuseq x0) := ⟨rfl, by decide, by decide, fun _ => rfl⟩
theorem rng (x0 : W3) : Statement (.rng x0) := ⟨rfl, by decide, by decide, fun _ => rfl⟩
theorem rngseed (x0 : W3) : Statement (.rngseed x0) := ⟨rfl, by decide, by decide, fun _ => rfl⟩
theorem rngskip (x0 : W3) : Statement (.rngskip x0) := ⟨rfl, by decide, by decide, fun _ => rfl⟩
theorem smov (x0 : W3) : Statement (.smov x0) := ⟨rfl, by decide, by decide, fun _ => rfl⟩
theorem smovw (x0 : W3) : Statement (.smovw x0) := ⟨rfl, by decide, by decide, fun _ => rfl⟩
theorem xacq (x0 : W3) : Statement (.xacq x0) := ⟨rfl, by decide, by decide, fun _ => rfl⟩
theorem xrel (x0 : W3) : Statement (.xrel x0) := ⟨rfl, by decide, by decide, fun _ => rfl⟩
theorem push (x0 : W3) : Statement (.push x0) := ⟨rfl, by decide, by decide, fun _ => rfl⟩
theorem pop (x0 : W3) : Statement (.pop x0) := ⟨rfl, by decide, by decide, fun _ => rfl⟩
theorem qpoll (x0 : W3) : Statement (.qpoll x0) := ⟨rfl, by decide, by decide, fun _ => rfl⟩
theorem qlen (x0 : W3) : Statement (.qlen x0) := ⟨rfl, by decide, by decide, fun _ => rfl⟩
theorem bra (x0 : WB) : Statement (.bra x0) := ⟨rfl, by decide, by decide, rfl⟩
theorem call (x0 : WB) : Statement (.call x0) := ⟨rfl, by decide, by decide, rfl⟩
theorem loop (x0 : WB) : Statement (.loop x0) := ⟨rfl, by decide, by decide, rfl⟩
theorem jmpr (x0 : WB) : Statement (.jmpr x0) := ⟨rfl, by decide, by decide, rfl⟩
theorem callr (x0 : WB) : Statement (.callr x0) := ⟨rfl, by decide, by decide, rfl⟩
theorem ret (x0 : WB) : Statement (.ret x0) := ⟨rfl, by decide, by decide, rfl⟩
theorem brk (x0 : WB) : Statement (.brk x0) := ⟨rfl, by decide, by decide, rfl⟩
theorem meet (x0 : WB) : Statement (.meet x0) := ⟨rfl, by decide, by decide, rfl⟩
theorem nop (x0 : W3) : Statement (.nop x0) := ⟨rfl, by decide, by decide, fun _ => rfl⟩
theorem exit (x0 : W3) : Statement (.exit x0) := ⟨rfl, by decide, by decide, fun _ => rfl⟩
theorem tail (x0 : W3) : Statement (.tail x0) := ⟨rfl, by decide, by decide, fun _ => rfl⟩
theorem trap (x0 : W3) : Statement (.trap x0) := ⟨rfl, by decide, by decide, fun _ => rfl⟩
theorem yield (x0 : W3) : Statement (.yield x0) := ⟨rfl, by decide, by decide, fun _ => rfl⟩
theorem spin (x0 : W3) : Statement (.spin x0) := ⟨rfl, by decide, by decide, fun _ => rfl⟩
theorem ld (x0 : WM) : Statement (.ld x0) := ⟨rfl, by decide, by decide, rfl⟩
theorem ldacq (x0 : WM) : Statement (.ldacq x0) := ⟨rfl, by decide, by decide, rfl⟩
theorem lddec (x0 : WM) : Statement (.lddec x0) := ⟨rfl, by decide, by decide, rfl⟩
theorem ldnt (x0 : WM) : Statement (.ldnt x0) := ⟨rfl, by decide, by decide, rfl⟩
theorem pref (x0 : WM) : Statement (.pref x0) := ⟨rfl, by decide, by decide, rfl⟩
theorem st (x0 : WM) : Statement (.st x0) := ⟨rfl, by decide, by decide, rfl⟩
theorem strel (x0 : WM) : Statement (.strel x0) := ⟨rfl, by decide, by decide, rfl⟩
theorem stnt (x0 : WM) : Statement (.stnt x0) := ⟨rfl, by decide, by decide, rfl⟩
theorem aadd (x0 : W3) : Statement (.aadd x0) := ⟨rfl, by decide, by decide, fun _ => rfl⟩
theorem amin (x0 : W3) : Statement (.amin x0) := ⟨rfl, by decide, by decide, fun _ => rfl⟩
theorem amax (x0 : W3) : Statement (.amax x0) := ⟨rfl, by decide, by decide, fun _ => rfl⟩
theorem aand (x0 : W3) : Statement (.aand x0) := ⟨rfl, by decide, by decide, fun _ => rfl⟩
theorem aor (x0 : W3) : Statement (.aor x0) := ⟨rfl, by decide, by decide, fun _ => rfl⟩
theorem axor (x0 : W3) : Statement (.axor x0) := ⟨rfl, by decide, by decide, fun _ => rfl⟩
theorem axch (x0 : W3) : Statement (.axch x0) := ⟨rfl, by decide, by decide, fun _ => rfl⟩
theorem acas (x0 : W3) : Statement (.acas x0) := ⟨rfl, by decide, by decide, fun _ => rfl⟩
theorem ainc (x0 : W3) : Statement (.ainc x0) := ⟨rfl, by decide, by decide, fun _ => rfl⟩
theorem adec (x0 : W3) : Statement (.adec x0) := ⟨rfl, by decide, by decide, fun _ => rfl⟩
theorem aaddf (x0 : W3) : Statement (.aaddf x0) := ⟨rfl, by decide, by decide, fun _ => rfl⟩
theorem radd (x0 : W3) : Statement (.radd x0) := ⟨rfl, by decide, by decide, fun _ => rfl⟩
theorem rmin (x0 : W3) : Statement (.rmin x0) := ⟨rfl, by decide, by decide, fun _ => rfl⟩
theorem rmax (x0 : W3) : Statement (.rmax x0) := ⟨rfl, by decide, by decide, fun _ => rfl⟩
theorem rand (x0 : W3) : Statement (.rand x0) := ⟨rfl, by decide, by decide, fun _ => rfl⟩
theorem ror (x0 : W3) : Statement (.ror x0) := ⟨rfl, by decide, by decide, fun _ => rfl⟩
theorem rxor (x0 : W3) : Statement (.rxor x0) := ⟨rfl, by decide, by decide, fun _ => rfl⟩
theorem raddf (x0 : W3) : Statement (.raddf x0) := ⟨rfl, by decide, by decide, fun _ => rfl⟩
theorem fence (x0 : W3) : Statement (.fence x0) := ⟨rfl, by decide, by decide, fun _ => rfl⟩
theorem acq (x0 : W3) : Statement (.acq x0) := ⟨rfl, by decide, by decide, fun _ => rfl⟩
theorem rel (x0 : W3) : Statement (.rel x0) := ⟨rfl, by decide, by decide, fun _ => rfl⟩
theorem regionInvalidate (x0 : W3) : Statement (.regionInvalidate x0) := ⟨rfl, by decide, by decide, fun h => by simp_all [Instr.formOk, ofW3]⟩
theorem regionRewrite (x0 : W3) : Statement (.regionRewrite x0) := ⟨rfl, by decide, by decide, fun h => by simp_all [Instr.formOk, ofW3]⟩
theorem waitm (x0 : W3) : Statement (.waitm x0) := ⟨rfl, by decide, by decide, fun _ => rfl⟩
theorem cpy (x0 : W3) : Statement (.cpy x0) := ⟨rfl, by decide, by decide, fun _ => rfl⟩
theorem gath (x0 : W3) : Statement (.gath x0) := ⟨rfl, by decide, by decide, fun _ => rfl⟩
theorem scat (x0 : W3) : Statement (.scat x0) := ⟨rfl, by decide, by decide, fun _ => rfl⟩
theorem coll (x0 : W3) : Statement (.coll x0) := ⟨rfl, by decide, by decide, fun _ => rfl⟩
theorem tagwa (x0 : W3) : Statement (.tagwa x0) := ⟨rfl, by decide, by decide, fun _ => rfl⟩
theorem tagwy (x0 : W3) : Statement (.tagwy x0) := ⟨rfl, by decide, by decide, fun _ => rfl⟩
theorem tagff (x0 : W3) : Statement (.tagff x0) := ⟨rfl, by decide, by decide, fun _ => rfl⟩
theorem tagclr (x0 : W3) : Statement (.tagclr x0) := ⟨rfl, by decide, by decide, fun _ => rfl⟩
theorem gongi (x0 : W3) : Statement (.gongi x0) := ⟨rfl, by decide, by decide, fun _ => rfl⟩
theorem gonga (x0 : W3) : Statement (.gonga x0) := ⟨rfl, by decide, by decide, fun _ => rfl⟩
theorem gongw (x0 : W3) : Statement (.gongw x0) := ⟨rfl, by decide, by decide, fun _ => rfl⟩
theorem gongt (x0 : W3) : Statement (.gongt x0) := ⟨rfl, by decide, by decide, fun _ => rfl⟩
theorem chset (x0 : W3) : Statement (.chset x0) := ⟨rfl, by decide, by decide, fun _ => rfl⟩
theorem chwait (x0 : W3) : Statement (.chwait x0) := ⟨rfl, by decide, by decide, fun _ => rfl⟩
theorem chclr (x0 : W3) : Statement (.chclr x0) := ⟨rfl, by decide, by decide, fun _ => rfl⟩
theorem mma (x0 : W3) : Statement (.mma x0) := ⟨rfl, by decide, by decide, fun _ => rfl⟩
theorem mzero (x0 : W3) : Statement (.mzero x0) := ⟨rfl, by decide, by decide, fun _ => rfl⟩
theorem mres (x0 : W3) : Statement (.mres x0) := ⟨rfl, by decide, by decide, fun _ => rfl⟩
theorem mcmp (x0 : W3) : Statement (.mcmp x0) := ⟨rfl, by decide, by decide, fun _ => rfl⟩
theorem msta (x0 : W3) : Statement (.msta x0) := ⟨rfl, by decide, by decide, fun _ => rfl⟩
theorem msave (x0 : W3) : Statement (.msave x0) := ⟨rfl, by decide, by decide, fun _ => rfl⟩
theorem mrest (x0 : W3) : Statement (.mrest x0) := ⟨rfl, by decide, by decide, fun _ => rfl⟩
theorem mldb (x0 : W3) : Statement (.mldb x0) := ⟨rfl, by decide, by decide, fun _ => rfl⟩
theorem manch (x0 : W3) : Statement (.manch x0) := ⟨rfl, by decide, by decide, fun _ => rfl⟩
theorem mbank (x0 : W3) : Statement (.mbank x0) := ⟨rfl, by decide, by decide, fun _ => rfl⟩
theorem launch (x0 : W3) : Statement (.launch x0) := ⟨rfl, by decide, by decide, fun _ => rfl⟩
theorem ldisp (x0 : W3) : Statement (.ldisp x0) := ⟨rfl, by decide, by decide, fun _ => rfl⟩
theorem lstat (x0 : W3) : Statement (.lstat x0) := ⟨rfl, by decide, by decide, fun _ => rfl⟩
theorem csrr (x0 : W3) : Statement (.csrr x0) := ⟨rfl, by decide, by decide, fun _ => rfl⟩
theorem csrw (x0 : W3) : Statement (.csrw x0) := ⟨rfl, by decide, by decide, fun _ => rfl⟩
theorem tlbinvRange (x0 : W3) : Statement (.tlbinvRange x0) := ⟨rfl, by decide, by decide, fun h => by simp_all [Instr.formOk, ofW3]⟩
theorem tlbinvCtx (x0 : W3) : Statement (.tlbinvCtx x0) := ⟨rfl, by decide, by decide, fun h => by simp_all [Instr.formOk, ofW3]⟩
theorem tlbinvPart (x0 : W3) : Statement (.tlbinvPart x0) := ⟨rfl, by decide, by decide, fun h => by simp_all [Instr.formOk, ofW3]⟩
theorem tlbinvAll (x0 : W3) : Statement (.tlbinvAll x0) := ⟨rfl, by decide, by decide, fun h => by simp_all [Instr.formOk, ofW3]⟩
theorem haltGrid (x0 : W3) : Statement (.haltGrid x0) := ⟨rfl, by decide, by decide, fun h => by simp_all [Instr.formOk, ofW3]⟩
theorem haltCtx (x0 : W3) : Statement (.haltCtx x0) := ⟨rfl, by decide, by decide, fun h => by simp_all [Instr.formOk, ofW3]⟩
theorem resumeGrid (x0 : W3) : Statement (.resumeGrid x0) := ⟨rfl, by decide, by decide, fun h => by simp_all [Instr.formOk, ofW3]⟩
theorem resumeCtx (x0 : W3) : Statement (.resumeCtx x0) := ⟨rfl, by decide, by decide, fun h => by simp_all [Instr.formOk, ofW3]⟩
theorem tret (x0 : W3) : Statement (.tret x0) := ⟨rfl, by decide, by decide, fun _ => rfl⟩
theorem ctxsv (x0 : W3) : Statement (.ctxsv x0) := ⟨rfl, by decide, by decide, fun _ => rfl⟩
theorem ctxrs (x0 : W3) : Statement (.ctxrs x0) := ⟨rfl, by decide, by decide, fun _ => rfl⟩
theorem errclr (x0 : W3) : Statement (.errclr x0) := ⟨rfl, by decide, by decide, fun h => by simp_all [Instr.formOk, ofW3]⟩
theorem errclrCo (x0 : W3) : Statement (.errclrCo x0) := ⟨rfl, by decide, by decide, fun h => by simp_all [Instr.formOk, ofW3]⟩
theorem knell (x0 : W3) : Statement (.knell x0) := ⟨rfl, by decide, by decide, fun _ => rfl⟩
theorem loadDataReturn x0 : Statement (.loadDataReturn x0) := rfl
theorem storeDrain x0 : Statement (.storeDrain x0) := rfl
theorem pageWalk x0 : Statement (.pageWalk x0) := rfl
theorem writeBlockRetry x0 : Statement (.writeBlockRetry x0) := rfl
theorem registrationRequest x0 : Statement (.registrationRequest x0) := rfl
theorem bankRead x0 : Statement (.bankRead x0) := rfl
theorem bankAccess x0 : Statement (.bankAccess x0) := rfl
theorem forwardReply x0 : Statement (.forwardReply x0) := rfl
theorem releasePush x0 : Statement (.releasePush x0) := rfl
theorem pushAcknowledge x0 : Statement (.pushAcknowledge x0) := rfl
theorem sectionCacheWriteBack x0 x1 : Statement (.sectionCacheWriteBack x0 x1) := rfl
theorem llcFill x0 x1 : Statement (.llcFill x0 x1) := rfl
theorem wayUnitDrain x0 x1 : Statement (.wayUnitDrain x0 x1) := rfl
theorem correctableError x0 x1 : Statement (.correctableError x0 x1) := rfl
theorem uncorrectableError x0 x1 : Statement (.uncorrectableError x0 x1) := rfl
theorem watchFire x0 : Statement (.watchFire x0) := rfl
theorem waitmPoll x0 : Statement (.waitmPoll x0) := rfl
theorem waitmLimitExpiry x0 : Statement (.waitmLimitExpiry x0) := rfl
theorem commandDispatch x0 : Statement (.commandDispatch x0) := rfl
theorem copyBeat x0 : Statement (.copyBeat x0) := rfl
theorem commandCompletion x0 : Statement (.commandCompletion x0) := rfl
theorem weightLoadComplete x0 : Statement (.weightLoadComplete x0) := rfl
theorem callReplyFetch x0 : Statement (.callReplyFetch x0) := rfl
theorem mmaRowsReady x0 : Statement (.mmaRowsReady x0) := rfl
theorem fuseWaitExpiry x0 : Statement (.fuseWaitExpiry x0) := rfl
theorem warpRotation x0 : Statement (.warpRotation x0) := rfl
theorem spinDemotion x0 : Statement (.spinDemotion x0) := rfl
theorem watchdog x0 : Statement (.watchdog x0) := rfl
theorem stallSample x0 : Statement (.stallSample x0) := rfl
theorem gatedChimeWait x0 x1 x2 : Statement (.gatedChimeWait x0 x1 x2) := rfl
theorem clusterAdmission x0 : Statement (.clusterAdmission x0) := rfl
theorem clusterStart x0 : Statement (.clusterStart x0) := rfl
theorem gridCompletion x0 x1 : Statement (.gridCompletion x0 x1) := rfl
theorem engineStopPoint x0 x1 : Statement (.engineStopPoint x0 x1) := rfl
theorem rollCallComplete x0 : Statement (.rollCallComplete x0) := rfl
theorem preemptDelivery x0 : Statement (.preemptDelivery x0) := rfl
theorem quiescenceComplete x0 x1 : Statement (.quiescenceComplete x0 x1) := rfl
theorem sliceExpiry x0 : Statement (.sliceExpiry x0) := rfl
theorem hostCompletionTimeout x0 : Statement (.hostCompletionTimeout x0) := rfl
theorem partitionReset x0 : Statement (.partitionReset x0) := rfl
theorem engineReset x0 : Statement (.engineReset x0) := rfl
theorem linkReset x0 : Statement (.linkReset x0) := rfl
theorem linkRetrain x0 x1 x2 : Statement (.linkRetrain x0 x1 x2) := rfl
theorem barRead x0 x1 x2 x3 : Statement (.barRead x0 x1 x2 x3) := rfl
theorem barWrite x0 x1 x2 x3 x4 : Statement (.barWrite x0 x1 x2 x3 x4) := rfl
theorem contextHaltCmd x0 : Statement (.contextHaltCmd x0) := rfl
theorem contextResumeCmd x0 : Statement (.contextResumeCmd x0) := rfl
theorem contextAbortCmd x0 : Statement (.contextAbortCmd x0) := rfl
theorem partitionHaltCmd x0 : Statement (.partitionHaltCmd x0) := rfl
theorem partitionResumeCmd x0 : Statement (.partitionResumeCmd x0) := rfl
theorem partitionAbortCmd x0 : Statement (.partitionAbortCmd x0) := rfl
theorem pcknell x0 x1 : Statement (.pcknell x0 x1) := rfl
theorem vfFunctionLevelReset x0 : Statement (.vfFunctionLevelReset x0) := rfl
theorem partitionTableWrite x0 x1 : Statement (.partitionTableWrite x0 x1) := rfl
theorem vfTableWrite x0 x1 : Statement (.vfTableWrite x0 x1) := rfl
theorem threadStart x0 : Statement (.threadStart x0) := rfl
theorem llcmapWrite x0 x1 : Statement (.llcmapWrite x0 x1) := rfl
theorem registerWrite x0 x1 x2 : Statement (.registerWrite x0 x1 x2) := rfl
theorem portSend x0 x1 : Statement (.portSend x0 x1) := rfl
theorem fabricInbound x0 x1 : Statement (.fabricInbound x0 x1) := rfl
theorem portRemoteAck x0 x1 : Statement (.portRemoteAck x0 x1) := rfl
theorem tlbinvCompletion x0 : Statement (.tlbinvCompletion x0) := rfl
theorem accessCounterIncrement : Statement .accessCounterIncrement := rfl
theorem preemptLimitExpiry : Statement .preemptLimitExpiry := rfl
theorem knellDecision : Statement .knellDecision := rfl
theorem knellRecompute : Statement .knellRecompute := rfl
theorem knellDeadline : Statement .knellDeadline := rfl
theorem powerGood : Statement (.powerGood) := rfl
theorem debugStop : Statement (.debugStop) := rfl
theorem attestationReport : Statement (.attestationReport) := rfl
theorem pfFunctionLevelReset : Statement .pfFunctionLevelReset := rfl
theorem illegalInstruction : Statement .illegalInstruction := rfl
theorem standby : Statement .standby := rfl
theorem packageReset : Statement (.packageReset) := rfl
theorem clockAndVoltageChange : Statement .clockAndVoltageChange := rfl

end Sys2Proof.Laws.Encoding
end

