-- ==== Sys2Proof/Laws/State.lean ====
section
/-! SUPPORT. What each update of the state leaves in each field, so that no proof unfolds a record update. -/

namespace Sys2Proof.Machine

/-! ### `State.updMe` -/

@[simp] theorem State.updMe_tick (s : State) (f : Agent → Agent) : (s.updMe f).tick = s.tick := rfl
@[simp] theorem State.updMe_platform (s : State) (f : Agent → Agent) : (s.updMe f).platform = s.platform := rfl
@[simp] theorem State.updMe_product1T (s : State) (f : Agent → Agent) : (s.updMe f).product1T = s.product1T := rfl
@[simp] theorem State.updMe_clocks (s : State) (f : Agent → Agent) : (s.updMe f).clocks = s.clocks := rfl
@[simp] theorem State.updMe_mem (s : State) (f : Agent → Agent) : (s.updMe f).mem = s.mem := rfl
@[simp] theorem State.updMe_hostLines (s : State) (f : Agent → Agent) : (s.updMe f).hostLines = s.hostLines := rfl
@[simp] theorem State.updMe_lines (s : State) (f : Agent → Agent) : (s.updMe f).lines = s.lines := rfl
@[simp] theorem State.updMe_ways (s : State) (f : Agent → Agent) : (s.updMe f).ways = s.ways := rfl
@[simp] theorem State.updMe_forwards (s : State) (f : Agent → Agent) : (s.updMe f).forwards = s.forwards := rfl
@[simp] theorem State.updMe_copies (s : State) (f : Agent → Agent) : (s.updMe f).copies = s.copies := rfl
@[simp] theorem State.updMe_held (s : State) (f : Agent → Agent) : (s.updMe f).held = s.held := rfl
@[simp] theorem State.updMe_openLines (s : State) (f : Agent → Agent) : (s.updMe f).openLines = s.openLines := rfl
@[simp] theorem State.updMe_clean (s : State) (f : Agent → Agent) : (s.updMe f).clean = s.clean := rfl
@[simp] theorem State.updMe_firstOut (s : State) (f : Agent → Agent) : (s.updMe f).firstOut = s.firstOut := rfl
@[simp] theorem State.updMe_exact (s : State) (f : Agent → Agent) : (s.updMe f).exact = s.exact := rfl
@[simp] theorem State.updMe_accesses (s : State) (f : Agent → Agent) : (s.updMe f).accesses = s.accesses := rfl
@[simp] theorem State.updMe_regReqs (s : State) (f : Agent → Agent) : (s.updMe f).regReqs = s.regReqs := rfl
@[simp] theorem State.updMe_releases (s : State) (f : Agent → Agent) : (s.updMe f).releases = s.releases := rfl
@[simp] theorem State.updMe_tlb (s : State) (f : Agent → Agent) : (s.updMe f).tlb = s.tlb := rfl
@[simp] theorem State.updMe_walks (s : State) (f : Agent → Agent) : (s.updMe f).walks = s.walks := rfl
@[simp] theorem State.updMe_walkCache (s : State) (f : Agent → Agent) : (s.updMe f).walkCache = s.walkCache := rfl
@[simp] theorem State.updMe_counts (s : State) (f : Agent → Agent) : (s.updMe f).counts = s.counts := rfl
@[simp] theorem State.updMe_rf (s : State) (f : Agent → Agent) : (s.updMe f).rf = s.rf := rfl
@[simp] theorem State.updMe_rfPoison (s : State) (f : Agent → Agent) : (s.updMe f).rfPoison = s.rfPoison := rfl
@[simp] theorem State.updMe_me (s : State) (f : Agent → Agent) : (s.updMe f).me = f s.me := rfl
@[simp] theorem State.updMe_issuePc (s : State) (f : Agent → Agent) : (s.updMe f).issuePc = s.issuePc := rfl
@[simp] theorem State.updMe_others (s : State) (f : Agent → Agent) : (s.updMe f).others = s.others := rfl
@[simp] theorem State.updMe_clusters (s : State) (f : Agent → Agent) : (s.updMe f).clusters = s.clusters := rfl
@[simp] theorem State.updMe_cores (s : State) (f : Agent → Agent) : (s.updMe f).cores = s.cores := rfl
@[simp] theorem State.updMe_locks (s : State) (f : Agent → Agent) : (s.updMe f).locks = s.locks := rfl
@[simp] theorem State.updMe_scratch (s : State) (f : Agent → Agent) : (s.updMe f).scratch = s.scratch := rfl
@[simp] theorem State.updMe_scratchPoison (s : State) (f : Agent → Agent) : (s.updMe f).scratchPoison = s.scratchPoison := rfl
@[simp] theorem State.updMe_gongJoins (s : State) (f : Agent → Agent) : (s.updMe f).gongJoins = s.gongJoins := rfl
@[simp] theorem State.updMe_cmds (s : State) (f : Agent → Agent) : (s.updMe f).cmds = s.cmds := rfl
@[simp] theorem State.updMe_engineDead (s : State) (f : Agent → Agent) : (s.updMe f).engineDead = s.engineDead := rfl
@[simp] theorem State.updMe_engineTurn (s : State) (f : Agent → Agent) : (s.updMe f).engineTurn = s.engineTurn := rfl
@[simp] theorem State.updMe_threadTurn (s : State) (f : Agent → Agent) : (s.updMe f).threadTurn = s.threadTurn := rfl
@[simp] theorem State.updMe_parts (s : State) (f : Agent → Agent) : (s.updMe f).parts = s.parts := rfl
@[simp] theorem State.updMe_ptable (s : State) (f : Agent → Agent) : (s.updMe f).ptable = s.ptable := rfl
@[simp] theorem State.updMe_vfs (s : State) (f : Agent → Agent) : (s.updMe f).vfs = s.vfs := rfl
@[simp] theorem State.updMe_msix (s : State) (f : Agent → Agent) : (s.updMe f).msix = s.msix := rfl
@[simp] theorem State.updMe_ports (s : State) (f : Agent → Agent) : (s.updMe f).ports = s.ports := rfl
@[simp] theorem State.updMe_ops (s : State) (f : Agent → Agent) : (s.updMe f).ops = s.ops := rfl
@[simp] theorem State.updMe_images (s : State) (f : Agent → Agent) : (s.updMe f).images = s.images := rfl
@[simp] theorem State.updMe_hostOut (s : State) (f : Agent → Agent) : (s.updMe f).hostOut = s.hostOut := rfl
@[simp] theorem State.updMe_plan (s : State) (f : Agent → Agent) : (s.updMe f).plan = s.plan := rfl
@[simp] theorem State.updMe_free (s : State) (f : Agent → Agent) : (s.updMe f).free = s.free := rfl
@[simp] theorem State.updMe_nextId (s : State) (f : Agent → Agent) : (s.updMe f).nextId = s.nextId := rfl

/-! ### `State.takeFree` -/

@[simp] theorem State.takeFree_tick (s : State) : (s.takeFree).tick = s.tick := rfl
@[simp] theorem State.takeFree_platform (s : State) : (s.takeFree).platform = s.platform := rfl
@[simp] theorem State.takeFree_product1T (s : State) : (s.takeFree).product1T = s.product1T := rfl
@[simp] theorem State.takeFree_clocks (s : State) : (s.takeFree).clocks = s.clocks := rfl
@[simp] theorem State.takeFree_mem (s : State) : (s.takeFree).mem = s.mem := rfl
@[simp] theorem State.takeFree_hostLines (s : State) : (s.takeFree).hostLines = s.hostLines := rfl
@[simp] theorem State.takeFree_lines (s : State) : (s.takeFree).lines = s.lines := rfl
@[simp] theorem State.takeFree_ways (s : State) : (s.takeFree).ways = s.ways := rfl
@[simp] theorem State.takeFree_forwards (s : State) : (s.takeFree).forwards = s.forwards := rfl
@[simp] theorem State.takeFree_copies (s : State) : (s.takeFree).copies = s.copies := rfl
@[simp] theorem State.takeFree_held (s : State) : (s.takeFree).held = s.held := rfl
@[simp] theorem State.takeFree_openLines (s : State) : (s.takeFree).openLines = s.openLines := rfl
@[simp] theorem State.takeFree_clean (s : State) : (s.takeFree).clean = s.clean := rfl
@[simp] theorem State.takeFree_firstOut (s : State) : (s.takeFree).firstOut = s.firstOut := rfl
@[simp] theorem State.takeFree_exact (s : State) : (s.takeFree).exact = s.exact := rfl
@[simp] theorem State.takeFree_accesses (s : State) : (s.takeFree).accesses = s.accesses := rfl
@[simp] theorem State.takeFree_regReqs (s : State) : (s.takeFree).regReqs = s.regReqs := rfl
@[simp] theorem State.takeFree_releases (s : State) : (s.takeFree).releases = s.releases := rfl
@[simp] theorem State.takeFree_tlb (s : State) : (s.takeFree).tlb = s.tlb := rfl
@[simp] theorem State.takeFree_walks (s : State) : (s.takeFree).walks = s.walks := rfl
@[simp] theorem State.takeFree_walkCache (s : State) : (s.takeFree).walkCache = s.walkCache := rfl
@[simp] theorem State.takeFree_counts (s : State) : (s.takeFree).counts = s.counts := rfl
@[simp] theorem State.takeFree_rf (s : State) : (s.takeFree).rf = s.rf := rfl
@[simp] theorem State.takeFree_rfPoison (s : State) : (s.takeFree).rfPoison = s.rfPoison := rfl
@[simp] theorem State.takeFree_me (s : State) : (s.takeFree).me = s.me := rfl
@[simp] theorem State.takeFree_issuePc (s : State) : (s.takeFree).issuePc = s.issuePc := rfl
@[simp] theorem State.takeFree_others (s : State) : (s.takeFree).others = s.others := rfl
@[simp] theorem State.takeFree_clusters (s : State) : (s.takeFree).clusters = s.clusters := rfl
@[simp] theorem State.takeFree_cores (s : State) : (s.takeFree).cores = s.cores := rfl
@[simp] theorem State.takeFree_locks (s : State) : (s.takeFree).locks = s.locks := rfl
@[simp] theorem State.takeFree_scratch (s : State) : (s.takeFree).scratch = s.scratch := rfl
@[simp] theorem State.takeFree_scratchPoison (s : State) : (s.takeFree).scratchPoison = s.scratchPoison := rfl
@[simp] theorem State.takeFree_gongJoins (s : State) : (s.takeFree).gongJoins = s.gongJoins := rfl
@[simp] theorem State.takeFree_cmds (s : State) : (s.takeFree).cmds = s.cmds := rfl
@[simp] theorem State.takeFree_engineDead (s : State) : (s.takeFree).engineDead = s.engineDead := rfl
@[simp] theorem State.takeFree_engineTurn (s : State) : (s.takeFree).engineTurn = s.engineTurn := rfl
@[simp] theorem State.takeFree_threadTurn (s : State) : (s.takeFree).threadTurn = s.threadTurn := rfl
@[simp] theorem State.takeFree_parts (s : State) : (s.takeFree).parts = s.parts := rfl
@[simp] theorem State.takeFree_ptable (s : State) : (s.takeFree).ptable = s.ptable := rfl
@[simp] theorem State.takeFree_vfs (s : State) : (s.takeFree).vfs = s.vfs := rfl
@[simp] theorem State.takeFree_msix (s : State) : (s.takeFree).msix = s.msix := rfl
@[simp] theorem State.takeFree_ports (s : State) : (s.takeFree).ports = s.ports := rfl
@[simp] theorem State.takeFree_ops (s : State) : (s.takeFree).ops = s.ops := rfl
@[simp] theorem State.takeFree_images (s : State) : (s.takeFree).images = s.images := rfl
@[simp] theorem State.takeFree_hostOut (s : State) : (s.takeFree).hostOut = s.hostOut := rfl
@[simp] theorem State.takeFree_plan (s : State) : (s.takeFree).plan = s.plan := rfl
@[simp] theorem State.takeFree_free (s : State) : (s.takeFree).free = s.free + 1 := rfl
@[simp] theorem State.takeFree_nextId (s : State) : (s.takeFree).nextId = s.nextId := rfl

/-! ### `State.updCore` -/

@[simp] theorem State.updCore_tick (s : State) (c : Nat) (f : Core → Core) : (s.updCore c f).tick = s.tick := rfl
@[simp] theorem State.updCore_platform (s : State) (c : Nat) (f : Core → Core) : (s.updCore c f).platform = s.platform := rfl
@[simp] theorem State.updCore_product1T (s : State) (c : Nat) (f : Core → Core) : (s.updCore c f).product1T = s.product1T := rfl
@[simp] theorem State.updCore_clocks (s : State) (c : Nat) (f : Core → Core) : (s.updCore c f).clocks = s.clocks := rfl
@[simp] theorem State.updCore_mem (s : State) (c : Nat) (f : Core → Core) : (s.updCore c f).mem = s.mem := rfl
@[simp] theorem State.updCore_hostLines (s : State) (c : Nat) (f : Core → Core) : (s.updCore c f).hostLines = s.hostLines := rfl
@[simp] theorem State.updCore_lines (s : State) (c : Nat) (f : Core → Core) : (s.updCore c f).lines = s.lines := rfl
@[simp] theorem State.updCore_ways (s : State) (c : Nat) (f : Core → Core) : (s.updCore c f).ways = s.ways := rfl
@[simp] theorem State.updCore_forwards (s : State) (c : Nat) (f : Core → Core) : (s.updCore c f).forwards = s.forwards := rfl
@[simp] theorem State.updCore_copies (s : State) (c : Nat) (f : Core → Core) : (s.updCore c f).copies = s.copies := rfl
@[simp] theorem State.updCore_held (s : State) (c : Nat) (f : Core → Core) : (s.updCore c f).held = s.held := rfl
@[simp] theorem State.updCore_openLines (s : State) (c : Nat) (f : Core → Core) : (s.updCore c f).openLines = s.openLines := rfl
@[simp] theorem State.updCore_clean (s : State) (c : Nat) (f : Core → Core) : (s.updCore c f).clean = s.clean := rfl
@[simp] theorem State.updCore_firstOut (s : State) (c : Nat) (f : Core → Core) : (s.updCore c f).firstOut = s.firstOut := rfl
@[simp] theorem State.updCore_exact (s : State) (c : Nat) (f : Core → Core) : (s.updCore c f).exact = s.exact := rfl
@[simp] theorem State.updCore_accesses (s : State) (c : Nat) (f : Core → Core) : (s.updCore c f).accesses = s.accesses := rfl
@[simp] theorem State.updCore_regReqs (s : State) (c : Nat) (f : Core → Core) : (s.updCore c f).regReqs = s.regReqs := rfl
@[simp] theorem State.updCore_releases (s : State) (c : Nat) (f : Core → Core) : (s.updCore c f).releases = s.releases := rfl
@[simp] theorem State.updCore_tlb (s : State) (c : Nat) (f : Core → Core) : (s.updCore c f).tlb = s.tlb := rfl
@[simp] theorem State.updCore_walks (s : State) (c : Nat) (f : Core → Core) : (s.updCore c f).walks = s.walks := rfl
@[simp] theorem State.updCore_walkCache (s : State) (c : Nat) (f : Core → Core) : (s.updCore c f).walkCache = s.walkCache := rfl
@[simp] theorem State.updCore_counts (s : State) (c : Nat) (f : Core → Core) : (s.updCore c f).counts = s.counts := rfl
@[simp] theorem State.updCore_rf (s : State) (c : Nat) (f : Core → Core) : (s.updCore c f).rf = s.rf := rfl
@[simp] theorem State.updCore_rfPoison (s : State) (c : Nat) (f : Core → Core) : (s.updCore c f).rfPoison = s.rfPoison := rfl
@[simp] theorem State.updCore_me (s : State) (c : Nat) (f : Core → Core) : (s.updCore c f).me = s.me := rfl
@[simp] theorem State.updCore_issuePc (s : State) (c : Nat) (f : Core → Core) : (s.updCore c f).issuePc = s.issuePc := rfl
@[simp] theorem State.updCore_others (s : State) (c : Nat) (f : Core → Core) : (s.updCore c f).others = s.others := rfl
@[simp] theorem State.updCore_clusters (s : State) (c : Nat) (f : Core → Core) : (s.updCore c f).clusters = s.clusters := rfl
@[simp] theorem State.updCore_cores (s : State) (c : Nat) (f : Core → Core) : (s.updCore c f).cores = s.cores.set c (f (s.coreOf c)) := rfl
@[simp] theorem State.updCore_locks (s : State) (c : Nat) (f : Core → Core) : (s.updCore c f).locks = s.locks := rfl
@[simp] theorem State.updCore_scratch (s : State) (c : Nat) (f : Core → Core) : (s.updCore c f).scratch = s.scratch := rfl
@[simp] theorem State.updCore_scratchPoison (s : State) (c : Nat) (f : Core → Core) : (s.updCore c f).scratchPoison = s.scratchPoison := rfl
@[simp] theorem State.updCore_gongJoins (s : State) (c : Nat) (f : Core → Core) : (s.updCore c f).gongJoins = s.gongJoins := rfl
@[simp] theorem State.updCore_cmds (s : State) (c : Nat) (f : Core → Core) : (s.updCore c f).cmds = s.cmds := rfl
@[simp] theorem State.updCore_engineDead (s : State) (c : Nat) (f : Core → Core) : (s.updCore c f).engineDead = s.engineDead := rfl
@[simp] theorem State.updCore_engineTurn (s : State) (c : Nat) (f : Core → Core) : (s.updCore c f).engineTurn = s.engineTurn := rfl
@[simp] theorem State.updCore_threadTurn (s : State) (c : Nat) (f : Core → Core) : (s.updCore c f).threadTurn = s.threadTurn := rfl
@[simp] theorem State.updCore_parts (s : State) (c : Nat) (f : Core → Core) : (s.updCore c f).parts = s.parts := rfl
@[simp] theorem State.updCore_ptable (s : State) (c : Nat) (f : Core → Core) : (s.updCore c f).ptable = s.ptable := rfl
@[simp] theorem State.updCore_vfs (s : State) (c : Nat) (f : Core → Core) : (s.updCore c f).vfs = s.vfs := rfl
@[simp] theorem State.updCore_msix (s : State) (c : Nat) (f : Core → Core) : (s.updCore c f).msix = s.msix := rfl
@[simp] theorem State.updCore_ports (s : State) (c : Nat) (f : Core → Core) : (s.updCore c f).ports = s.ports := rfl
@[simp] theorem State.updCore_ops (s : State) (c : Nat) (f : Core → Core) : (s.updCore c f).ops = s.ops := rfl
@[simp] theorem State.updCore_images (s : State) (c : Nat) (f : Core → Core) : (s.updCore c f).images = s.images := rfl
@[simp] theorem State.updCore_hostOut (s : State) (c : Nat) (f : Core → Core) : (s.updCore c f).hostOut = s.hostOut := rfl
@[simp] theorem State.updCore_plan (s : State) (c : Nat) (f : Core → Core) : (s.updCore c f).plan = s.plan := rfl
@[simp] theorem State.updCore_free (s : State) (c : Nat) (f : Core → Core) : (s.updCore c f).free = s.free := rfl
@[simp] theorem State.updCore_nextId (s : State) (c : Nat) (f : Core → Core) : (s.updCore c f).nextId = s.nextId := rfl

/-! ### `State.setScratch` -/

@[simp] theorem State.setScratch_tick (s : State) (w : Nat) (v : Word) : (s.setScratch w v).tick = s.tick := rfl
@[simp] theorem State.setScratch_platform (s : State) (w : Nat) (v : Word) : (s.setScratch w v).platform = s.platform := rfl
@[simp] theorem State.setScratch_product1T (s : State) (w : Nat) (v : Word) : (s.setScratch w v).product1T = s.product1T := rfl
@[simp] theorem State.setScratch_clocks (s : State) (w : Nat) (v : Word) : (s.setScratch w v).clocks = s.clocks := rfl
@[simp] theorem State.setScratch_mem (s : State) (w : Nat) (v : Word) : (s.setScratch w v).mem = s.mem := rfl
@[simp] theorem State.setScratch_hostLines (s : State) (w : Nat) (v : Word) : (s.setScratch w v).hostLines = s.hostLines := rfl
@[simp] theorem State.setScratch_lines (s : State) (w : Nat) (v : Word) : (s.setScratch w v).lines = s.lines := rfl
@[simp] theorem State.setScratch_ways (s : State) (w : Nat) (v : Word) : (s.setScratch w v).ways = s.ways := rfl
@[simp] theorem State.setScratch_forwards (s : State) (w : Nat) (v : Word) : (s.setScratch w v).forwards = s.forwards := rfl
@[simp] theorem State.setScratch_copies (s : State) (w : Nat) (v : Word) : (s.setScratch w v).copies = s.copies := rfl
@[simp] theorem State.setScratch_held (s : State) (w : Nat) (v : Word) : (s.setScratch w v).held = s.held := rfl
@[simp] theorem State.setScratch_openLines (s : State) (w : Nat) (v : Word) : (s.setScratch w v).openLines = s.openLines := rfl
@[simp] theorem State.setScratch_clean (s : State) (w : Nat) (v : Word) : (s.setScratch w v).clean = s.clean := rfl
@[simp] theorem State.setScratch_firstOut (s : State) (w : Nat) (v : Word) : (s.setScratch w v).firstOut = s.firstOut := rfl
@[simp] theorem State.setScratch_exact (s : State) (w : Nat) (v : Word) : (s.setScratch w v).exact = s.exact := rfl
@[simp] theorem State.setScratch_accesses (s : State) (w : Nat) (v : Word) : (s.setScratch w v).accesses = s.accesses := rfl
@[simp] theorem State.setScratch_regReqs (s : State) (w : Nat) (v : Word) : (s.setScratch w v).regReqs = s.regReqs := rfl
@[simp] theorem State.setScratch_releases (s : State) (w : Nat) (v : Word) : (s.setScratch w v).releases = s.releases := rfl
@[simp] theorem State.setScratch_tlb (s : State) (w : Nat) (v : Word) : (s.setScratch w v).tlb = s.tlb := rfl
@[simp] theorem State.setScratch_walks (s : State) (w : Nat) (v : Word) : (s.setScratch w v).walks = s.walks := rfl
@[simp] theorem State.setScratch_walkCache (s : State) (w : Nat) (v : Word) : (s.setScratch w v).walkCache = s.walkCache := rfl
@[simp] theorem State.setScratch_counts (s : State) (w : Nat) (v : Word) : (s.setScratch w v).counts = s.counts := rfl
@[simp] theorem State.setScratch_rf (s : State) (w : Nat) (v : Word) : (s.setScratch w v).rf = s.rf := rfl
@[simp] theorem State.setScratch_rfPoison (s : State) (w : Nat) (v : Word) : (s.setScratch w v).rfPoison = s.rfPoison := rfl
@[simp] theorem State.setScratch_me (s : State) (w : Nat) (v : Word) : (s.setScratch w v).me = s.me := rfl
@[simp] theorem State.setScratch_issuePc (s : State) (w : Nat) (v : Word) : (s.setScratch w v).issuePc = s.issuePc := rfl
@[simp] theorem State.setScratch_others (s : State) (w : Nat) (v : Word) : (s.setScratch w v).others = s.others := rfl
@[simp] theorem State.setScratch_clusters (s : State) (w : Nat) (v : Word) : (s.setScratch w v).clusters = s.clusters := rfl
@[simp] theorem State.setScratch_cores (s : State) (w : Nat) (v : Word) : (s.setScratch w v).cores = s.cores := rfl
@[simp] theorem State.setScratch_locks (s : State) (w : Nat) (v : Word) : (s.setScratch w v).locks = s.locks := rfl
@[simp] theorem State.setScratch_scratch (s : State) (w : Nat) (v : Word) : (s.setScratch w v).scratch = Memory.setWord s.scratch w v := rfl
@[simp] theorem State.setScratch_scratchPoison (s : State) (w : Nat) (v : Word) : (s.setScratch w v).scratchPoison = s.scratchPoison := rfl
@[simp] theorem State.setScratch_gongJoins (s : State) (w : Nat) (v : Word) : (s.setScratch w v).gongJoins = s.gongJoins := rfl
@[simp] theorem State.setScratch_cmds (s : State) (w : Nat) (v : Word) : (s.setScratch w v).cmds = s.cmds := rfl
@[simp] theorem State.setScratch_engineDead (s : State) (w : Nat) (v : Word) : (s.setScratch w v).engineDead = s.engineDead := rfl
@[simp] theorem State.setScratch_engineTurn (s : State) (w : Nat) (v : Word) : (s.setScratch w v).engineTurn = s.engineTurn := rfl
@[simp] theorem State.setScratch_threadTurn (s : State) (w : Nat) (v : Word) : (s.setScratch w v).threadTurn = s.threadTurn := rfl
@[simp] theorem State.setScratch_parts (s : State) (w : Nat) (v : Word) : (s.setScratch w v).parts = s.parts := rfl
@[simp] theorem State.setScratch_ptable (s : State) (w : Nat) (v : Word) : (s.setScratch w v).ptable = s.ptable := rfl
@[simp] theorem State.setScratch_vfs (s : State) (w : Nat) (v : Word) : (s.setScratch w v).vfs = s.vfs := rfl
@[simp] theorem State.setScratch_msix (s : State) (w : Nat) (v : Word) : (s.setScratch w v).msix = s.msix := rfl
@[simp] theorem State.setScratch_ports (s : State) (w : Nat) (v : Word) : (s.setScratch w v).ports = s.ports := rfl
@[simp] theorem State.setScratch_ops (s : State) (w : Nat) (v : Word) : (s.setScratch w v).ops = s.ops := rfl
@[simp] theorem State.setScratch_images (s : State) (w : Nat) (v : Word) : (s.setScratch w v).images = s.images := rfl
@[simp] theorem State.setScratch_hostOut (s : State) (w : Nat) (v : Word) : (s.setScratch w v).hostOut = s.hostOut := rfl
@[simp] theorem State.setScratch_plan (s : State) (w : Nat) (v : Word) : (s.setScratch w v).plan = s.plan := rfl
@[simp] theorem State.setScratch_free (s : State) (w : Nat) (v : Word) : (s.setScratch w v).free = s.free := rfl
@[simp] theorem State.setScratch_nextId (s : State) (w : Nat) (v : Word) : (s.setScratch w v).nextId = s.nextId := rfl

/-! ### `State.setReg` and `State.setRegs` -/

@[simp] theorem State.setReg_tick (s : State) (l n : Nat) (v : Word) : (s.setReg l n v).tick = s.tick := rfl
@[simp] theorem State.setReg_platform (s : State) (l n : Nat) (v : Word) : (s.setReg l n v).platform = s.platform := rfl
@[simp] theorem State.setReg_product1T (s : State) (l n : Nat) (v : Word) : (s.setReg l n v).product1T = s.product1T := rfl
@[simp] theorem State.setReg_clocks (s : State) (l n : Nat) (v : Word) : (s.setReg l n v).clocks = s.clocks := rfl
@[simp] theorem State.setReg_mem (s : State) (l n : Nat) (v : Word) : (s.setReg l n v).mem = s.mem := rfl
@[simp] theorem State.setReg_hostLines (s : State) (l n : Nat) (v : Word) : (s.setReg l n v).hostLines = s.hostLines := rfl
@[simp] theorem State.setReg_lines (s : State) (l n : Nat) (v : Word) : (s.setReg l n v).lines = s.lines := rfl
@[simp] theorem State.setReg_ways (s : State) (l n : Nat) (v : Word) : (s.setReg l n v).ways = s.ways := rfl
@[simp] theorem State.setReg_forwards (s : State) (l n : Nat) (v : Word) : (s.setReg l n v).forwards = s.forwards := rfl
@[simp] theorem State.setReg_copies (s : State) (l n : Nat) (v : Word) : (s.setReg l n v).copies = s.copies := rfl
@[simp] theorem State.setReg_held (s : State) (l n : Nat) (v : Word) : (s.setReg l n v).held = s.held := rfl
@[simp] theorem State.setReg_openLines (s : State) (l n : Nat) (v : Word) : (s.setReg l n v).openLines = s.openLines := rfl
@[simp] theorem State.setReg_clean (s : State) (l n : Nat) (v : Word) : (s.setReg l n v).clean = s.clean := rfl
@[simp] theorem State.setReg_firstOut (s : State) (l n : Nat) (v : Word) : (s.setReg l n v).firstOut = s.firstOut := rfl
@[simp] theorem State.setReg_exact (s : State) (l n : Nat) (v : Word) : (s.setReg l n v).exact = s.exact := rfl
@[simp] theorem State.setReg_accesses (s : State) (l n : Nat) (v : Word) : (s.setReg l n v).accesses = s.accesses := rfl
@[simp] theorem State.setReg_regReqs (s : State) (l n : Nat) (v : Word) : (s.setReg l n v).regReqs = s.regReqs := rfl
@[simp] theorem State.setReg_releases (s : State) (l n : Nat) (v : Word) : (s.setReg l n v).releases = s.releases := rfl
@[simp] theorem State.setReg_tlb (s : State) (l n : Nat) (v : Word) : (s.setReg l n v).tlb = s.tlb := rfl
@[simp] theorem State.setReg_walks (s : State) (l n : Nat) (v : Word) : (s.setReg l n v).walks = s.walks := rfl
@[simp] theorem State.setReg_walkCache (s : State) (l n : Nat) (v : Word) : (s.setReg l n v).walkCache = s.walkCache := rfl
@[simp] theorem State.setReg_counts (s : State) (l n : Nat) (v : Word) : (s.setReg l n v).counts = s.counts := rfl
@[simp] theorem State.setReg_me (s : State) (l n : Nat) (v : Word) : (s.setReg l n v).me = s.me := rfl
@[simp] theorem State.setReg_issuePc (s : State) (l n : Nat) (v : Word) : (s.setReg l n v).issuePc = s.issuePc := rfl
@[simp] theorem State.setReg_others (s : State) (l n : Nat) (v : Word) : (s.setReg l n v).others = s.others := rfl
@[simp] theorem State.setReg_clusters (s : State) (l n : Nat) (v : Word) : (s.setReg l n v).clusters = s.clusters := rfl
@[simp] theorem State.setReg_cores (s : State) (l n : Nat) (v : Word) : (s.setReg l n v).cores = s.cores := rfl
@[simp] theorem State.setReg_locks (s : State) (l n : Nat) (v : Word) : (s.setReg l n v).locks = s.locks := rfl
@[simp] theorem State.setReg_scratch (s : State) (l n : Nat) (v : Word) : (s.setReg l n v).scratch = s.scratch := rfl
@[simp] theorem State.setReg_scratchPoison (s : State) (l n : Nat) (v : Word) : (s.setReg l n v).scratchPoison = s.scratchPoison := rfl
@[simp] theorem State.setReg_gongJoins (s : State) (l n : Nat) (v : Word) : (s.setReg l n v).gongJoins = s.gongJoins := rfl
@[simp] theorem State.setReg_cmds (s : State) (l n : Nat) (v : Word) : (s.setReg l n v).cmds = s.cmds := rfl
@[simp] theorem State.setReg_engineDead (s : State) (l n : Nat) (v : Word) : (s.setReg l n v).engineDead = s.engineDead := rfl
@[simp] theorem State.setReg_engineTurn (s : State) (l n : Nat) (v : Word) : (s.setReg l n v).engineTurn = s.engineTurn := rfl
@[simp] theorem State.setReg_threadTurn (s : State) (l n : Nat) (v : Word) : (s.setReg l n v).threadTurn = s.threadTurn := rfl
@[simp] theorem State.setReg_parts (s : State) (l n : Nat) (v : Word) : (s.setReg l n v).parts = s.parts := rfl
@[simp] theorem State.setReg_ptable (s : State) (l n : Nat) (v : Word) : (s.setReg l n v).ptable = s.ptable := rfl
@[simp] theorem State.setReg_vfs (s : State) (l n : Nat) (v : Word) : (s.setReg l n v).vfs = s.vfs := rfl
@[simp] theorem State.setReg_msix (s : State) (l n : Nat) (v : Word) : (s.setReg l n v).msix = s.msix := rfl
@[simp] theorem State.setReg_ports (s : State) (l n : Nat) (v : Word) : (s.setReg l n v).ports = s.ports := rfl
@[simp] theorem State.setReg_ops (s : State) (l n : Nat) (v : Word) : (s.setReg l n v).ops = s.ops := rfl
@[simp] theorem State.setReg_images (s : State) (l n : Nat) (v : Word) : (s.setReg l n v).images = s.images := rfl
@[simp] theorem State.setReg_hostOut (s : State) (l n : Nat) (v : Word) : (s.setReg l n v).hostOut = s.hostOut := rfl
@[simp] theorem State.setReg_plan (s : State) (l n : Nat) (v : Word) : (s.setReg l n v).plan = s.plan := rfl
@[simp] theorem State.setReg_free (s : State) (l n : Nat) (v : Word) : (s.setReg l n v).free = s.free := rfl
@[simp] theorem State.setReg_nextId (s : State) (l n : Nat) (v : Word) : (s.setReg l n v).nextId = s.nextId := rfl

/-- Register writes change registers alone. -/
theorem State.setRegs_eq (s : State) (ws : Writes) :
    s.setRegs ws = { s with rf := (s.setRegs ws).rf, rfPoison := (s.setRegs ws).rfPoison } := by
  induction ws generalizing s with
  | nil => rfl
  | cons w ws ih => obtain ⟨l, n, v⟩ := w; rw [State.setRegs, ih]; rfl

@[simp] theorem State.setRegs_tick (s : State) (ws : Writes) : (s.setRegs ws).tick = s.tick := by
  rw [State.setRegs_eq]
@[simp] theorem State.setRegs_platform (s : State) (ws : Writes) : (s.setRegs ws).platform = s.platform := by
  rw [State.setRegs_eq]
@[simp] theorem State.setRegs_product1T (s : State) (ws : Writes) : (s.setRegs ws).product1T = s.product1T := by
  rw [State.setRegs_eq]
@[simp] theorem State.setRegs_clocks (s : State) (ws : Writes) : (s.setRegs ws).clocks = s.clocks := by
  rw [State.setRegs_eq]
@[simp] theorem State.setRegs_mem (s : State) (ws : Writes) : (s.setRegs ws).mem = s.mem := by
  rw [State.setRegs_eq]
@[simp] theorem State.setRegs_hostLines (s : State) (ws : Writes) : (s.setRegs ws).hostLines = s.hostLines := by
  rw [State.setRegs_eq]
@[simp] theorem State.setRegs_lines (s : State) (ws : Writes) : (s.setRegs ws).lines = s.lines := by
  rw [State.setRegs_eq]
@[simp] theorem State.setRegs_ways (s : State) (ws : Writes) : (s.setRegs ws).ways = s.ways := by
  rw [State.setRegs_eq]
@[simp] theorem State.setRegs_forwards (s : State) (ws : Writes) : (s.setRegs ws).forwards = s.forwards := by
  rw [State.setRegs_eq]
@[simp] theorem State.setRegs_copies (s : State) (ws : Writes) : (s.setRegs ws).copies = s.copies := by
  rw [State.setRegs_eq]
@[simp] theorem State.setRegs_held (s : State) (ws : Writes) : (s.setRegs ws).held = s.held := by
  rw [State.setRegs_eq]
@[simp] theorem State.setRegs_openLines (s : State) (ws : Writes) : (s.setRegs ws).openLines = s.openLines := by
  rw [State.setRegs_eq]
@[simp] theorem State.setRegs_clean (s : State) (ws : Writes) : (s.setRegs ws).clean = s.clean := by
  rw [State.setRegs_eq]
@[simp] theorem State.setRegs_firstOut (s : State) (ws : Writes) : (s.setRegs ws).firstOut = s.firstOut := by
  rw [State.setRegs_eq]
@[simp] theorem State.setRegs_exact (s : State) (ws : Writes) : (s.setRegs ws).exact = s.exact := by
  rw [State.setRegs_eq]
@[simp] theorem State.setRegs_accesses (s : State) (ws : Writes) : (s.setRegs ws).accesses = s.accesses := by
  rw [State.setRegs_eq]
@[simp] theorem State.setRegs_regReqs (s : State) (ws : Writes) : (s.setRegs ws).regReqs = s.regReqs := by
  rw [State.setRegs_eq]
@[simp] theorem State.setRegs_releases (s : State) (ws : Writes) : (s.setRegs ws).releases = s.releases := by
  rw [State.setRegs_eq]
@[simp] theorem State.setRegs_tlb (s : State) (ws : Writes) : (s.setRegs ws).tlb = s.tlb := by
  rw [State.setRegs_eq]
@[simp] theorem State.setRegs_walks (s : State) (ws : Writes) : (s.setRegs ws).walks = s.walks := by
  rw [State.setRegs_eq]
@[simp] theorem State.setRegs_walkCache (s : State) (ws : Writes) : (s.setRegs ws).walkCache = s.walkCache := by
  rw [State.setRegs_eq]
@[simp] theorem State.setRegs_counts (s : State) (ws : Writes) : (s.setRegs ws).counts = s.counts := by
  rw [State.setRegs_eq]
@[simp] theorem State.setRegs_me (s : State) (ws : Writes) : (s.setRegs ws).me = s.me := by
  rw [State.setRegs_eq]
@[simp] theorem State.setRegs_issuePc (s : State) (ws : Writes) : (s.setRegs ws).issuePc = s.issuePc := by
  rw [State.setRegs_eq]
@[simp] theorem State.setRegs_others (s : State) (ws : Writes) : (s.setRegs ws).others = s.others := by
  rw [State.setRegs_eq]
@[simp] theorem State.setRegs_clusters (s : State) (ws : Writes) : (s.setRegs ws).clusters = s.clusters := by
  rw [State.setRegs_eq]
@[simp] theorem State.setRegs_cores (s : State) (ws : Writes) : (s.setRegs ws).cores = s.cores := by
  rw [State.setRegs_eq]
@[simp] theorem State.setRegs_locks (s : State) (ws : Writes) : (s.setRegs ws).locks = s.locks := by
  rw [State.setRegs_eq]
@[simp] theorem State.setRegs_scratch (s : State) (ws : Writes) : (s.setRegs ws).scratch = s.scratch := by
  rw [State.setRegs_eq]
@[simp] theorem State.setRegs_scratchPoison (s : State) (ws : Writes) : (s.setRegs ws).scratchPoison = s.scratchPoison := by
  rw [State.setRegs_eq]
@[simp] theorem State.setRegs_gongJoins (s : State) (ws : Writes) : (s.setRegs ws).gongJoins = s.gongJoins := by
  rw [State.setRegs_eq]
@[simp] theorem State.setRegs_cmds (s : State) (ws : Writes) : (s.setRegs ws).cmds = s.cmds := by
  rw [State.setRegs_eq]
@[simp] theorem State.setRegs_engineDead (s : State) (ws : Writes) : (s.setRegs ws).engineDead = s.engineDead := by
  rw [State.setRegs_eq]
@[simp] theorem State.setRegs_engineTurn (s : State) (ws : Writes) : (s.setRegs ws).engineTurn = s.engineTurn := by
  rw [State.setRegs_eq]
@[simp] theorem State.setRegs_threadTurn (s : State) (ws : Writes) : (s.setRegs ws).threadTurn = s.threadTurn := by
  rw [State.setRegs_eq]
@[simp] theorem State.setRegs_parts (s : State) (ws : Writes) : (s.setRegs ws).parts = s.parts := by
  rw [State.setRegs_eq]
@[simp] theorem State.setRegs_ptable (s : State) (ws : Writes) : (s.setRegs ws).ptable = s.ptable := by
  rw [State.setRegs_eq]
@[simp] theorem State.setRegs_vfs (s : State) (ws : Writes) : (s.setRegs ws).vfs = s.vfs := by
  rw [State.setRegs_eq]
@[simp] theorem State.setRegs_msix (s : State) (ws : Writes) : (s.setRegs ws).msix = s.msix := by
  rw [State.setRegs_eq]
@[simp] theorem State.setRegs_ports (s : State) (ws : Writes) : (s.setRegs ws).ports = s.ports := by
  rw [State.setRegs_eq]
@[simp] theorem State.setRegs_ops (s : State) (ws : Writes) : (s.setRegs ws).ops = s.ops := by
  rw [State.setRegs_eq]
@[simp] theorem State.setRegs_images (s : State) (ws : Writes) : (s.setRegs ws).images = s.images := by
  rw [State.setRegs_eq]
@[simp] theorem State.setRegs_hostOut (s : State) (ws : Writes) : (s.setRegs ws).hostOut = s.hostOut := by
  rw [State.setRegs_eq]
@[simp] theorem State.setRegs_plan (s : State) (ws : Writes) : (s.setRegs ws).plan = s.plan := by
  rw [State.setRegs_eq]
@[simp] theorem State.setRegs_free (s : State) (ws : Writes) : (s.setRegs ws).free = s.free := by
  rw [State.setRegs_eq]
@[simp] theorem State.setRegs_nextId (s : State) (ws : Writes) : (s.setRegs ws).nextId = s.nextId := by
  rw [State.setRegs_eq]

end Sys2Proof.Machine
end

