-- ==== Sys2Proof/Laws/Store.lean ====
section
/-! SUPPORT. The laws of sparse stores and of memory: what a key reads as after each operation, and that each keeps
the canonical form. -/

namespace Sys2Proof.Machine

variable {α : Type}

/-! ### What a key reads as -/

@[simp] theorem SMap.find_nil (i : Nat) : SMap.find ([] : SMap α) i = none := rfl

theorem SMap.find_cons (k : Nat) (v : α) (m : SMap α) (i : Nat) :
    SMap.find ((k, v) :: m) i = if i = k then some v else SMap.find m i := rfl

@[simp] theorem SMap.find_set_same (m : SMap α) (i : Nat) (x : α) : SMap.find (SMap.set m i x) i = some x := by
  induction m with
  | nil => simp [SMap.set, SMap.find]
  | cons e m ih =>
    obtain ⟨k, v⟩ := e
    simp only [SMap.set]
    split
    · simp [SMap.find]
    · split
      · simp [SMap.find]
      · simp [SMap.find, *]

theorem SMap.find_set_other (m : SMap α) {i j : Nat} (x : α) (h : j ≠ i) :
    SMap.find (SMap.set m i x) j = SMap.find m j := by
  induction m with
  | nil => simp [SMap.set, SMap.find, h]
  | cons e m ih =>
    obtain ⟨k, v⟩ := e
    simp only [SMap.set]
    split
    · simp [SMap.find, h]
    · split
      · subst_vars; simp [SMap.find, h]
      · simp [SMap.find, ih]

theorem SMap.find_set (m : SMap α) (i j : Nat) (x : α) :
    SMap.find (SMap.set m i x) j = if j = i then some x else SMap.find m j := by
  split
  · subst_vars; simp
  · exact SMap.find_set_other m x (by assumption)

@[simp] theorem SMap.find_erase_same (m : SMap α) (i : Nat) : SMap.find (SMap.erase m i) i = none := by
  induction m with
  | nil => rfl
  | cons e m ih =>
    obtain ⟨k, v⟩ := e
    simp only [SMap.erase]
    split
    · exact ih
    · simp [SMap.find, *]

theorem SMap.find_erase_other (m : SMap α) {i j : Nat} (h : j ≠ i) :
    SMap.find (SMap.erase m i) j = SMap.find m j := by
  induction m with
  | nil => rfl
  | cons e m ih =>
    obtain ⟨k, v⟩ := e
    simp only [SMap.erase]
    split
    · subst_vars; simp [SMap.find, h, ih]
    · simp [SMap.find, ih]

theorem SMap.get_set (d : α) (m : SMap α) (i j : Nat) (x : α) :
    SMap.get d (SMap.set m i x) j = if j = i then x else SMap.get d m j := by
  simp only [SMap.get, SMap.find_set]
  split <;> simp

theorem SMap.get_erase (d : α) (m : SMap α) (i j : Nat) :
    SMap.get d (SMap.erase m i) j = if j = i then d else SMap.get d m j := by
  simp only [SMap.get]
  split
  · subst_vars; simp
  · rw [SMap.find_erase_other m (by assumption)]

/-- A read after a write to a key, whatever the store's form. -/
theorem SMap.get_put [DecidableEq α] (d : α) (m : SMap α) (i j : Nat) (x : α) :
    SMap.get d (SMap.put d m i x) j = if j = i then x else SMap.get d m j := by
  simp only [SMap.put]
  split
  · subst_vars; rw [SMap.get_erase]
  · rw [SMap.get_set]

@[simp] theorem SMap.get_put_same [DecidableEq α] (d : α) (m : SMap α) (i : Nat) (x : α) :
    SMap.get d (SMap.put d m i x) i = x := by simp [SMap.get_put]

theorem SMap.get_put_other [DecidableEq α] (d : α) (m : SMap α) {i j : Nat} (x : α) (h : j ≠ i) :
    SMap.get d (SMap.put d m i x) j = SMap.get d m j := by simp [SMap.get_put, h]

theorem SMap.find_filter (m : SMap α) (p : Nat → Bool) (i : Nat) :
    SMap.find (m.filter (fun e => p e.1)) i = if p i then SMap.find m i else none := by
  induction m with
  | nil => simp [SMap.find]
  | cons e m ih =>
    obtain ⟨k, v⟩ := e
    by_cases hk : p k <;> by_cases hi : i = k <;> simp_all [SMap.find]

theorem SMap.find_drop (m : SMap α) (p : Nat → Bool) (i : Nat) :
    SMap.find (SMap.drop m p) i = if p i then none else SMap.find m i := by
  have h := SMap.find_filter m (fun k => !p k) i
  simp only [SMap.drop]
  rw [h]
  by_cases hp : p i <;> simp [hp]

theorem SMap.get_drop (d : α) (m : SMap α) (p : Nat → Bool) (i : Nat) :
    SMap.get d (SMap.drop m p) i = if p i then d else SMap.get d m i := by
  simp only [SMap.get, SMap.find_drop]
  split <;> simp

theorem SMap.find_mapV (f : α → α) (m : SMap α) (i : Nat) : SMap.find (SMap.mapV f m) i = (SMap.find m i).map f := by
  induction m with
  | nil => rfl
  | cons e m ih =>
    obtain ⟨k, v⟩ := e
    simp only [SMap.mapV, List.map_cons, SMap.find] at *
    split <;> simp_all

/-! ### The canonical form -/

theorem SMap.rising_mono {m : SMap α} {a b : Nat} (h : SMap.rising b m = true) (hab : a ≤ b) : SMap.rising a m = true := by
  cases m with
  | nil => rfl
  | cons e m => simp_all [SMap.rising]; omega

theorem SMap.rising_set {m : SMap α} {lo i : Nat} {x : α} (h : SMap.rising lo m = true) (hi : lo ≤ i) :
    SMap.rising lo (SMap.set m i x) = true := by
  induction m generalizing lo with
  | nil => simp [SMap.set, SMap.rising, hi]
  | cons e m ih =>
    obtain ⟨k, v⟩ := e
    simp only [SMap.rising, Bool.and_eq_true, decide_eq_true_eq] at h
    simp only [SMap.set]
    split
    · simp [SMap.rising, hi, h]; omega
    · split
      · subst_vars; simp [SMap.rising, h]
      · simp [SMap.rising, h.1, ih h.2 (by omega)]

theorem SMap.rising_filter {m : SMap α} {lo : Nat} (p : Nat × α → Bool) (h : SMap.rising lo m = true) :
    SMap.rising lo (m.filter p) = true := by
  induction m generalizing lo with
  | nil => rfl
  | cons e m ih =>
    obtain ⟨k, v⟩ := e
    simp only [SMap.rising, Bool.and_eq_true, decide_eq_true_eq] at h
    simp only [List.filter_cons]
    split
    · simp [SMap.rising, h.1, ih h.2]
    · exact SMap.rising_mono (ih h.2) (by omega)

theorem SMap.erase_eq_filter (m : SMap α) (i : Nat) : SMap.erase m i = m.filter (fun e => !decide (i = e.1)) := by
  induction m with
  | nil => rfl
  | cons e m ih =>
    obtain ⟨k, v⟩ := e
    simp only [SMap.erase]
    split <;> simp_all

theorem SMap.rising_erase {m : SMap α} {lo i : Nat} (h : SMap.rising lo m = true) :
    SMap.rising lo (SMap.erase m i) = true := by
  rw [SMap.erase_eq_filter]; exact SMap.rising_filter _ h

theorem SMap.mem_set {m : SMap α} {i : Nat} {x : α} {e : Nat × α} (h : e ∈ SMap.set m i x) : e = (i, x) ∨ e ∈ m := by
  induction m with
  | nil => simp [SMap.set] at h; exact .inl h
  | cons f m ih =>
    obtain ⟨k, v⟩ := f
    simp only [SMap.set] at h
    split at h
    · simpa using h
    · split at h
      · simp at h; rcases h with h | h <;> simp [h]
      · simp at h; rcases h with h | h
        · simp [h]
        · rcases ih h with h | h <;> simp [h]

/-- Setting a key to a value other than the default keeps the canonical form. -/
theorem SMap.wf_set [DecidableEq α] {d : α} {m : SMap α} (i : Nat) {x : α} (h : SMap.wf d m = true) (hx : x ≠ d) :
    SMap.wf d (SMap.set m i x) = true := by
  simp only [SMap.wf, Bool.and_eq_true, List.all_eq_true, decide_eq_true_eq] at *
  refine ⟨SMap.rising_set h.1 (Nat.zero_le _), fun e he => ?_⟩
  rcases SMap.mem_set he with rfl | he
  · exact hx
  · exact h.2 e he

theorem SMap.wf_filter [DecidableEq α] {d : α} {m : SMap α} (p : Nat × α → Bool) (h : SMap.wf d m = true) :
    SMap.wf d (m.filter p) = true := by
  simp only [SMap.wf, Bool.and_eq_true, List.all_eq_true, decide_eq_true_eq] at *
  exact ⟨SMap.rising_filter p h.1, fun e he => h.2 e (List.mem_filter.mp he).1⟩

theorem SMap.wf_erase [DecidableEq α] {d : α} {m : SMap α} (i : Nat) (h : SMap.wf d m = true) :
    SMap.wf d (SMap.erase m i) = true := by
  rw [SMap.erase_eq_filter]; exact SMap.wf_filter _ h

theorem SMap.wf_drop [DecidableEq α] {d : α} {m : SMap α} (p : Nat → Bool) (h : SMap.wf d m = true) :
    SMap.wf d (SMap.drop m p) = true := SMap.wf_filter _ h

/-- A write keeps the canonical form: it lists no default. -/
theorem SMap.wf_put [DecidableEq α] {d : α} {m : SMap α} (i : Nat) (x : α) (h : SMap.wf d m = true) :
    SMap.wf d (SMap.put d m i x) = true := by
  simp only [SMap.put]
  split
  · exact SMap.wf_erase i h
  · exact SMap.wf_set i h (by assumption)

/-! ### Memory -/

theorem Memory.byte_setByte (m : Memory) (a b : Nat) (x : Byte) :
    (m.setByte a x).byte b = if b = a then x else m.byte b := SMap.get_put 0 m a b x

theorem Memory.wf_setByte {m : Memory} (a : Nat) (x : Byte) (h : m.wf = true) : (m.setByte a x).wf = true :=
  SMap.wf_put a x h

theorem Memory.wf_setWord {m : Memory} (w : Nat) (x : Word) (h : m.wf = true) : (m.setWord w x).wf = true :=
  Memory.wf_setByte _ _ (Memory.wf_setByte _ _ (Memory.wf_setByte _ _ (Memory.wf_setByte _ _ h)))

theorem Memory.wf_setWords {m : Memory} (w : Nat) (xs : List Word) (h : m.wf = true) : (m.setWords w xs).wf = true := by
  induction xs generalizing m w with
  | nil => exact h
  | cons x xs ih => exact ih (w + 1) (Memory.wf_setWord w x h)

theorem Memory.wf_drop {m : Memory} (p : Nat → Bool) (h : m.wf = true) : Memory.wf (SMap.drop m p) = true :=
  SMap.wf_drop p h

/-- A byte outside a written word reads as before. -/
theorem Memory.byte_setWord_other (m : Memory) {w a : Nat} (x : Word) (h : a / 4 ≠ w) :
    (m.setWord w x).byte a = m.byte a := by
  simp only [Memory.setWord, Memory.byte_setByte]
  have h0 : a ≠ 4 * w := by omega
  have h1 : a ≠ 4 * w + 1 := by omega
  have h2 : a ≠ 4 * w + 2 := by omega
  have h3 : a ≠ 4 * w + 3 := by omega
  simp [h0, h1, h2, h3]

/-- The four bytes of a word, put back together. -/
theorem bytes_append (x : Word) :
    ((x >>> 24).setWidth 8 : Byte) ++ ((x >>> 16).setWidth 8 : Byte) ++ ((x >>> 8).setWidth 8 : Byte) ++
      (x.setWidth 8 : Byte) = x := by
  apply BitVec.eq_of_getLsbD_eq
  intro i hi
  simp only [BitVec.getLsbD_append, BitVec.getLsbD_setWidth, BitVec.getLsbD_ushiftRight]
  by_cases h0 : i < 8
  · simp [h0]
  by_cases h1 : i < 16
  · simp [h0, show i - 8 < 8 by omega, show 8 + (i - 8) = i by omega]
  by_cases h2 : i < 24
  · simp [h0, show ¬ i - 8 < 8 by omega, show i - 8 - 8 < 8 by omega, show 16 + (i - 8 - 8) = i by omega]
  · simp [h0, show ¬ i - 8 < 8 by omega, show ¬ i - 8 - 8 < 8 by omega, show i - 8 - 8 - 8 < 8 by omega,
      show 24 + (i - 8 - 8 - 8) = i by omega]

/-- A written word reads as it was written (00 R3). -/
@[simp] theorem Memory.word_setWord_same (m : Memory) (w : Nat) (x : Word) : (m.setWord w x).word w = x := by
  simp [Memory.word, Memory.setWord, Memory.byte_setByte, bytes_append]

/-- Another word reads as before. -/
theorem Memory.word_setWord_other (m : Memory) {v w : Nat} (x : Word) (h : v ≠ w) :
    (m.setWord w x).word v = m.word v := by
  simp only [Memory.word]
  rw [Memory.byte_setWord_other m x (by omega), Memory.byte_setWord_other m x (by omega),
    Memory.byte_setWord_other m x (by omega), Memory.byte_setWord_other m x (by omega)]

theorem Memory.word_setWord (m : Memory) (v w : Nat) (x : Word) :
    (m.setWord w x).word v = if v = w then x else m.word v := by
  split
  · subst_vars; simp
  · exact Memory.word_setWord_other m x (by assumption)

end Sys2Proof.Machine
end

