-- ==== Sys2Proof/Laws/Regs.lean ====
section
/-! SUPPORT. The laws of register rows and of the retirement of a register word: what a write of registers leaves in
every row, what the retirement changes, and what `State.finish` and a guarded word do. -/

namespace Sys2Proof.Machine

open Sys2Proof.Safety

/-! ### Row keys -/

/-- Two registers of one agent lie in one row only where they are the same register of the same position. -/
theorem rowKey_inj {a : Agent} {p q m n : Nat} (hm : m < 256) (hn : n < 256) (h : rowKey a p m = rowKey a q n) :
    p = q ∧ m = n := by
  unfold rowKey at h
  split at h
  · split at h <;> split at h <;> omega
  all_goals omega

/-! ### Reads after writes -/

theorem State.setReg_get (s : State) (l n : Nat) (v : Word) (k : Nat) :
    (s.setReg l n v).rf.get 0 k = if k = rowKey s.me (s.me.base + l) n then v else s.rf.get 0 k :=
  SMap.get_put 0 s.rf _ k v

theorem State.setReg_poison (s : State) (l n : Nat) (v : Word) (k : Nat) :
    (s.setReg l n v).rfPoison.get false k =
      if k = rowKey s.me (s.me.base + l) n then false else s.rfPoison.get false k :=
  SMap.get_erase false s.rfPoison _ k

/-- The keys that writes name. -/
def keysOf (s : State) (ws : Writes) : List Nat := ws.map (fun w => rowKey s.me (s.me.base + w.1) w.2.1)

/-- A row that no write names stands, with its poison mark. -/
theorem State.setRegs_other (s : State) (ws : Writes) {k : Nat} (h : k ∉ keysOf s ws) :
    (s.setRegs ws).rf.get 0 k = s.rf.get 0 k ∧ (s.setRegs ws).rfPoison.get false k = s.rfPoison.get false k := by
  induction ws generalizing s with
  | nil => exact ⟨rfl, rfl⟩
  | cons w ws ih =>
    obtain ⟨l, n, v⟩ := w
    simp only [keysOf, List.map_cons, List.mem_cons, not_or] at h
    have := ih (s.setReg l n v) h.2
    simp only [State.setRegs]
    rw [this.1, this.2, State.setReg_get, State.setReg_poison, if_neg h.1, if_neg h.1]
    exact ⟨rfl, rfl⟩

/-- A row that a write names is not poisoned. -/
theorem State.setRegs_cleared (s : State) (ws : Writes) {k : Nat} (h : k ∈ keysOf s ws) :
    (s.setRegs ws).rfPoison.get false k = false := by
  induction ws generalizing s with
  | nil => simp [keysOf] at h
  | cons w ws ih =>
    obtain ⟨l, n, v⟩ := w
    simp only [State.setRegs]
    by_cases hk : k ∈ keysOf (s.setReg l n v) ws
    · exact ih _ hk
    · rw [(State.setRegs_other _ ws hk).2, State.setReg_poison]
      simp only [keysOf, List.map_cons, List.mem_cons] at h hk
      rw [if_pos (h.resolve_right hk)]

/-- A row that some writes name, all with one value, holds it. -/
theorem State.setRegs_value (s : State) (ws : Writes) {k : Nat} {v : Word} (h : k ∈ keysOf s ws)
    (hv : ∀ w ∈ ws, rowKey s.me (s.me.base + w.1) w.2.1 = k → w.2.2 = v) : (s.setRegs ws).rf.get 0 k = v := by
  induction ws generalizing s with
  | nil => simp [keysOf] at h
  | cons w ws ih =>
    obtain ⟨l, n, x⟩ := w
    simp only [State.setRegs]
    by_cases hk : k ∈ keysOf (s.setReg l n x) ws
    · exact ih _ hk (fun w hw => hv w (List.mem_cons_of_mem _ hw))
    · rw [(State.setRegs_other _ ws hk).1, State.setReg_get]
      simp only [keysOf, List.map_cons, List.mem_cons] at h hk
      have hkey := h.resolve_right hk
      rw [if_pos hkey]
      exact hv (l, n, x) List.mem_cons_self hkey.symm

/-! ### Retirement -/

/-- An agent with the fields a register word may change beside its threads. -/
def Agent.withStatus (a : Agent) (cache : List Nat) (fe ie : Word) (ctr : DWord) : Agent :=
  { a with cache := cache, fexc := fe, iexc := ie, rngCtr := ctr }

variable (a : Agent) (c : List Nat) (fe ie : Word) (ctr : DWord)

theorem Agent.setLc_withStatus (n : Nat) (v : Word) :
    (a.withStatus c fe ie ctr).setLc n v = (a.setLc n v).withStatus c fe ie ctr := by
  unfold Agent.setLc; split <;> rfl

theorem Agent.endLevel_withStatus : (a.withStatus c fe ie ctr).endLevel = a.endLevel.withStatus c fe ie ctr := by
  simp only [Agent.endLevel, Agent.setLc_withStatus]; rfl

theorem Agent.lc_withStatus (n : Nat) : (a.withStatus c fe ie ctr).lc n = a.lc n := by unfold Agent.lc; split <;> rfl

theorem Agent.arrive_withStatus (pc : DWord) (t : Thread) : arrive (a.withStatus c fe ie ctr) pc t = arrive a pc t := rfl

/-- The next iteration of the innermost level. -/
theorem Agent.loopEnd_eq : a.loopEnd = match a.innermost with
    | none => a
    | some l =>
      if (a.lc (a.loops.length - 1)).toNat ≤ 1 then
        { a.endLevel with threads := a.endLevel.threads.map (fun t =>
            if t.live then arrive a.endLevel (l.stop - 8) { t with pc := l.stop, st := .runnable } else t) }
      else
        { a.setLc (a.loops.length - 1) (a.lc (a.loops.length - 1) - 1) with
          loops := a.loops.dropLast ++ [{ l with again := true }],
          threads := (a.setLc (a.loops.length - 1) (a.lc (a.loops.length - 1) - 1)).threads.map (fun t =>
            if t.live then { t with pc := l.start, st := .runnable } else t) } := rfl

theorem Agent.loopEnd_withStatus : (a.withStatus c fe ie ctr).loopEnd = a.loopEnd.withStatus c fe ie ctr := by
  rw [Agent.loopEnd_eq, Agent.loopEnd_eq]
  have hi : (a.withStatus c fe ie ctr).innermost = a.innermost := rfl
  have hl : (a.withStatus c fe ie ctr).loops = a.loops := rfl
  rw [hi]
  cases a.innermost with
  | none => rfl
  | some l =>
    dsimp only
    rw [hl, Agent.lc_withStatus, Agent.endLevel_withStatus, Agent.setLc_withStatus]
    split <;> rfl

theorem Agent.settle_withStatus (n : Nat) :
    (a.withStatus c fe ie ctr).settle n = ((a.settle n).1.withStatus c fe ie ctr, (a.settle n).2) := by
  induction n generalizing a with
  | zero => rfl
  | succ n ih =>
    simp only [Agent.settle, Agent.loopEnd_withStatus, ih]
    show (if ((a.threads.filter Thread.live).isEmpty || (a.threads.filter Thread.live).any _) = true then _ else _) = _
    split
    · rfl
    · show (match lowestMeet (a.threads.filter Thread.live) with | none => _ | some m => _) = _
      cases lowestMeet (a.threads.filter Thread.live) with
      | none => rfl
      | some m =>
        show (if (a.threads.filter Thread.live).all _ = true then _ else _) = _
        dsimp only
        split <;> rfl

/-- The state with other registers and another issuing agent. -/
def State.withRegs (s : State) (rf : SMap Word) (rp : SMap Bool) (me : Agent) : State :=
  { s with rf := rf, rfPoison := rp, me := me }

theorem State.countEvent_withRegs (s : State) (rf : SMap Word) (rp : SMap Bool) (me : Agent) (p x i n : Nat) :
    (s.withRegs rf rp me).countEvent p x i n = (s.countEvent p x i n).withRegs rf rp me := by
  unfold State.countEvent
  split
  · rfl
  · unfold State.updContext State.updPart
    show (match s.parts.find p with | some q => _ | none => _) = _
    cases s.parts.find p <;> rfl

/-- Counting an event changes the partitions alone. -/
theorem State.countEvent_eq (s : State) (p x i n : Nat) :
    s.countEvent p x i n = { s with parts := (s.countEvent p x i n).parts } := by
  unfold State.countEvent
  split
  · rfl
  · unfold State.updContext State.updPart
    cases s.parts.find p <;> rfl

/-- The agent with its group at `pc` gone to the next word, and the word's park ended (11 R275). -/
def Agent.retiring (a : Agent) (pc : DWord) : Agent :=
  { a with
    parks := a.parks.filter (fun p => p.pc != pc),
    threads := mapLanes (fun l t =>
      if (a.groupAt pc).contains l then arrive a pc { t with pc := pc + 8 } else t) a.threads }

theorem Agent.retiring_withStatus (pc : DWord) :
    (a.withStatus c fe ie ctr).retiring pc = (a.retiring pc).withStatus c fe ie ctr := rfl

/-- What a retirement comes to: the agent's releases, and the count of forced ones (11 R278). -/
theorem State.retire_eq (s : State) :
    s.retire = (s.countEvent s.me.part (countsIn s.me.id s.me.ctx) 5 ((s.me.retiring s.issuePc).settle settleFuel).2).withRegs s.rf s.rfPoison
      ((s.me.retiring s.issuePc).settle settleFuel).1 :=
  State.countEvent_withRegs s s.rf s.rfPoison _ _ _ _ _

theorem State.withRegs_withRegs (s : State) (rf rf' : SMap Word) (rp rp' : SMap Bool) (m m' : Agent) :
    (s.withRegs rf rp m).withRegs rf' rp' m' = s.withRegs rf' rp' m' := rfl

@[simp] theorem State.withRegs_me (s : State) (rf : SMap Word) (rp : SMap Bool) (m : Agent) :
    (s.withRegs rf rp m).me = m := rfl

/-- The retirement of a state whose registers and status differ differs in them alone. -/
theorem State.retire_withRegs (s : State) (rf : SMap Word) (rp : SMap Bool) (c : List Nat) (fe ie : Word) (ctr : DWord) :
    (s.withRegs rf rp (s.me.withStatus c fe ie ctr)).retire =
      s.retire.withRegs rf rp (s.retire.me.withStatus c fe ie ctr) := by
  have hs := Agent.settle_withStatus (s.me.retiring s.issuePc) c fe ie ctr settleFuel
  rw [State.retire_eq, State.retire_eq s]
  have hm : ((s.withRegs rf rp (s.me.withStatus c fe ie ctr)).me.retiring
      (s.withRegs rf rp (s.me.withStatus c fe ie ctr)).issuePc) = (s.me.retiring s.issuePc).withStatus c fe ie ctr := rfl
  rw [hm, hs]
  simp only [State.withRegs_me]
  have hc := State.countEvent_withRegs s rf rp (s.me.withStatus c fe ie ctr) s.me.part (countsIn s.me.id s.me.ctx) 5
    ((s.me.retiring s.issuePc).settle settleFuel).2
  have hp : (s.me.withStatus c fe ie ctr).part = s.me.part := rfl
  have hx : countsIn (s.me.withStatus c fe ie ctr).id (s.me.withStatus c fe ie ctr).ctx = countsIn s.me.id s.me.ctx := rfl
  rw [hp, hx, hc, State.withRegs_withRegs, State.withRegs_withRegs]
  rfl

/-- A retirement leaves registers, memory and everything but the issuing agent and the event counters (11 R278). -/
theorem State.retire_frame (s : State) : s.retire = { s with me := s.retire.me, parts := s.retire.parts } := by
  rw [State.retire_eq]
  have h := State.countEvent_eq s s.me.part (countsIn s.me.id s.me.ctx) 5 ((s.me.retiring s.issuePc).settle settleFuel).2
  rw [h]; rfl

/-- An agent with other threads, loop counters and loop levels. -/
def Agent.withFlow (ts : List Thread) (c0 c1 c2 : Word) (ls : List Loop) : Agent :=
  { a with threads := ts, lc0 := c0, lc1 := c1, lc2 := c2, loops := ls }

/-- Two agents differ in their threads, loop counters and loop levels at most. -/
def Agent.FlowOf (a b : Agent) : Prop := b = a.withFlow b.threads b.lc0 b.lc1 b.lc2 b.loops

theorem Agent.FlowOf.trans {a b c : Agent} (h : a.FlowOf b) (g : b.FlowOf c) : a.FlowOf c := by
  unfold Agent.FlowOf at *
  rw [g, h]; rfl

theorem Agent.setLc_flow (m : Nat) (v : Word) : a.FlowOf (a.setLc m v) := by
  unfold Agent.setLc Agent.FlowOf; split <;> rfl

theorem Agent.loopEnd_flow : a.FlowOf a.loopEnd := by
  rw [Agent.loopEnd_eq]
  cases a.innermost with
  | none => rfl
  | some l =>
    dsimp only
    split
    · exact (Agent.setLc_flow a _ _).trans rfl
    · exact (Agent.setLc_flow a _ _).trans rfl

/-- Releases change threads, loop counters and loop levels alone (11 R278, R286). -/
theorem Agent.settle_flow (n : Nat) : a.FlowOf (a.settle n).1 := by
  induction n generalizing a with
  | zero => rfl
  | succ n ih =>
    simp only [Agent.settle]
    split
    · rfl
    · cases lowestMeet (a.threads.filter Thread.live) with
      | none => exact (Agent.loopEnd_flow a).trans (ih _)
      | some m => dsimp only; split <;> rfl

/-- Retirement keeps the agent's place: its rows are the same rows. -/
theorem State.retire_rowKey (s : State) (p n : Nat) : rowKey s.retire.me p n = rowKey s.me p n := by
  rw [State.retire_eq, State.withRegs_me, Agent.settle_flow]; rfl

theorem State.retire_base (s : State) : s.retire.me.base = s.me.base := by
  rw [State.retire_eq, State.withRegs_me, Agent.settle_flow]; rfl

/-! ### Words of register results -/

/-- The register cache changes itself alone (09 R233). -/
theorem State.cacheRegs_eq (s : State) (ns : List Nat) :
    ∃ cache, s.cacheRegs ns = s.withRegs s.rf s.rfPoison (s.me.withStatus cache s.me.fexc s.me.iexc s.me.rngCtr) := by
  unfold State.cacheRegs
  split
  · exact ⟨_, rfl⟩
  · exact ⟨s.me.cache, rfl⟩

/-- What a word of register results comes to: its writes, its status, and the retirement. -/
theorem State.finish_eq (s : State) (outs : List LaneOut) (draws : Bool) :
    ∃ cache, s.finish outs draws =
      s.retire.withRegs (s.setRegs (outs.flatMap (·.writes))).rf (s.setRegs (outs.flatMap (·.writes))).rfPoison
        (s.retire.me.withStatus cache (s.me.fexc ||| BitVec.ofNat 32 (orFe outs))
          (s.me.iexc ||| BitVec.ofNat 32 (orIe outs)) (s.me.rngCtr + BitVec.ofNat 64 draws.toNat)) := by
  have hm : (s.setRegs (outs.flatMap (·.writes))).merge (orFe outs) (orIe outs) =
      s.withRegs (s.setRegs (outs.flatMap (·.writes))).rf (s.setRegs (outs.flatMap (·.writes))).rfPoison
        (s.me.withStatus s.me.cache (s.me.fexc ||| BitVec.ofNat 32 (orFe outs))
          (s.me.iexc ||| BitVec.ofNat 32 (orIe outs)) s.me.rngCtr) := by
    conv => lhs; rw [State.setRegs_eq]
    rfl
  have hd : (if draws then ((s.setRegs (outs.flatMap (·.writes))).merge (orFe outs) (orIe outs)).advanceRng
        else (s.setRegs (outs.flatMap (·.writes))).merge (orFe outs) (orIe outs)) =
      s.withRegs (s.setRegs (outs.flatMap (·.writes))).rf (s.setRegs (outs.flatMap (·.writes))).rfPoison
        (s.me.withStatus s.me.cache (s.me.fexc ||| BitVec.ofNat 32 (orFe outs))
          (s.me.iexc ||| BitVec.ofNat 32 (orIe outs)) (s.me.rngCtr + BitVec.ofNat 64 draws.toNat)) := by
    cases draws
    · rw [if_neg (by decide), hm]; simp
    · rw [if_pos rfl, hm]; rfl
  obtain ⟨cache, hc⟩ := State.cacheRegs_eq
    (if draws then ((s.setRegs (outs.flatMap (·.writes))).merge (orFe outs) (orIe outs)).advanceRng
        else (s.setRegs (outs.flatMap (·.writes))).merge (orFe outs) (orIe outs))
    (((outs.flatMap (·.writes)).map (fun w => w.2.1)).eraseDups.take 6)
  refine ⟨cache, ?_⟩
  show (State.cacheRegs _ _).retire = _
  rw [hc, hd, ← State.retire_withRegs]
  rfl

/-- The frame of a word of register results. -/
theorem State.finish_retires (s : State) (outs : List LaneOut) (draws : Bool) : Retires s (s.finish outs draws) := by
  obtain ⟨cache, h⟩ := State.finish_eq s outs draws
  rw [h]
  have hf := State.retire_frame s
  refine ⟨?_, rfl, fun x => ?_⟩
  · conv => lhs; rw [hf]
    rfl
  · show s.retire.mem.byte x = _
    rw [hf]

/-- What the rows hold after a word of register results. -/
theorem State.finish_rf (s : State) (outs : List LaneOut) (draws : Bool) :
    (s.finish outs draws).rf = (s.setRegs (outs.flatMap (·.writes))).rf
    ∧ (s.finish outs draws).rfPoison = (s.setRegs (outs.flatMap (·.writes))).rfPoison := by
  obtain ⟨cache, h⟩ := State.finish_eq s outs draws
  rw [h]; exact ⟨rfl, rfl⟩

theorem State.finish_status (s : State) (outs : List LaneOut) (draws : Bool) :
    (s.finish outs draws).me.fexc = s.me.fexc ||| BitVec.ofNat 32 (orFe outs)
    ∧ (s.finish outs draws).me.iexc = s.me.iexc ||| BitVec.ofNat 32 (orIe outs)
    ∧ (s.finish outs draws).me.rngCtr = s.me.rngCtr + BitVec.ofNat 64 draws.toNat := by
  obtain ⟨cache, h⟩ := State.finish_eq s outs draws
  rw [h]; exact ⟨rfl, rfl, rfl⟩

/-- A register after a word of register results lies in the row it lay in. -/
theorem State.finish_reg (s : State) (outs : List LaneOut) (draws : Bool) (l n : Nat) :
    (s.finish outs draws).reg l n =
      (s.setRegs (outs.flatMap (·.writes))).rf.get 0 (rowKey s.me (s.me.base + l) n) := by
  obtain ⟨cache, h⟩ := State.finish_eq s outs draws
  rw [h]
  show SMap.get 0 _ (rowKey (s.retire.me.withStatus _ _ _ _) ((s.retire.me.withStatus _ _ _ _).base + l) n) = _
  have hk : ∀ (a : Agent) (p : Nat) (x : List Nat) (y z : Word) (v : DWord),
    rowKey (a.withStatus x y z v) p n = rowKey a p n := fun _ _ _ _ _ _ => rfl
  have hb : ∀ (a : Agent) (x : List Nat) (y z : Word) (v : DWord), (a.withStatus x y z v).base = a.base :=
    fun _ _ _ _ _ => rfl
  rw [hk, hb, State.retire_rowKey, State.retire_base]
  rfl

end Sys2Proof.Machine
end

