-- ==== Sys2Proof/Laws/Words.lean ====
section
/-! SUPPORT. What a guarded word does where its registers are clear, and what a word of register results gives: the
lemmas every statement about a register word rests on. -/

namespace Sys2Proof.Machine

open Sys2Proof.Safety

/-! ### Guarded words (02 R38, R39; 10 R251) -/

/-- A clear word has its effect on the active lanes. -/
theorem State.guarded_clear {s : State} {g : BitVec 8} {gn : Bool} {named sources first : List Nat}
    (effect : List Nat → State) (h : Clear s g gn named sources first) :
    s.guarded g gn named sources effect first = effect (s.active g gn) := by
  unfold State.guarded
  have hg : ¬ (g != 0 && !s.holds g.toNat) = true := by
    rcases h.guard with h | h <;> simp [h]
  have hn : ¬ (!named.all s.holds) = true := by simp; exact fun n hn => h.held n hn
  have hs : (s.active g gn).find? (fun l =>
      sources.any (s.poisoned l) || (some l == (s.active g gn).head? && first.any (s.poisoned l))) = none := by
    rw [List.find?_eq_none]
    intro l hl
    simp only [Bool.or_eq_true, Bool.and_eq_true, beq_iff_eq, List.any_eq_true, not_or, not_and, not_exists,
      Bool.not_eq_true]
    exact ⟨fun n hn => h.sound l hl n hn, fun he n hn => h.low l he.symm n hn⟩
  rw [if_neg hg]
  dsimp only
  split
  · rename_i he; rw [List.isEmpty_iff.mp he]
  · rw [hs]

/-- A guarded word is a fault of its agent, or its effect on the active lanes. -/
theorem State.guarded_cases (s : State) (g : BitVec 8) (gn : Bool) (named sources : List Nat)
    (effect : List Nat → State) (first : List Nat) :
    (∃ l, s.guarded g gn named sources effect first = s.faultHere fcExtNotHeld l)
    ∨ (∃ l, s.guarded g gn named sources effect first = s.faultHere fcPoison l)
    ∨ s.guarded g gn named sources effect first = effect (s.active g gn) := by
  unfold State.guarded
  split
  · exact .inl ⟨_, rfl⟩
  · dsimp only
    split
    · rename_i h; rw [List.isEmpty_iff.mp h]; exact .inr (.inr rfl)
    · split
      · exact .inl ⟨_, rfl⟩
      · split
        · exact .inr (.inl ⟨_, rfl⟩)
        · exact .inr (.inr rfl)

/-- A clear W3 word has its effect on the active lanes. -/
theorem State.w3_clear {s : State} {major fn : Nat} {w : W3} (effect : List Nat → State) (h : Clear3 s major fn w) :
    s.w3 major fn w effect = effect (s.active w.g w.gn) := by
  obtain ⟨sh, hs, hc⟩ := h
  simp only [State.w3, hs, State.guarded_clear effect hc]

/-! ### Results -/

theorem pair64_halves (x : DWord) : pair64 (lo32 x) (hi32 x) = x := by
  simp only [pair64, lo32, hi32]
  apply BitVec.eq_of_getLsbD_eq
  intro i hi
  simp only [BitVec.getLsbD_append, BitVec.getLsbD_setWidth, BitVec.getLsbD_ushiftRight]
  by_cases h : i < 32
  · simp [h]
  · simp [h, show i - 32 < 32 by omega, show 32 + (i - 32) = i by omega]

/-- A result in one register leaves bits [63:32] at 0. -/
theorem trimTo_lt {t : Ty} (h : t.isPair = false) (x : DWord) : (trimTo t x).toNat < 2 ^ 32 := by
  have and_lt : ∀ (c : DWord), c.toNat < 2 ^ 32 → (x &&& c).toNat < 2 ^ 32 := fun c hc => by
    rw [BitVec.toNat_and]; exact Nat.lt_of_le_of_lt Nat.and_le_right hc
  cases t <;> simp only [Ty.isPair] at h <;> first | exact absurd h (by decide) | exact and_lt _ (by decide)

/-- A 32-bit result read back. -/
theorem trimTo_word {t : Ty} (h : t.isPair = false) (x : DWord) : (lo32 (trimTo t x)).setWidth 64 = trimTo t x := by
  apply BitVec.eq_of_toNat_eq
  have := trimTo_lt h x
  simp only [lo32, BitVec.toNat_setWidth]
  omega

/-- The rows a result names are the rows its registers lie in. -/
theorem keysOf_results (s : State) (act : List Nat) (rt : Ty) (d : Nat) (v : Nat → DWord) :
    keysOf s (act.flatMap (fun l => resultOf rt l d (v l))) = rowsOf s act (resultRegs rt d) := by
  induction act with
  | nil => rfl
  | cons l ls ih =>
    simp only [keysOf, rowsOf, List.flatMap_cons, List.map_append] at ih ⊢
    rw [ih]; congr 1
    unfold resultOf resultRegs; split <;> rfl

/-- The registers of a result, with what each takes. -/
theorem mem_resultOf {t : Ty} {l d : Nat} {x : DWord} {w : Nat × Nat × Word} (h : w ∈ resultOf t l d x) :
    w.1 = l ∧ w.2.1 ∈ resultRegs t d
    ∧ w.2.2 = if t.isPair then (if w.2.1 = d then lo32 x else hi32 x) else lo32 (trimTo t x) := by
  cases hp : t.isPair <;> simp only [resultOf, resultRegs, hp, List.mem_cons, List.not_mem_nil, or_false,
    if_true, Bool.false_eq_true, if_false] at h ⊢
  · subst h; exact ⟨rfl, rfl, rfl⟩
  · rcases h with h | h <;> subst h <;> simp

/-- A register of a result holds what the lane's write of it says. -/
theorem State.setRegs_result (s : State) {act : List Nat} {rt : Ty} {d l n : Nat} {x : Word} (v : Nat → DWord)
    (hl : l ∈ act) (hd : ∀ m ∈ resultRegs rt d, m < 256) (hx : (l, n, x) ∈ resultOf rt l d (v l)) :
    (s.setRegs (act.flatMap (fun l => resultOf rt l d (v l)))).rf.get 0 (rowKey s.me (s.me.base + l) n) = x := by
  have hn := mem_resultOf hx
  apply State.setRegs_value
  · unfold keysOf
    have hmem : (l, n, x) ∈ act.flatMap (fun l => resultOf rt l d (v l)) := List.mem_flatMap.mpr ⟨l, hl, hx⟩
    exact List.mem_map.mpr ⟨_, hmem, rfl⟩
  · rintro ⟨j, m, y⟩ hw hk
    obtain ⟨j', _, hj⟩ := List.mem_flatMap.mp hw
    have hm := mem_resultOf hj
    dsimp only at hm hn hk ⊢
    obtain ⟨h1, h2⟩ := rowKey_inj (hd m hm.2.1) (hd n hn.2.1) hk
    have hjl : j' = l := by omega
    subst h2 hjl
    rw [hm.2.2, hn.2.2]

/-- A word that finishes with its lanes' results gives them (10 R251, R252). -/
theorem gives_of_finish {i : Instr} {s : State} {act : List Nat} {rt : Ty} {d : BitVec 8} {lane : Nat → Lane}
    {draws : Bool} (hd : ∀ m ∈ resultRegs rt d.toNat, m < 256)
    (h : exec i s = .next (s.finish (act.map (fun l =>
      ⟨resultOf rt l d.toNat (lane l).value, (lane l).fe, (lane l).ie⟩)) draws)) :
    Gives i s act rt d lane draws.toNat := by
  have hw : (act.map (fun l => (⟨resultOf rt l d.toNat (lane l).value, (lane l).fe, (lane l).ie⟩ : LaneOut))).flatMap
      (·.writes) = act.flatMap (fun l => resultOf rt l d.toNat (lane l).value) := by
    rw [List.flatMap_map]
  have hrow := State.finish_rf s (act.map (fun l => ⟨resultOf rt l d.toNat (lane l).value, (lane l).fe, (lane l).ie⟩)) draws
  have hst := State.finish_status s (act.map (fun l => ⟨resultOf rt l d.toNat (lane l).value, (lane l).fe, (lane l).ie⟩)) draws
  rw [hw] at hrow
  refine ⟨_, h, fun l hl => ?_, ⟨fun k hk => ?_, fun k hk => ?_⟩, ?_, ?_, hst.2.2, State.finish_retires _ _ _⟩
  · unfold State.operand
    cases hp : rt.isPair
    · rw [if_neg (by simp), State.finish_reg, hw,
        State.setRegs_result s (fun l => (lane l).value) hl hd (n := d.toNat) (x := lo32 (trimTo rt (lane l).value))
          (by simp [resultOf, hp])]
      exact trimTo_word hp _
    · rw [if_pos rfl, State.finish_reg, State.finish_reg, hw,
        State.setRegs_result s (fun l => (lane l).value) hl hd (n := d.toNat) (x := lo32 (lane l).value)
          (by simp [resultOf, hp]),
        State.setRegs_result s (fun l => (lane l).value) hl hd (n := d.toNat + 1) (x := hi32 (lane l).value)
          (by simp [resultOf, hp]), pair64_halves]
      cases rt <;> simp [Ty.isPair] at hp <;> rfl
  · rw [hrow.1, hrow.2]
    exact State.setRegs_other s _ (by rw [keysOf_results]; exact hk)
  · rw [hrow.2]
    exact State.setRegs_cleared s _ (by rw [keysOf_results]; exact hk)
  · rw [hst.1]; congr 2; simp [orFe, List.foldl_map]
  · rw [hst.2.1]; congr 2; simp [orIe, List.foldl_map]

/-- The results of a word that differ from another's only past their type are the other's. -/
theorem Gives.congr {i : Instr} {s : State} {act : List Nat} {rt : Ty} {d : BitVec 8} {f g : Nat → Lane} {n : Nat}
    (h : Gives i s act rt d f n)
    (hv : ∀ l ∈ act, trimTo rt (f l).value = trimTo rt (g l).value ∧ (f l).fe = (g l).fe ∧ (f l).ie = (g l).ie) :
    Gives i s act rt d g n := by
  obtain ⟨t, ht, hr, ho, hf, hi, hc, hk⟩ := h
  have fold : ∀ (p q : Nat → Nat) (ls : List Nat) (x : Nat), (∀ l ∈ ls, p l = q l) →
      ls.foldl (fun x l => x ||| p l) x = ls.foldl (fun x l => x ||| q l) x := by
    intro p q ls
    induction ls with
    | nil => intros; rfl
    | cons l ls ih =>
      intro x hx
      simp only [List.foldl_cons]
      rw [hx l List.mem_cons_self]
      exact ih _ (fun j hj => hx j (List.mem_cons_of_mem _ hj))
  refine ⟨t, ht, fun l hl => (hr l hl).trans (hv l hl).1, ho, ?_, ?_, hc, hk⟩
  · rw [hf, fold (fun l => (f l).fe) (fun l => (g l).fe) act 0 (fun l hl => (hv l hl).2.1)]
  · rw [hi, fold (fun l => (f l).ie) (fun l => (g l).ie) act 0 (fun l hl => (hv l hl).2.2)]

/-- A result's registers are of the agent's 256: a pair is even (02 R40). -/
theorem resultRegs_lt {t : Ty} {d : BitVec 8} (h : Field.tyf.ok t d = true) : ∀ m ∈ resultRegs t d.toNat, m < 256 := by
  have := d.isLt
  intro m hm
  unfold resultRegs at hm
  split at hm
  · rename_i hp
    have he : d.toNat % 2 = 0 := by simpa [Field.ok, Field.span, hp] using h
    simp at hm; omega
  · simp at hm; omega

end Sys2Proof.Machine
end

