-- ==== Sys2Proof/Tests/Slice0.lean ====
section
/-! SUPPORT. Tests: words that the spec writes out decode to their instructions, one step of each kind of word on small
states, ill-formed terms that WellFormed refuses, and for every statement states and operands that meet its hypotheses. -/

namespace Sys2Proof.Tests

open Sys2Proof Sys2Proof.Machine Sys2Proof.Safety

-- One theorem after another: each is evaluated by the kernel, and a thread for each at once takes too much memory.
set_option Elab.async false

/-- Words of 10 R254, R255; 00 R10, written out there. -/
theorem test_decode_int :
    decodeTableWord 64 0x0206080A00000000 = some (.iadd ⟨3, 4, 5, 0, 0, false, .i32, false, false, 0⟩)
    ∧ decodeTableWord 64 0x0206080A0C000800 = some (.imad ⟨3, 4, 5, 6, 0, false, .i32, false, false, 0⟩)
    ∧ decodeTableWord 64 0x0210141800001C03 = some (.lea ⟨8, 10, 12, 0, 0, false, .i32, false, false, 3⟩)
    ∧ decodeTableWord 64 0x0214161800000A00 = some (.idiv ⟨10, 11, 12, 0, 0, false, .i32, false, false, 0⟩)
    ∧ decodeTableWord 64 0x0228080C3C001620 = some (.iaddc ⟨20, 4, 6, 30, 0, false, .n32, false, false, 0⟩) := by
  decide +kernel

/-- Words of 10 R256, R257; 02 R33, written out there. -/
theorem test_decode_inti :
    decodeTableWord 64 0x0410009380000000 = some (.movhi ⟨8, 0, .n64, 0x80000000⟩)
    ∧ decodeTableWord 64 0x040C0EA040000064 = some (.icmpi ⟨6, 7, .i32, 0x40000064⟩)
    ∧ decodeTableWord 64 0x040C0E00FFFFFFF8 = some (.iaddi ⟨6, 7, .i32, 0xFFFFFFF8⟩)
    ∧ decodeTableWord 64 0x0404022100000001 = some (.andi ⟨2, 1, .n32, 1⟩) := by
  decide +kernel

/-- Words of 10 R258, R260, written out there. -/
theorem test_decode_logic_fp :
    decodeTableWord 64 0x0606080A00001200 = some (.bfx ⟨3, 4, 5, 0, 0, false, .i32, false, false, 0⟩)
    ∧ decodeTableWord 64 0x0806080A00001082 = some (.fcmp ⟨3, 4, 5, 0, 0, false, .f32, false, false, 2⟩) := by
  decide +kernel

/-- Words of 10 R264, R266 to R268, written out there. -/
theorem test_decode_convert :
    decodeTableWord 64 0x0A0A080800000201 = some (.icvt ⟨5, 4, 4, 0, 0, false, .i32, false, false, 1⟩)
    ∧ decodeTableWord 64 0x0A0A080128000080 = some (.fcvtToBinary8 ⟨5, 4, 0, 0x94, 0, false, .f32, false, false, 0⟩)
    ∧ decodeTableWord 64 0x0A28100108000480 = some (.fpack ⟨20, 8, 0, 0x84, 0, false, .f32, false, false, 0⟩)
    ∧ decodeTableWord 64 0x0A30280008000680 = some (.funpack ⟨24, 20, 0, 4, 0, false, .f32, false, false, 0⟩) := by
  decide +kernel

/-- Words of 10 R269, written out there. -/
theorem test_decode_sfu :
    decodeTableWord 64 0x0C06080000000480 = some (.fsqrt ⟨3, 4, 0, 0, 0, false, .f32, false, false, 0⟩) := by
  decide +kernel

/-- Words of 09 R241 to R245, written out there. -/
theorem test_decode_lane :
    decodeTableWord 64 0x1014161800000003 = some (.shfl ⟨10, 11, 12, 0, 0, false, .i32, false, false, 3⟩)
    ∧ decodeTableWord 64 0x1014160000000680 = some (.redux ⟨10, 11, 0, 0, 0, false, .f32, false, false, 0⟩)
    ∧ decodeTableWord 64 0x1018160000000880 = some (.scan ⟨12, 11, 0, 0, 0, false, .f32, false, false, 0⟩) := by
  decide +kernel

/-- Words of 09 R236, R249, written out there. -/
theorem test_decode_warp :
    decodeTableWord 64 0x1228000000000000 = some (.split ⟨20, 0, 0, 0, 0, false, .i32, false, false, 0⟩)
    ∧ decodeTableWord 64 0x1228000000000200 = some (.fuse ⟨20, 0, 0, 0, 0, false, .i32, false, false, 0⟩)
    ∧ decodeTableWord 64 0x1228000000000400 = some (.fuseq ⟨20, 0, 0, 0, 0, false, .i32, false, false, 0⟩)
    ∧ decodeTableWord 64 0x120C000000000620 = some (.rng ⟨6, 0, 0, 0, 0, false, .n32, false, false, 0⟩)
    ∧ decodeTableWord 64 0x1200080000000800 = some (.rngseed ⟨0, 4, 0, 0, 0, false, .i32, false, false, 0⟩)
    ∧ decodeTableWord 64 0x1200080000000A00 = some (.rngskip ⟨0, 4, 0, 0, 0, false, .i32, false, false, 0⟩) := by
  decide +kernel

/-- Words of 09 R227, R230, written out there. -/
theorem test_decode_reg :
    decodeTableWord 64 0x1418260000000060 = some (.smov ⟨12, 19, 0, 0, 0, false, .n64, false, false, 0⟩)
    ∧ decodeTableWord 64 0x1400200800000220 = some (.smovw ⟨0, 16, 4, 0, 0, false, .n32, false, false, 0⟩)
    ∧ decodeTableWord 64 0x1400000000000400 = some (.xacq ⟨0, 0, 0, 0, 0, false, .i32, false, false, 0⟩)
    ∧ decodeTableWord 64 0x1400000000000600 = some (.xrel ⟨0, 0, 0, 0, 0, false, .i32, false, false, 0⟩) := by
  decide +kernel

/-- Words of 08 R208, written out there. -/
theorem test_decode_queue :
    decodeTableWord 64 0x1600140800000000 = some (.push ⟨0, 10, 4, 0, 0, false, .i32, false, false, 0⟩)
    ∧ decodeTableWord 64 0x1616000800000200 = some (.pop ⟨11, 0, 4, 0, 0, false, .i32, false, false, 0⟩) := by
  decide +kernel

/-- Words of 11 R281; 02 R35, written out there. -/
theorem test_decode_branch :
    decodeTableWord 64 0x2080000000000004 = some (.bra ⟨1, 0, false, 0, 4⟩)
    ∧ decodeTableWord 64 0x200004780000000A = some (.call ⟨0, 0, false, 30, 10⟩)
    ∧ decodeTableWord 64 0x2080085000000009 = some (.loop ⟨1, 0, false, 20, 9⟩)
    ∧ decodeTableWord 64 0x20000C2000000000 = some (.jmpr ⟨0, 0, false, 8, 0⟩)
    ∧ decodeTableWord 64 0x2000102000000000 = some (.callr ⟨0, 0, false, 8, 0⟩)
    ∧ decodeTableWord 64 0x2000147800000000 = some (.ret ⟨0, 0, false, 30, 0⟩)
    ∧ decodeTableWord 64 0x2004980000000000 = some (.brk ⟨0, 9, false, 0, 0⟩)
    ∧ decodeTableWord 64 0x20001C0000000005 = some (.meet ⟨0, 0, false, 0, 5⟩) := by
  decide +kernel

/-- Words of 11 R290, written out there. -/
theorem test_decode_flow :
    decodeTableWord 64 0x2200000000000000 = some (.nop ⟨0, 0, 0, 0, 0, false, .i32, false, false, 0⟩)
    ∧ decodeTableWord 64 0x2200000000000200 = some (.exit ⟨0, 0, 0, 0, 0, false, .i32, false, false, 0⟩)
    ∧ decodeTableWord 64 0x2200000000000400 = some (.tail ⟨0, 0, 0, 0, 0, false, .i32, false, false, 0⟩)
    ∧ decodeTableWord 64 0x22000E0000000600 = some (.trap ⟨0, 7, 0, 0, 0, false, .i32, false, false, 0⟩)
    ∧ decodeTableWord 64 0x2200000000000800 = some (.yield ⟨0, 0, 0, 0, 0, false, .i32, false, false, 0⟩)
    ∧ decodeTableWord 64 0x2200000000000A00 = some (.spin ⟨0, 0, 0, 0, 0, false, .i32, false, false, 0⟩) := by
  decide +kernel

/-- Words of 07 R175, R179; 02 R34, written out there. -/
theorem test_decode_memory :
    decodeTableWord 64 0x3028100027000010 = some (.lddec ⟨20, 8, 0, false, 3, .pkg, .g, 0x10⟩)
    ∧ decodeTableWord 64 0x3018100005000040 = some (.ld ⟨12, 8, 0, false, 2, .pkg, .g, 0x40⟩)
    ∧ decodeTableWord 64 0x32180A07045FFFF0 = some (.st ⟨12, 5, 3, true, 2, .cl, .sp, 0xFFFF0⟩) := by
  decide +kernel

/-- Words of 07 R184, R192, written out there. -/
theorem test_decode_atom_sync :
    decodeTableWord 64 0x3414041600000003 = some (.aadd ⟨10, 2, 11, 0, 0, false, .i32, false, false, 3⟩)
    ∧ decodeTableWord 64 0x3600000000000004 = some (.fence ⟨0, 0, 0, 0, 0, false, .i32, false, false, 4⟩)
    ∧ decodeTableWord 64 0x3600280000000204 = some (.acq ⟨0, 20, 0, 0, 0, false, .i32, false, false, 4⟩)
    ∧ decodeTableWord 64 0x3600000000000404 = some (.rel ⟨0, 0, 0, 0, 0, false, .i32, false, false, 4⟩)
    ∧ decodeTableWord 64 0x36000A0000000600 = some (.regionInvalidate ⟨0, 5, 0, 0, 0, false, .i32, false, false, 0⟩)
    ∧ decodeTableWord 64 0x3614041618000805 = some (.waitm ⟨10, 2, 11, 12, 0, false, .i32, false, false, 5⟩) := by
  decide +kernel

/-- Words of 08 R200, R212, written out there. -/
theorem test_decode_copy_tag :
    decodeTableWord 64 0x4002040C10000004 = some (.cpy ⟨1, 2, 6, 8, 0, false, .i32, false, false, 4⟩)
    ∧ decodeTableWord 64 0x4200180000000000 = some (.tagwa ⟨0, 12, 0, 0, 0, false, .i32, false, false, 0⟩) := by
  decide +kernel

/-- Words of 08 R215, R216, written out there. -/
theorem test_decode_gong_chime :
    decodeTableWord 64 0x4400181416000000 = some (.gongi ⟨0, 12, 10, 11, 0, false, .i32, false, false, 0⟩)
    ∧ decodeTableWord 64 0x441C181A00000200 = some (.gonga ⟨14, 12, 13, 0, 0, false, .i32, false, false, 0⟩)
    ∧ decodeTableWord 64 0x4400181C00000400 = some (.gongw ⟨0, 12, 14, 0, 0, false, .i32, false, false, 0⟩)
    ∧ decodeTableWord 64 0x4600040228000004 = some (.chset ⟨0, 2, 1, 20, 0, false, .i32, false, false, 4⟩) := by
  decide +kernel

/-- Words of 12 R301, written out there. -/
theorem test_decode_matrix :
    decodeTableWord 64 0x5002401808000000 = some (.mma ⟨1, 32, 12, 4, 0, false, .i32, false, false, 0⟩)
    ∧ decodeTableWord 64 0x5002000000000200 = some (.mzero ⟨1, 0, 0, 0, 0, false, .i32, false, false, 0⟩)
    ∧ decodeTableWord 64 0x5060020000000480 = some (.mres ⟨48, 1, 0, 0, 0, false, .f32, false, false, 0⟩)
    ∧ decodeTableWord 64 0x5028022A00000684 = some (.mcmp ⟨20, 1, 21, 0, 0, false, .f32, false, false, 4⟩)
    ∧ decodeTableWord 64 0x5002100000000880 = some (.msta ⟨1, 8, 0, 0, 0, false, .f32, false, false, 0⟩)
    ∧ decodeTableWord 64 0x5002100000000A00 = some (.msave ⟨1, 8, 0, 0, 0, false, .i32, false, false, 0⟩)
    ∧ decodeTableWord 64 0x5002100000000C00 = some (.mrest ⟨1, 8, 0, 0, 0, false, .i32, false, false, 0⟩)
    ∧ decodeTableWord 64 0x5000041420000E00 = some (.mldb ⟨0, 2, 10, 16, 0, false, .i32, false, false, 0⟩)
    ∧ decodeTableWord 64 0x5002001C00001000 = some (.manch ⟨1, 0, 14, 0, 0, false, .i32, false, false, 0⟩)
    ∧ decodeTableWord 64 0x5002000000001200 = some (.mbank ⟨1, 0, 0, 0, 0, false, .i32, false, false, 0⟩) := by
  decide +kernel

/-- Words of 13 R326, written out there. -/
theorem test_decode_launch :
    decodeTableWord 64 0x6014040800000000 = some (.launch ⟨10, 2, 4, 0, 0, false, .i32, false, false, 0⟩)
    ∧ decodeTableWord 64 0x6014040800000200 = some (.ldisp ⟨10, 2, 4, 0, 0, false, .i32, false, false, 0⟩)
    ∧ decodeTableWord 64 0x6018140000000400 = some (.lstat ⟨12, 10, 0, 0, 0, false, .i32, false, false, 0⟩) := by
  decide +kernel

/-- Words of 14 R364, R366, R367, R381, R383, written out there. -/
theorem test_decode_system :
    decodeTableWord 64 0x7014240800000060 = some (.csrr ⟨10, 18, 4, 0, 0, false, .n64, false, false, 0⟩)
    ∧ decodeTableWord 64 0x7000241008000260 = some (.csrw ⟨0, 18, 8, 4, 0, false, .n64, false, false, 0⟩)
    ∧ decodeTableWord 64 0x700004080A000400 = some (.tlbinvRange ⟨0, 2, 4, 5, 0, false, .i32, false, false, 0⟩)
    ∧ decodeTableWord 64 0x700000000A000401 = some (.tlbinvCtx ⟨0, 0, 0, 5, 0, false, .i32, false, false, 1⟩)
    ∧ decodeTableWord 64 0x7000000000000403 = some (.tlbinvAll ⟨0, 0, 0, 0, 0, false, .i32, false, false, 3⟩)
    ∧ decodeTableWord 64 0x7018140000000600 = some (.haltGrid ⟨12, 10, 0, 0, 0, false, .i32, false, false, 0⟩)
    ∧ decodeTableWord 64 0x7018000A00000801 = some (.resumeCtx ⟨12, 0, 5, 0, 0, false, .i32, false, false, 1⟩) := by
  decide +kernel

/-- Words of 14 R366, R367, R381, written out there. -/
theorem test_decode_system2 :
    decodeTableWord 64 0x7000000000000A00 = some (.tret ⟨0, 0, 0, 0, 0, false, .i32, false, false, 0⟩)
    ∧ decodeTableWord 64 0x701404080A000C00 = some (.ctxsv ⟨10, 2, 4, 5, 0, false, .i32, false, false, 0⟩)
    ∧ decodeTableWord 64 0x7014040800000E00 = some (.ctxrs ⟨10, 2, 4, 0, 0, false, .i32, false, false, 0⟩)
    ∧ decodeTableWord 64 0x7014040800001000 = some (.errclr ⟨10, 2, 4, 0, 0, false, .i32, false, false, 0⟩)
    ∧ decodeTableWord 64 0x7014040800001001 = some (.errclrCo ⟨10, 2, 4, 0, 0, false, .i32, false, false, 1⟩)
    ∧ decodeTableWord 64 0x7014040800001200 = some (.knell ⟨10, 2, 4, 0, 0, false, .i32, false, false, 0⟩) := by
  decide +kernel


/-! ### One step of each kind of word, on small states

Expected values come from the worked cases of spec/ that each docstring names, or are worked out by hand from the rule. -/

/-- A warp of 16 lanes of a running grid, at 0x1000. -/
def atWarp : State := State.reset.placeWord 0x2200000000000000

/-- Conductor thread 0 at supervisor level, at 0x1000. -/
def atThread : State := State.reset.placeWord 0x6014040800000000

/-- The state that a word at the first thread's address leaves. -/
def runs (i : Instr) (s : State) : State :=
  match exec i { s with issuePc := (s.me.threads.headD {}).pc } with
  | .next t => t
  | _ => State.reset

/-- A register set in lanes 0, 1, ... -/
def fill (s : State) (n : Nat) (vs : List Word) : State :=
  vs.zipIdx.foldl (fun t e => t.setReg e.2 n e.1) s

/-- The same value of a register in every lane of the warp. -/
def fillAll (s : State) (n : Nat) (v : Word) : State := fill s n (List.replicate s.me.width v)

/-- A register of lanes 0 to k - 1. -/
def row (t : State) (n k : Nat) : List Word := (List.range k).map (fun l => t.reg l n)

/-- The plain fields of a W3 word. -/
def f3 (d a b c : BitVec 8) (ty : Ty) (m : BitVec 3 := 0) : W3 := ⟨d, a, b, c, 0, false, ty, false, false, m⟩

/-- 10, worked case "two corners of division" (R63). -/
def divided : State := fill (fill atWarp 11 [7, 0xFFFFFFF9, 5, 0x80000000]) 12 [2, 2, 0, 0xFFFFFFFF]

theorem test_idiv :
    row (runs (.idiv (f3 10 11 12 0 .i32)) divided) 10 4 = [3, 0xFFFFFFFD, 0xFFFFFFFF, 0x80000000]
    ∧ (runs (.idiv (f3 10 11 12 0 .i32)) divided).me.iexc = 3 := by decide +kernel

theorem test_irem : row (runs (.irem (f3 13 11 12 0 .i32)) divided) 13 4 = [1, 0xFFFFFFFF, 5, 0] := by decide +kernel

/-- 10, the same worked case: 64-bit addition in halves. -/
theorem test_iaddc :
    let t := runs (.iaddc (f3 20 4 6 30 .n32)) (fill (fill (fill (fill atWarp 4 [0xFFFFFFFF]) 5 [2]) 6 [1]) 7 [3])
    row t 20 1 = [0] ∧ row t 21 1 = [1]
    ∧ row (runs (.iaddc (f3 22 5 7 21 .n32)) t) 22 1 = [6] ∧ row (runs (.iaddc (f3 22 5 7 21 .n32)) t) 23 1 = [0] := by
  decide +kernel

/-- 10 R255: imulh is the upper half of the signed product; lea shifts a sign-extended index. -/
theorem test_imulh_lea :
    row (runs (.imulh (f3 3 4 5 0 .i32)) (fill (fill atWarp 4 [0xFFFFFFFE]) 5 [3])) 3 1 = [0xFFFFFFFF]
    ∧ (runs (.lea (f3 8 10 12 0 .i32 3)) (fill (fill atWarp 10 [0x100]) 12 [0xFFFFFFFF])).pair 0 8 = 0xF8 := by
  decide +kernel

/-- 10 R257: movi sign-extends for i64, and movhi keeps the lower word. -/
theorem test_movi_movhi :
    (runs (.movi ⟨8, 0, .i64, 0xFFFFFFF8⟩) atWarp).pair 0 8 = 0xFFFFFFFFFFFFFFF8
    ∧ (runs (.movhi ⟨8, 0, .n64, 0x80000000⟩) (fill atWarp 8 [5])).pair 0 8 = 0x8000000000000005 := by
  decide +kernel

/-- 10 R259: a bit field of 8 bits at position 4, its sign kept; a shift by the width gives 0, an arithmetic one the sign. -/
theorem test_logic :
    row (runs (.bfx (f3 3 4 5 0 .i32)) (fill (fill atWarp 4 [0x00000FA5]) 5 [0x0804])) 3 1 = [0xFFFFFFFA]
    ∧ row (runs (.shl (f3 3 4 5 0 .n32)) (fill (fill atWarp 4 [0xFFFFFFFF]) 5 [32])) 3 1 = [0]
    ∧ row (runs (.sar (f3 3 4 5 0 .i32)) (fill (fill atWarp 4 [0x80000000]) 5 [40])) 3 1 = [0xFFFFFFFF] := by
  decide +kernel

/-- 03 R67, R70: 2^24 + 1 is a tie that rne rounds to even with NX; mode rup takes the value above. -/
theorem test_fadd :
    let s := fill (fill atWarp 4 [0x4B800000]) 5 [0x3F800000]
    row (runs (.fadd (f3 3 4 5 0 .f32 0)) s) 3 1 = [0x4B800000] ∧ (runs (.fadd (f3 3 4 5 0 .f32 0)) s).me.fexc = 0x10 := by
  decide +kernel

/-- 10 R261: ffma rounds once: (1 + 2^-23)^2 - 1 is exact in its sum. -/
theorem test_ffma :
    row (runs (.ffma (f3 3 4 4 5 .f32)) (fill (fill atWarp 4 [0x3F800001]) 5 [0xBF800000])) 3 1 = [0x34800000] := by
  decide +kernel

/-- 10 R262: fmin orders -0 below +0; fcmp with a quiet NaN under lt is 0 and sets NV. -/
theorem test_fmin_fcmp :
    row (runs (.fmin (f3 3 4 5 0 .f32)) (fill (fill atWarp 4 [0]) 5 [0x80000000])) 3 1 = [0x80000000]
    ∧ row (runs (.fcmp (f3 3 4 5 0 .f32 2)) (fill atWarp 4 [0x7FC00000])) 3 1 = [0]
    ∧ (runs (.fcmp (f3 3 4 5 0 .f32 2)) (fill atWarp 4 [0x7FC00000])).me.fexc = 1 := by decide +kernel

/-- 10, worked case "saturating into s8p4i". -/
def saturating : State := { (fill atWarp 4 [0x447A0000, 0x7F800000, 0x7FC00000, 0x3E99999A, 0xBFC00000, 0x3727C5AC]) with
  me := { atWarp.me with threads := atWarp.me.threads.take 6 } }

theorem test_fcvt_to_binary8 :
    let t := runs (.fcvtToBinary8 (f3 5 4 0 0x94 .f32)) saturating
    row t 5 6 = [0x7E, 0x7F, 0x80, 0x32, 0xC4, 0x00] ∧ t.me.fexc = 0x1C := by decide +kernel

/-- 10 R266: -2.5 towards zero. -/
theorem test_icvt : row (runs (.icvt (f3 5 4 4 0 .i32 1)) (fill atWarp 4 [0xC0200000])) 5 1 = [0xFFFFFFFE] := by
  decide +kernel

/-- 10, worked case "one block through fpack and funpack". -/
def packed : State :=
  runs (.fpack (f3 20 8 0 0x84 .f32)) (fill (fill (fill atWarp 8 [0x447A0000]) 9 [0xC0400000]) 10 [0x3DC00000])

theorem test_fpack : row packed 20 2 = [0x000CB478, 0] ∧ row packed 21 16 = List.replicate 16 3 ∧ packed.me.fexc = 0x10 := by
  decide +kernel

theorem test_funpack :
    let t := runs (.funpack (f3 24 20 0 4 .f32)) packed
    row t 24 2 = [0x44800000, 0] ∧ row t 25 2 = [0xC0400000, 0] ∧ row t 26 2 = [0x3DC00000, 0] ∧ row t 27 2 = [0, 0]
    ∧ t.me.fexc = 0x10 := by decide +kernel

/-- 10 R270: fsqrt is correctly rounded (the square root of 2), and frcp of 0 is infinite with DZ. -/
theorem test_sfu :
    row (runs (.fsqrt (f3 3 4 0 0 .f32)) (fillAll atWarp 4 0x40000000)) 3 1 = [0x3FB504F3]
    ∧ row (runs (.frcp (f3 3 4 0 0 .f32)) (fill atWarp 4 [0])) 3 1 = [0x7F800000] := by decide +kernel

/-- 09, worked case "one tree, two orders". -/
def summing : State := { (fill atWarp 11 [0x3F800000, 0x3F800000, 0x4B800000, 0x3F800000]) with
  me := { atWarp.me with threads := atWarp.me.threads.zipIdx.map (fun e => if e.2 < 4 then e.1 else { e.1 with st := .exited }) } }

theorem test_redux :
    let t := runs (.redux (f3 10 11 0 0 .f32)) summing
    row t 10 4 = List.replicate 4 0x4B800001 ∧ t.me.fexc = 0x10 := by decide +kernel

theorem test_scan : row (runs (.scan (f3 12 11 0 0 .f32)) summing) 12 4 = [0x3F800000, 0x40000000, 0x4B800001, 0x4B800001] := by
  decide +kernel

/-- 09 R243, R244: an exclusive-or shuffle by 1, the lanes below a lane, and the lanes whose predicate is set. -/
theorem test_lane :
    row (runs (.shfl (f3 10 11 12 0 .i32 3)) (fillAll (fill atWarp 11 [5, 6]) 12 1)) 10 2 = [6, 5]
    ∧ (runs (.lmask (f3 10 0 0 0 .i32 1)) atWarp).pair 3 10 = 7
    ∧ (runs (.vote (f3 10 11 0 0 .i32 3)) (fill atWarp 11 [1, 2, 3])).pair 9 10 = 5 := by decide +kernel

/-- 09 R247, R249: with key 0 and counter 7 lane 1 draws H(0, 7 + 2^40), worked out by hand; the counter becomes 8. -/
theorem test_rng :
    let t := runs (.rng (f3 6 0 0 0 .n64)) { atWarp with me := { atWarp.me with rngCtr := 7 } }
    t.pair 1 6 = 0x75894746873AC3F5 ∧ t.me.rngCtr = 8 := by decide +kernel

/-- 09 R228, R230; 03 R68: %lane of each lane; a reserved rounding mode leaves %fpmode as it was. -/
theorem test_special :
    row (runs (.smov (f3 1 0 0 0 .n32)) atWarp) 1 3 = [0, 1, 2]
    ∧ (runs (.smovw (f3 0 16 4 0 .n32)) (fill atWarp 4 [3])).me.fpmode = 3
    ∧ (runs (.smovw (f3 0 16 4 0 .n32)) (fill atWarp 4 [7])).me.fpmode = 0 := by decide +kernel

/-- 09 R237: a warp of 32 lanes splits into its slot and the other slot of its cluster. -/
theorem test_split :
    let w32 : State := { atWarp with me := { atWarp.me with
      width := 32, threads := (List.range 32).map (fun l => { pos := l, pc := 0x1000 }) } }
    let t := runs (.split (f3 20 0 0 0 .i32)) w32
    t.me.width = 16 ∧ (t.agent 1).map (fun a => (a.width, a.base)) = some (16, 16) ∧ row t 20 2 = [0, 0] := by
  decide +kernel

/-- 11 R282: a guarded branch sends the lanes that pass to their target; call writes the link. -/
theorem test_branch :
    let t := runs (.bra ⟨2, 2, false, 0, 6⟩) (fill atWarp 2 [0, 1])
    (pcOf t 0, pcOf t 1) = (some 0x1008, some 0x1030)
    ∧ (runs (.call ⟨0, 0, false, 30, 10⟩) atWarp).pair 4 30 = 0x1008
    ∧ pcOf (runs (.call ⟨0, 0, false, 30, 10⟩) atWarp) 4 = some 0x1050 := by decide +kernel

/-- 11, worked case "a counted loop": the count of 4 opens level 0 with its body; a count of 0 skips the body. -/
theorem test_loop :
    let i : Instr := .loop ⟨0, 0, false, 5, 3⟩
    let t := runs i (fillAll atWarp 5 4)
    t.me.lc0 = 4 ∧ t.me.loops = [⟨0x1008, 0x1018, false⟩] ∧ pcOf (runs i atWarp) 0 = some 0x1018
    ∧ (runs i atWarp).me.loops = [] := by decide +kernel

/-- 11 R277: meet sets %meet to the word offset of the address from the code's base (worked case: join at 0x38 is 7). -/
theorem test_meet :
    let t := runs (.meet ⟨0, 0, false, 0, 5⟩) { atWarp with issuePc := 0x1010, me := { atWarp.me with
      threads := atWarp.me.threads.map (fun x => { x with pc := 0x1010 }) } }
    t.me.threads.map (·.meet) = List.replicate 16 7 := by decide +kernel

/-- 11 R291: exit ends the active lanes; R293 with 14 R358: a trap under SE enters the handler with the trapping word as
link and SE cleared. -/
theorem test_exit_trap :
    stOf (runs (.exit (f3 0 0 0 0 .i32)) atWarp) 3 = some .exited
    ∧ (let t := runs (.trap (f3 0 7 0 0 .i32)) { atWarp with me := { atWarp.me with trapvec := 0x42 } }
      pcOf t 3 = some 0x1040 ∧ t.pair 3 126 = 0x1000 ∧ t.me.trapvec = 0x40) := by decide +kernel

/-- 14 R347, R348: an illegal instruction stops its warp with code 1 in %trapinfo and its grid takes the fault. -/
theorem test_fault :
    let t := runs .illegalInstruction atWarp
    t.me.trapinfo = 1 ∧ t.me.halted = .stop ∧ (t.part 0).stop.isSome = true := by decide +kernel

/-- 07 R176, R182: a store of lane 0 leaves memory as it was with one piece in flight; its drain through the L1 writes the section's copy. -/
def storing : State := runs (.st ⟨12, 8, 20, false, 2, .cl, .g, 0x40⟩) (fill (fill (fill atWarp 20 [1]) 8 [0x2000]) 12 [77])

theorem test_st :
    storing.mem.byte 0x2040 = 0
    ∧ ((storing.accesses.find 1).map (fun a => a.pieces.map (fun p => (p.key, p.val)))) = some [(0x810, 77)]
    ∧ (runs (.storeDrain 65536) (runs (.storeDrain 65536) storing)).copyOf 0 0x810 = some 77 := by decide +kernel

/-- 07 R176: a load reads its word at the bank, and its data fill the register. -/
theorem test_ld :
    let s : State := { (fill (fill atWarp 20 [1]) 8 [0x2000]) with mem := (Memory.setWord atWarp.mem 0x810 0xABCD), lines := [] }
    let t := runs (.loadDataReturn 1) (runs (.bankRead 65536) (runs (.ld ⟨12, 8, 20, false, 2, .wp, .g, 0x40⟩) s))
    t.reg 0 12 = 0xABCD ∧ t.accesses.find 1 = none := by decide +kernel

/-- 07 R170: a misaligned address is MISALIGNED_ACCESS with its lane. -/
theorem test_misaligned :
    (runs (.ld ⟨12, 8, 0, false, 2, .pkg, .g, 0⟩) (fill atWarp 8 [0, 1])).me.trapinfo.toNat % 65536 = 0x105 := by
  decide +kernel

/-- 08 R213 to R215: a gong of 16 bytes and one arrival completes its phase when both are subtracted. -/
theorem test_gong :
    let s := runs (.gongi (f3 0 12 10 11 .i32)) (fill (fill atWarp 10 [16]) 11 [2])
    s.gong (2 ^ 22 / 4) = ⟨16, 2, 16, 2⟩
    ∧ (runs (.gonga (f3 14 12 13 0 .i32)) (fill s 13 [0xFFFFFFF0])).gong (2 ^ 22 / 4) = ⟨0, 1, 16, 2⟩ := by decide +kernel

/-- 08 R212: tagff gives 64 where no tag of the mask is set; 08 R207: pop of an empty status queue gives 0. -/
theorem test_tag_queue :
    row (runs (.tagff (f3 14 12 0 0 .i32)) atWarp) 14 1 = [64]
    ∧ row (runs (.pop (f3 11 0 1 0 .i32)) (fill atWarp 11 [9])) 11 1 = [0] := by decide +kernel

set_option maxRecDepth 100000 in
/-- 12 R306 to R308: an element that is cleared resolves to +0. -/
theorem test_mzero_mres :
    row (runs (.mres (f3 48 1 0 0 .f32)) (runs (.mzero (f3 1 0 0 0 .i32)) (fill atWarp 48 [5]))) 48 1 = [0] := by
  decide +kernel

/-- 13 R331: a handle that names no grid gives 15; 14 R382: csrr reads XCTVEC (0x20). -/
theorem test_conductor :
    row (runs (.lstat (f3 12 10 0 0 .i32)) atThread) 12 1 = [15]
    ∧ row (runs (.csrr (f3 10 7 4 0 .n32)) atThread) 10 1 = [1] := by decide +kernel

/-- 01 R27; 02 R51: a warp's SYSTEM word is PRIVILEGE. -/
theorem test_privilege : (runs (.tret (f3 0 0 0 0 .i32)) atWarp).me.trapinfo.toNat % 256 = 3 := by decide +kernel

/-- 02 R30; 16 R405: the placed word runs as the first step after reset, and the tick rises. -/
theorem test_step :
    (match step (State.reset.withFetchWord 64 0x0206080A00000000) with
      | .next t => some (pcOf t 0, t.tick, t.me.threads.length)
      | _ => none) = some (some 0x1008, 1, 16) := by decide +kernel

/-! ### What each check of WellFormed refuses -/

/-- W3 words (02 R32, R38 to R44): a type the function does not have, an unused field, a pair at an odd register, a
group out of place, a value out of range, a mode, a negated v0, a guard where none is admitted, and hints on words or
fields that take none. -/
theorem test_w3_ill_formed :
    [Instr.iadd (f3 3 4 5 0 .f32), .iadd (f3 3 4 5 1 .i32), .iadd (f3 3 4 6 0 .i64), .fpack (f3 20 9 0 0x84 .f32),
      .mcmp (f3 20 1 21 4 .f32 4), .icmp (f3 3 4 5 0 .i32 6), .fadd (f3 3 4 5 0 .f64 5),
      .iadd ⟨3, 4, 5, 0, 0, true, .i32, false, false, 0⟩, .split ⟨20, 0, 0, 0, 7, false, .i32, false, false, 0⟩,
      .ineg ⟨3, 4, 0, 0, 0, false, .i32, false, true, 0⟩, .rngseed ⟨0, 4, 0, 0, 0, false, .i32, true, false, 0⟩].all
      (fun i => !i.wellFormed) = true := by decide +kernel

/-- WI words (02 R33; 10 R256): a type, a pair, a count of the width or more, a condition above 5, and movhi's types. -/
theorem test_wi_ill_formed :
    [Instr.iaddi ⟨6, 7, .f32, 1⟩, .iaddi ⟨6, 7, .i64, 1⟩, .shli ⟨6, 7, .n32, 32⟩, .icmpi ⟨6, 7, .i32, 0xC0000000⟩,
      .movi ⟨6, 7, .i32, 1⟩, .movhi ⟨6, 0, .i32, 1⟩].all (fun i => !i.wellFormed) = true := by decide +kernel

/-- WM words (02 R34, R44; 07 R175): sizes, data groups, scopes and address pairs by space, and pref's fields. -/
theorem test_wm_ill_formed :
    [Instr.ld ⟨12, 8, 0, false, 6, .pkg, .g, 0⟩, .ld ⟨13, 8, 0, false, 3, .pkg, .g, 0⟩, .ld ⟨12, 9, 0, false, 2, .pkg, .g, 0⟩,
      .st ⟨12, 5, 0, false, 2, .pkg, .sp, 0⟩, .st ⟨12, 5, 0, false, 2, .cl, .rsp, 0⟩, .ldacq ⟨12, 8, 0, false, 3, .pkg, .g, 0⟩,
      .lddec ⟨12, 8, 0, false, 2, .pkg, .co, 0⟩, .stnt ⟨12, 5, 0, false, 2, .cl, .sp, 0⟩, .pref ⟨1, 8, 0, false, 2, .wp, .g, 0⟩,
      .st ⟨12, 8, 0, true, 2, .pkg, .g, 0⟩].all (fun i => !i.wellFormed) = true := by decide +kernel

/-- WB words (02 R36; 11 R281): a register where none is named, an odd link pair, a loop's hint, guard and length, an
offset of a register branch, and hints of brk and meet. -/
theorem test_wb_ill_formed :
    [Instr.bra ⟨0, 0, false, 1, 4⟩, .call ⟨0, 0, false, 31, 4⟩, .loop ⟨3, 0, false, 20, 9⟩, .loop ⟨0, 2, false, 20, 9⟩,
      .loop ⟨0, 0, false, 20, 1⟩, .jmpr ⟨0, 0, false, 8, 1⟩, .ret ⟨0, 0, false, 9, 0⟩, .brk ⟨1, 0, false, 0, 0⟩,
      .meet ⟨0, 0, false, 1, 5⟩].all (fun i => !i.wellFormed) = true := by decide +kernel

/-- Paired words (02 R46, R48): a slot's type, an operand it does not have, its mode, nop's destination, and both bank
rules. -/
theorem test_pair_ill_formed :
    [Instr.pairedWord ⟨⟨.fadd, 4, 7, .i32, 0⟩, ⟨.nop, 0, 0, .i32, 0⟩⟩, .pairedWord ⟨⟨.iaddi, 4, 7, .i32, 0⟩, ⟨.nop, 0, 0, .i32, 0⟩⟩,
      .pairedWord ⟨⟨.iadd, 4, 7, .i32, 1⟩, ⟨.nop, 0, 0, .i32, 0⟩⟩, .pairedWord ⟨⟨.icmp, 4, 7, .i32, 6⟩, ⟨.nop, 0, 0, .i32, 0⟩⟩,
      .pairedWord ⟨⟨.nop, 4, 0, .i32, 0⟩, ⟨.nop, 0, 0, .i32, 0⟩⟩, .pairedWord ⟨⟨.iadd, 4, 7, .i32, 0⟩, ⟨.iadd, 8, 6, .i32, 0⟩⟩,
      .pairedWord ⟨⟨.iadd, 4, 7, .i32, 0⟩, ⟨.iadd, 5, 11, .i32, 0⟩⟩].all (fun i => !i.wellFormed) = true := by decide +kernel

/-- The form of an instruction that shares its fn must be its own, and a hardware step has no word. -/
theorem test_form_ill_formed :
    [Instr.fcvtFloat (f3 5 4 0 0x94 .f32), .tlbinvAll (f3 0 0 0 0 .i32), .haltCtx (f3 12 0 5 0 .i32), .regionInvalidate (f3 0 5 0 0 .i32 1),
      .storeDrain 0, .powerGood].all (fun i => !i.wellFormed) = true := by decide +kernel


/-! ### The statements' hypotheses are met

Each witness below names the statement it belongs to and shows states and operands that meet its hypotheses together,
clause by clause. -/

/-- Clear, decided. -/
def clearB (s : State) (g : BitVec 8) (gn : Bool) (named sources : List Nat) (first : List Nat := []) : Bool :=
  (g == 0 || s.holds g.toNat) && named.all s.holds && (s.active g gn).all (fun l => sources.all (fun n => !s.poisoned l n))
    && ((s.active g gn).take 1).all (fun l => first.all (fun n => !s.poisoned l n))

theorem clear_of {s : State} {g : BitVec 8} {gn : Bool} {named sources first : List Nat}
    (h : clearB s g gn named sources first = true) : Clear s g gn named sources first := by
  simp only [clearB, Bool.and_eq_true, Bool.or_eq_true, beq_iff_eq, List.all_eq_true, Bool.not_eq_true'] at h
  refine ⟨h.1.1.1, h.1.1.2, h.1.2, fun l hl => h.2 l ?_⟩
  cases hs : s.active g gn <;> simp_all

/-- Clear3, decided. -/
def clear3B (s : State) (major fn : Nat) (w : W3) : Bool :=
  match w3Shape major fn w with
  | some h => clearB s w.g w.gn (w3Named h w) (w3Reads major fn h w).1 (w3Reads major fn h w).2
  | none => false

theorem clear3_of {s : State} {major fn : Nat} {w : W3} (h : clear3B s major fn w = true) : Clear3 s major fn w := by
  unfold clear3B at h
  split at h
  · exact ⟨_, ‹_›, clear_of h⟩
  · simp at h

/-- A word of a table of witnesses: its instruction, major, fn and fields. -/
abbrev Row := (W3 → Instr) × Nat × Nat × W3

/-- A word runs in a state, decided. -/
def runsB (s : State) (e : Row) : Bool := (e.1 e.2.2.2).wellFormed && clear3B s e.2.1 e.2.2.1 e.2.2.2

theorem runs_of {s : State} {es : List Row} (h : es.all (runsB s) = true) :
    ∀ e ∈ es, (e.1 e.2.2.2).wellFormed = true ∧ Clear3 s e.2.1 e.2.2.1 e.2.2.2 := by
  intro e he
  have := List.all_eq_true.mp h e he
  simp only [runsB, Bool.and_eq_true] at this
  exact ⟨this.1, clear3_of this.2⟩

/-- A word decodes to an instruction, from its decidable form. -/
theorem decodes_of {w : DWord} {i : Instr} (h : (decode w).toOption = some i) : decode w = .ok i := by
  cases hd : decode w <;> simp [hd, Except.toOption] at h; rw [h]

/-- A word with every field of the plain kind in lanes of both agents: the highest registers of a warp of 128. -/
def intTable : List Row := [
  (.iadd, 1, 0, f3 127 126 125 0 .i32), (.isub, 1, 1, f3 126 124 122 0 .i64), (.imul, 1, 2, f3 127 0 0 0 .n32),
  (.imulh, 1, 3, f3 126 0 2 0 .n64), (.imad, 1, 4, f3 3 4 5 6 .i32), (.idiv, 1, 5, f3 3 4 5 0 .i32),
  (.irem, 1, 6, f3 4 6 8 0 .i64), (.imin, 1, 7, f3 3 4 5 0 .n32), (.imax, 1, 8, f3 3 4 5 0 .i32),
  (.iabs, 1, 9, f3 3 4 0 0 .i32), (.ineg, 1, 10, f3 3 4 0 0 .i32), (.iaddc, 1, 11, f3 126 4 6 30 .n32),
  (.isubb, 1, 12, f3 20 4 6 30 .n32), (.sel, 1, 13, f3 3 4 5 6 .f32), (.lea, 1, 14, f3 8 10 12 0 .n32 7),
  (.icmp, 1, 15, f3 3 4 5 0 .i32 5)]

/-- IntWords, in a warp and in a conductor thread. -/
theorem witness_IntWords : (∀ e ∈ intTable, (e.1 e.2.2.2).wellFormed = true ∧ Clear3 atWarp e.2.1 e.2.2.1 e.2.2.2)
    ∧ ∀ e ∈ intTable, (e.1 e.2.2.2).wellFormed = true ∧ Clear3 atThread e.2.1 e.2.2.1 e.2.2.2 :=
  ⟨runs_of (by decide +kernel), runs_of (by decide +kernel)⟩

def wiTable : List ((WI → Instr) × Nat × WI) := [
  (.iaddi, 0, ⟨127, 126, .i32, 0xFFFFFFFF⟩), (.imuli, 1, ⟨126, 124, .i64, 3⟩), (.andi, 2, ⟨6, 7, .n32, 0xFF⟩),
  (.ori, 3, ⟨6, 7, .n32, 0⟩), (.xori, 4, ⟨6, 7, .i32, 1⟩), (.shli, 5, ⟨6, 7, .n32, 31⟩), (.shri, 6, ⟨6, 8, .n64, 63⟩),
  (.sari, 7, ⟨6, 7, .i32, 0⟩), (.movi, 8, ⟨7, 0, .f32, 0x3F800000⟩), (.movhi, 9, ⟨126, 0, .n64, 0x80000000⟩),
  (.icmpi, 10, ⟨6, 7, .i32, 0xA0000000⟩)]

theorem witness_ImmediateWords : ∀ e ∈ wiTable, (e.1 e.2.2).wellFormed = true
    ∧ Clear atWarp 0 false (wiNamed e.2.1 e.2.2) (wiSources e.2.1 e.2.2) := by
  have h : wiTable.all (fun e => (e.1 e.2.2).wellFormed && clearB atWarp 0 false (wiNamed e.2.1 e.2.2)
      (wiSources e.2.1 e.2.2)) = true := by decide +kernel
  intro e he
  have := List.all_eq_true.mp h e he
  simp only [Bool.and_eq_true] at this
  exact ⟨this.1, clear_of this.2⟩

def logicTable : List Row := [
  (.and, 3, 0, f3 3 4 5 0 .n32), (.or, 3, 1, f3 126 4 6 0 .i64), (.xor, 3, 2, f3 3 4 5 0 .n32), (.andn, 3, 3, f3 3 4 5 0 .n32),
  (.not, 3, 4, f3 3 4 0 0 .n32), (.shl, 3, 5, f3 3 4 5 0 .n32), (.shr, 3, 6, f3 2 4 5 0 .n64), (.sar, 3, 7, f3 2 4 6 0 .i64),
  (.rol, 3, 8, f3 3 4 5 0 .n32), (.bfx, 3, 9, f3 3 4 5 0 .i32), (.bfi, 3, 10, f3 3 4 5 6 .n32), (.popc, 3, 11, f3 3 4 0 0 .n32),
  (.clz, 3, 12, f3 2 4 0 0 .n64), (.ctz, 3, 13, f3 3 4 0 0 .n32), (.brev, 3, 14, f3 3 4 0 0 .i32), (.mov, 3, 15, f3 126 4 0 0 .f64)]

theorem witness_LogicWords : ∀ e ∈ logicTable, (e.1 e.2.2.2).wellFormed = true ∧ Clear3 atWarp e.2.1 e.2.2.1 e.2.2.2 :=
  runs_of (by decide +kernel)

def fpTable : List Row := [
  (.fadd, 4, 0, f3 3 4 5 0 .f32 6), (.fsub, 4, 1, f3 126 4 6 0 .f64), (.fmul, 4, 2, f3 3 4 5 0 .f16x2 5),
  (.ffma, 4, 3, f3 3 4 5 6 .bf16), (.frnd, 4, 10, f3 3 4 0 0 .f32 5), (.fscal, 4, 11, f3 3 4 5 0 .f32),
  (.fmin, 4, 4, f3 3 4 5 0 .f32), (.fmax, 4, 5, f3 3 4 5 0 .f16), (.fabs, 4, 6, f3 3 4 0 0 .bf16x2), (.fneg, 4, 7, f3 3 4 0 0 .f32),
  (.fcopys, 4, 12, f3 3 4 5 0 .f32), (.fcmp, 4, 8, f3 3 4 5 0 .f16x2 5), (.fclass, 4, 9, f3 3 4 0 0 .f64)]

theorem witness_FpWords : ∀ e ∈ fpTable, (e.1 e.2.2.2).wellFormed = true ∧ Clear3 atWarp e.2.1 e.2.2.1 e.2.2.2 :=
  runs_of (by decide +kernel)

def convertTable : List Row := [
  (.fcvtFloat, 5, 0, f3 5 4 7 0 .f32), (.fcvtFromBinary8, 5, 0, f3 5 4 0 0x44 .f32), (.fcvtToBinary8, 5, 0, f3 5 4 0 0x94 .f16x2),
  (.icvt, 5, 1, f3 5 4 4 0 .i32 1), (.fpack, 5, 2, f3 20 8 0 0x84 .f32), (.funpack, 5, 3, f3 124 20 0 4 .f32)]

theorem witness_ConversionWords_BlockScaleWords :
    (∀ e ∈ convertTable, (e.1 e.2.2.2).wellFormed = true ∧ Clear3 atWarp e.2.1 e.2.2.1 e.2.2.2)
    ∧ blockSize ((0x84 : BitVec 8).toNat / 64) / 4 ≤ atWarp.me.width := ⟨runs_of (by decide +kernel), by decide +kernel⟩

/-- BlockScaleWords: fpack in a conductor thread, which is narrower than every block. -/
theorem witness_BlockScaleWords_narrow :
    (w3Shape 5 2 (f3 20 8 0 0x84 .f32)).any (fun h => (w3Named h (f3 20 8 0 0x84 .f32)).all atThread.holds) = true
    ∧ atThread.me.width < blockSize ((0x84 : BitVec 8).toNat / 64) / 4 := by decide +kernel

def sfuTable : List Row := [
  (.frcp, 6, 0, f3 3 4 0 0 .f32), (.frsq, 6, 1, f3 3 4 0 0 .f16), (.fsqrt, 6, 2, f3 127 126 0 0 .f32), (.fex2, 6, 3, f3 3 4 0 0 .f16x2),
  (.flg2, 6, 4, f3 3 4 0 0 .f32), (.fsin, 6, 5, f3 3 4 0 0 .f32), (.fcos, 6, 6, f3 3 4 0 0 .bf16), (.ftanh, 6, 7, f3 3 4 0 0 .f32)]

theorem witness_SpecialFunctionWords :
    ∀ e ∈ sfuTable, (e.1 e.2.2.2).wellFormed = true ∧ Clear3 atWarp e.2.1 e.2.2.1 e.2.2.2 := runs_of (by decide +kernel)

/-- The paired word of 02's listing. -/
theorem witness_PairedWordReadsBeforeWriting :
    ∀ p ∈ [PairWord.mk ⟨.iadd, 4, 7, .i32, 0⟩ ⟨.fmul, 9, 10, .f32, 0⟩],
      (Instr.pairedWord p).wellFormed = true
      ∧ Clear atWarp 0 false (slotNamed p.s0 ++ slotNamed p.s1) (slotSources p.s0 ++ slotSources p.s1) := by
  intro p hp
  simp only [List.mem_singleton] at hp
  subst hp
  exact ⟨by decide +kernel, clear_of (by decide +kernel)⟩

def laneTable : List Row := [
  (.shfl, 8, 0, f3 10 11 12 0 .i32 3), (.vote, 8, 1, f3 10 11 0 0 .i32 4), (.bcast, 8, 2, f3 10 12 14 0 .i64),
  (.redux, 8, 3, f3 10 11 0 5 .i32), (.scan, 8, 4, f3 10 11 0 8 .i32), (.matchLanes, 8, 5, f3 10 12 0 0 .i32),
  (.lmask, 8, 6, f3 10 0 0 0 .i32 5), (.rng, 9, 3, f3 6 0 0 0 .f32), (.rngseed, 9, 4, f3 0 4 0 0 .i32), (.rngskip, 9, 5, f3 0 4 0 0 .i32)]

theorem witness_LaneWords_GeneratorWords :
    ∀ e ∈ laneTable, (e.1 e.2.2.2).wellFormed = true ∧ Clear3 atWarp e.2.1 e.2.2.1 e.2.2.2 := runs_of (by decide +kernel)

theorem err_of {ε α : Type} [DecidableEq ε] {x : Except ε α} {e : ε}
    (h : (match x with
      | .error k => decide (k = e)
      | .ok _ => false) = true) : x = .error e := by
  cases x <;> simp_all

theorem ok_of {ε α : Type} [DecidableEq α] {x : Except ε α} {a : α}
    (h : (match x with
      | .error _ => false
      | .ok b => decide (b = a)) = true) : x = .ok a := by
  cases x <;> simp_all

/-- Every live thread is a lane of a list, decided. -/
theorem live_in {s : State} {act : List Nat}
    (h : (List.range s.me.threads.length).all (fun l => !(s.me.threads[l]?.any Thread.live) || act.contains l) = true) :
    ∀ l th, s.me.threads[l]? = some th → th.live = true → l ∈ act := by
  intro l th hl hv
  have hlt := (List.getElem?_eq_some_iff.mp hl).1
  have := List.all_eq_true.mp h l (List.mem_range.mpr hlt)
  simpa [hl, hv] using this

/-- SpecialRegisterWords: smov of one selector, of an upper word, and of a shape register by a thread; a writable selector of
every clause of smovw. -/
theorem witness_SpecialRegisterWords :
    (∀ e ∈ [((.smov, 10, 0, f3 12 19 0 0 .n64) : Row), (.smov, 10, 0, f3 127 141 0 0 .n32)],
      (e.1 e.2.2.2).wellFormed = true ∧ Clear3 atWarp e.2.1 e.2.2.1 e.2.2.2)
    ∧ (∀ e ∈ [((.smov, 10, 0, f3 255 27 0 0 .n32) : Row), (.smovw, 10, 1, f3 0 24 255 0 .n32), (.smovw, 10, 1, f3 0 25 4 0 .n32),
        (.smovw, 10, 1, f3 0 26 4 0 .n32), (.smovw, 10, 1, f3 0 27 4 0 .n32)],
      (e.1 e.2.2.2).wellFormed = true ∧ Clear3 atThread e.2.1 e.2.2.1 e.2.2.2) ∧ atThread.me.isWarp = false
    ∧ atThread.active 0 false = [0]
    ∧ (∀ e ∈ ([8, 9, 10, 11, 13, 14, 16, 17, 18, 21, 22, 141, 142].map (fun a => (.smovw, 10, 1, f3 0 a 4 0 .n32)) ++
        [(.smovw, 10, 1, f3 0 13 4 0 .n64), (.smovw, 10, 1, f3 0 14 4 0 .n64)] : List Row),
      (e.1 e.2.2.2).wellFormed = true ∧ Clear3 atWarp e.2.1 e.2.2.1 e.2.2.2)
    ∧ atWarp.active 0 false = 0 :: (List.range 15).map (· + 1) :=
  ⟨runs_of (by decide +kernel), runs_of (by decide +kernel), by decide +kernel, by decide +kernel,
    runs_of (by decide +kernel), by decide +kernel⟩

/-- A warp with extended registers, its pair lock as given. -/
def locking (l : PairLock) : State :=
  { atWarp with me := { atWarp.me with regE := 16 }, locks := if l = {} then [] else [(0, l)] }

/-- PairLockWords: the lock free, its own, another warp's, and to be released. -/
theorem witness_PairLockWords :
    (∀ l ∈ [({} : PairLock), ⟨none, [0, 1]⟩, ⟨some 0, []⟩, ⟨some 1, []⟩, ⟨some 0, [1]⟩],
      (runsB (locking l) (.xacq, 10, 2, f3 0 0 0 0 .i32)) = true ∧ (runsB (locking l) (.xrel, 10, 3, f3 0 0 0 0 .i32)) = true
      ∧ (locking l).active 0 false ≠ [] ∧ (locking l).me.isWarp = true ∧ (locking l).me.regE ≠ 0
      ∧ (locking l).lock (locking l).me.core (locking l).me.pairGroup = l
      ∧ ∀ p ∈ (locking l).me.pend, extRow p.row = false)
    ∧ (0 : Nat) ∉ ([] : List Nat)
    ∧ (let s : State := { locking ⟨some 0, [1]⟩ with others :=
        [(1, { atWarp.me with kind := .warp 0 1, parks := [{ pc := 0x1000, wait := Wait.lock }] })] };
      runsB s (.xrel, 10, 3, f3 0 0 0 0 .i32) = true ∧ (s.others.find (s.me.core * 32 + 1)).isSome = true) := by decide +kernel

/-- A warp of 32 lanes beside its slot 1, the slots of its cluster as given. -/
def wide (slots : List Nat) : State := { atWarp with
  me := { atWarp.me with width := 32, threads := (List.range 32).map (fun l => { pos := l, pc := 0x1000 }) },
  clusters := [(1, { placedCluster with slots := slots })] }

/-- SplitHalvesTheWarp: with a free slot, and without one. -/
theorem witness_SplitHalvesTheWarp :
    runsB (wide [0, 1]) (.split, 9, 0, f3 20 0 0 0 .i32) = true ∧ (wide [0, 1]).me.kind = .warp 0 0
    ∧ 16 < (wide [0, 1]).me.width ∧ (wide [0, 1]).busy (wide [0, 1]).me = false
    ∧ (wide [0, 1]).freeSlot (wide [0, 1]).cluster = some 1
    ∧ ((wide [0, 1]).me.threads[16]?.any Thread.live) = true
    ∧ runsB (wide [0]) (.split, 9, 0, f3 127 0 0 0 .i32) = true ∧ (wide [0]).busy (wide [0]).me = false
    ∧ (wide [0]).freeSlot (wide [0]).cluster = none := by decide +kernel

/-- The same: its threads run, no level or meeting address among them. -/
theorem witness_SplitHalvesTheWarp_threads : Straight (wide [0, 1])
    ∧ ∀ th ∈ (wide [0, 1]).me.threads, th.live = true → th.st = .runnable :=
  ⟨⟨by decide +kernel, by decide +kernel⟩, by decide +kernel⟩

/-- Two warps of 16 lanes, the upper half waiting at fuse on the word at 0x1000. -/
def halves : State := { atWarp with others := [(1, { atWarp.me with
  kind := .warp 0 1, base := 16, parks := [{ pc := 0x1000, wait := .fuse 20 }] })] ++ atWarp.others }

def upper : Agent := (halves.agent 1).getD {}

/-- The same, the upper half at no fuse, its first thread at an address and the others at 0x1000. -/
def apart (pc : DWord) : State := { halves with others := [(1, { upper with
  parks := [], threads := upper.threads.mapIdx (fun i t => if i = 0 then { t with pc := pc } else t) })] ++ atWarp.others }

/-- FuseJoinsTwoWarps: fuseq with a partner whose threads stand together, and apart. -/
theorem witness_FuseJoinsTwoWarps_fuseq :
    (∀ e ∈ [((0x1000 : Nat), true), (0x1008, false)], let s := apart (BitVec.ofNat 64 e.1)
      runsB s (.fuseq, 9, 2, f3 20 0 0 0 .i32) = true ∧ (match s.fuseCheck with
        | .ok p => p == (s.agent 1).getD {} && !p.fusingAt s.issuePc
        | .error _ => false) = true
      ∧ ((s.agent 1).getD {}).threads.all (fun t => ((s.agent 1).getD {}).threads.all (fun u => t.pc == u.pc)) = e.2) := by
  decide +kernel

/-- FuseJoinsTwoWarps: without a partner (code 1), and with one that waits. -/
theorem witness_FuseJoinsTwoWarps :
    runsB atWarp (.fuse, 9, 1, f3 20 0 0 0 .i32) = true ∧ runsB atWarp (.fuseq, 9, 2, f3 127 0 0 0 .i32) = true
    ∧ atWarp.fuseCheck = .error 1
    ∧ runsB halves (.fuse, 9, 1, f3 20 0 0 0 .i32) = true ∧ runsB halves (.fuseq, 9, 2, f3 20 0 0 0 .i32) = true
    ∧ halves.fuseCheck = .ok upper ∧ halves.agent upper.id = some upper ∧ upper.id ≠ halves.me.id
    ∧ halves.busy halves.me = false ∧ halves.busy upper = false ∧ upper.fusingAt halves.issuePc = true
    ∧ halves.joinCode halves.me upper = 0 :=
  ⟨by decide +kernel, by decide +kernel, err_of (by decide +kernel), by decide +kernel, by decide +kernel, ok_of (by decide +kernel),
    by decide +kernel, by decide +kernel, by decide +kernel, by decide +kernel, by decide +kernel, by decide +kernel⟩

/-- The same: both warps' threads run, no level or meeting address among them. -/
theorem witness_FuseJoinsTwoWarps_threads : Straight halves ∧ Straight { halves with me := upper }
    ∧ ∀ th ∈ halves.me.threads ++ upper.threads, th.live = true → th.st = .runnable :=
  ⟨⟨by decide +kernel, by decide +kernel⟩, ⟨by decide +kernel, by decide +kernel⟩, by decide +kernel⟩

/-- RegisterCache: words of one register and of a pair that enter it, in an active warp with a full cache; a word whose two
sources are hinted, as it issues; the lock free and held. -/
theorem witness_RegisterCache :
    (∀ e ∈ [((.iadd, 1, 0, f3 127 126 125 0 .i32) : Row), (.imul, 1, 2, f3 126 124 122 0 .i64), (.imad, 1, 4, f3 3 4 5 6 .n32)],
      runsB { atWarp with me := { atWarp.me with cache := [1, 2, 3, 4, 5, 6] } } e = true)
    ∧ atWarp.active 0 false ≠ [] ∧ atWarp.me.isWarp = true ∧ atWarp.me.sched = .active
    ∧ (let w : W3 := { f3 3 4 5 0 .i32 with hintA := true, hintB := true }
       let t : State := { atWarp with me := { atWarp.me with cache := [3] } }
       (w3Shape 1 0 w).any (fun h => fieldRegs h.a w.ty w.a ++ fieldRegs h.b w.ty w.b == [4, 5])
       ∧ t.agent atWarp.me.id = some t.me ∧ t.me.id = atWarp.me.id ∧ t.me.anyOpen = true ∧ t.me.parkAt atWarp.issuePc = none
       ∧ 3 ∉ atWarp.me.cache ∧ t.me.cache = (3 :: atWarp.me.cache).take 6
       ∧ ((issued atWarp (some (.iadd w)) t).agent 0).map (·.cache) = some [3, 4, 5])
    ∧ (let a := { atWarp.me with parks := [{ pc := 0x1000, wait := .retry }] }
       ({ atWarp with me := a } : State).agent atWarp.me.id = some a ∧ a.groupPcs ≠ [] ∧ a.anyOpen = false)
    ∧ (locking {}).lock (locking {}).me.core (locking {}).me.pairGroup = ⟨none, []⟩ := by decide +kernel

/-- Straight, of a warp as it is placed. -/
theorem straight_atWarp : Straight atWarp := ⟨by decide +kernel, by decide +kernel⟩

/-- BranchesSendLanesToTheirTargets: each transfer with targets that are whole words, and jmpr to an address that is none. -/
theorem witness_BranchesSendLanesToTheirTargets :
    Straight atWarp ∧ atWarp.group ≠ []
    ∧ (∀ con ∈ [Instr.jmpr, .ret, .callr], (con ⟨0, 0, false, 8, 0⟩).wellFormed = true)
    ∧ (Instr.bra ⟨3, 0, false, 0, 0x80000000⟩).wellFormed = true ∧ (Instr.call ⟨0, 0, false, 126, 10⟩).wellFormed = true
    ∧ Clear atWarp 0 false [] [] ∧ Clear atWarp 0 false [8, 9] [8, 9] ∧ Clear atWarp 0 false [126, 127] []
    ∧ (∀ l ∈ atWarp.active 0 false, (atWarp.issuePc + 8 * (0x80000000 : BitVec 32).signExtend 64) &&& 7 = 0
      ∧ atWarp.pair l 8 &&& 7 = 0)
    ∧ Clear (fill atWarp 8 [8, 4]) 0 false [8, 9] [8, 9]
    ∧ (fill atWarp 8 [8, 4]).active 0 false = [0] ++ 1 :: (List.range 14).map (· + 2)
    ∧ (∀ j ∈ [0], (fill atWarp 8 [8, 4]).pair j 8 &&& 7 = 0) ∧ (fill atWarp 8 [8, 4]).pair 1 8 &&& 7 ≠ 0 :=
  ⟨straight_atWarp, by decide +kernel, by decide +kernel, by decide +kernel, by decide +kernel, clear_of (by decide +kernel),
    clear_of (by decide +kernel), clear_of (by decide +kernel), by decide +kernel, clear_of (by decide +kernel), by decide +kernel, by decide +kernel,
    by decide +kernel⟩

/-- A warp inside one loop level, at the last word of its body. -/
def inLoop : State := { atWarp with me := { atWarp.me with loops := [⟨0x1000, 0x1018, false⟩], lc0 := 1 } }

/-- LoopLevels: the loop word with a count and with 0, the level's end with a counter of 2, 1 and 0, and brk. -/
theorem witness_LoopLevels :
    (Instr.loop ⟨0, 0, false, 20, 3⟩).wellFormed = true ∧ Clear atWarp 0 false [20] [] [20] ∧ atWarp.group = 0 :: (List.range 15).map (· + 1)
    ∧ atWarp.wholeGroup = true ∧ Straight atWarp ∧ atWarp.branchTarget 3 ≠ atWarp.issuePc + 8
    ∧ atWarp.reg 0 20 = 0 ∧ (fillAll atWarp 20 4).reg 0 20 ≠ 0 ∧ (fillAll atWarp 20 4).wholeGroup = true
    ∧ (∀ c ∈ [2, 1, 0], ∃ a : Agent, a.loops = [⟨0x1000, 0x1018, false⟩] ∧ a.lc0 = c ∧ (∃ t ∈ a.threads, t.live = true)
      ∧ (∀ t ∈ a.threads, t.live = true → t.st = .atLoop) ∧ ∀ t ∈ a.threads, t.meet = 0xFFFFFFFF)
    ∧ (Instr.brk ⟨0, 0, false, 0, 0⟩).wellFormed = true ∧ Clear inLoop 0 false [] [] ∧ inLoop.me.loops = [⟨0x1000, 0x1018, false⟩]
    ∧ (∀ t ∈ inLoop.me.threads, t.meet = 0xFFFFFFFF) ∧ inLoop.wholeGroup = true ∧ inLoop.active 0 false ≠ [] :=
  ⟨by decide +kernel, clear_of (by decide +kernel), by decide +kernel, by decide +kernel, straight_atWarp, by decide +kernel,
    by decide +kernel, by decide +kernel, by decide +kernel,
    fun c _ => ⟨{ loops := [⟨0x1000, 0x1018, false⟩], lc0 := c, threads := [{ st := .atLoop }] }, rfl, rfl, by simp [Thread.live], by simp, by simp⟩,
    by decide +kernel, clear_of (by decide +kernel), by decide +kernel, by decide +kernel, by decide +kernel, by decide +kernel⟩

/-- MeetingPointHoldsAndReleases: the meet word, an arrival at address 0x1008 of code at 0x1000, and threads all held. -/
theorem witness_MeetingPointHoldsAndReleases :
    (Instr.meet ⟨0, 0, false, 0, 5⟩).wellFormed = true ∧ Clear atWarp 0 false [] [] ∧ Straight atWarp ∧ atWarp.group ≠ []
    ∧ meetAddr atWarp.me.codeBase (meetValue atWarp.me.codeBase (atWarp.branchTarget 5)) ≠ some (atWarp.issuePc + 8)
    ∧ meetAddr 0x1000 1 = some 0x1008
    ∧ (∃ a : Agent, (∃ t ∈ a.threads, t.live = true) ∧ ∀ t ∈ a.threads, t.live = true → t.st = .atMeet ∧ t.pc = 0x1008) :=
  ⟨by decide +kernel, clear_of (by decide +kernel), straight_atWarp, by decide +kernel, by decide +kernel, by decide +kernel,
    ⟨{ threads := [{ st := .atMeet, pc := 0x1008 }, { st := .exited }] }, by simp [Thread.live], by simp [Thread.live]⟩⟩

def flowTable : List Row := [
  (.nop, 17, 0, f3 0 0 0 0 .i32), (.exit, 17, 1, f3 0 0 0 0 .i32), (.tail, 17, 2, f3 0 0 0 0 .i32), (.trap, 17, 3, f3 0 7 0 0 .i32),
  (.yield, 17, 4, f3 0 0 0 0 .i32), (.spin, 17, 5, f3 0 0 0 0 .i32)]

/-- FlowWords and TrapWordEntersTheHandlerOrFaults: the words in a warp, the last lane of a thread, a warp with room in
its tracker, an active warp, and both sides of %trapvec.SE. -/
theorem witness_FlowWords_TrapWord :
    (∀ e ∈ flowTable, (e.1 e.2.2.2).wellFormed = true ∧ Clear3 atWarp e.2.1 e.2.2.1 e.2.2.2)
    ∧ (∀ e ∈ flowTable, (e.1 e.2.2.2).wellFormed = true ∧ Clear3 atThread e.2.1 e.2.2.1 e.2.2.2)
    ∧ atWarp.active 0 false = 0 :: (List.range 15).map (· + 1) ∧ atWarp.me.isWarp = true ∧ atThread.me.isWarp = false
    ∧ (∀ l th, atWarp.me.threads[l]? = some th → th.live = true → l ∈ atWarp.active 0 false)
    ∧ (∀ l th, atThread.me.threads[l]? = some th → th.live = true → l ∈ atThread.active 0 false)
    ∧ (atWarp.coreOf atWarp.me.core).tracker.length < 16 ∧ storing.openAccesses storing.me.id ≠ [] ∧ atWarp.me.sched = .active
    ∧ Straight atWarp ∧ atWarp.me.trapvec.getLsbD 1 = false ∧ 2 ≤ atWarp.me.regB ∧ atWarp.me.regB ≤ 256
    ∧ (let s : State := { atWarp with me := { atWarp.me with trapvec := 0x42 } }
      runsB s (.trap, 17, 3, f3 0 7 0 0 .i32) = true ∧ s.me.trapvec.getLsbD 1 = true) :=
  ⟨runs_of (by decide +kernel), runs_of (by decide +kernel), by decide +kernel, by decide +kernel, by decide +kernel,
    live_in (by decide +kernel), live_in (by decide +kernel), by decide +kernel, by decide +kernel, by decide +kernel,
    straight_atWarp, by decide +kernel, by decide +kernel, by decide +kernel, by decide +kernel⟩

/-- A word's lanes pass their checks with pieces that no access of the agent is held by, decided. -/
theorem pieces_of {s : State} {c : WordCheck} (h : (match c with
      | .ok ps => !ps.isEmpty && !s.overlaps ps
      | _ => false) = true) : ∃ ps, c = .ok ps ∧ ps ≠ [] ∧ s.overlaps ps = false := by
  cases c <;> simp_all

/-- What the load words of LoadsEnterFlight ask for. -/
def loadChecks (w : WM) (s : State) (kind : AccKind) : WordCheck :=
  s.checkLanes { s.newAccess kind w.sc.code.toNat with width := sizeBytes w.sz.toNat } true
    (fun r => s.checkLane r r.bytes) ((s.active w.g w.gn).map (s.loadReq w)) [] none

/-- What the store words of StoresEnterFlight ask for. -/
def storeChecks (w : WM) (s : State) (kind : AccKind) : WordCheck :=
  s.checkLanes { s.newAccess kind w.sc.code.toNat with width := sizeBytes w.sz.toNat } false
    (fun r => s.checkLane r r.bytes) ((s.active w.g w.gn).map (s.storeReq w)) [] none

def word32 : WM := ⟨12, 8, 0, false, 2, .pkg, .g, 0x40⟩
def word256 : WM := ⟨120, 8, 0, false, 5, .wp, .g, 0⟩

/-- LoadsEnterFlight: the three loads, of a word and of eight words, in a warp and in a thread. -/
theorem witness_LoadsEnterFlight :
    (∀ con ∈ [Instr.ld, .ldacq, .ldnt], (con word32).wellFormed = true) ∧ (Instr.ld word256).wellFormed = true
    ∧ (∀ s ∈ [atWarp, atThread], ∀ w ∈ [word32, word256],
      clearB s w.g w.gn (groupRegs w.d w.sz.toNat ++ addrRegs w.sp w.a) (addrRegs w.sp w.a) = true)
    ∧ (∃ ps, loadChecks word32 atWarp .load = .ok ps ∧ ps ≠ [] ∧ atWarp.overlaps ps = false)
    ∧ (∃ ps, loadChecks word32 atThread .ldacq = .ok ps ∧ ps ≠ [] ∧ atThread.overlaps ps = false)
    ∧ (∃ ps, loadChecks word256 atWarp .ldnt = .ok ps ∧ ps ≠ [] ∧ atWarp.overlaps ps = false) :=
  ⟨by decide +kernel, by decide +kernel, by decide +kernel, pieces_of (by decide +kernel), pieces_of (by decide +kernel),
    pieces_of (by decide +kernel)⟩

/-- A pref's page is held by a TLB, or found without one, decided. -/
def noMiss : XRes → Bool
  | .miss _ => false
  | _ => true

/-- LoadsEnterFlight: lddec of one element and of four, and pref. -/
theorem witness_LoadsEnterFlight_lddec_pref :
    (∀ w ∈ [(⟨20, 8, 0, false, 0, .pkg, .g, 0x10⟩ : WM), ⟨20, 8, 0, false, 3, .pkg, .g, 0x10⟩],
      (Instr.lddec w).wellFormed = true
      ∧ Clear atWarp w.g w.gn ((if w.sz.toNat ≤ 2 then [w.d.toNat] else groupRegs w.d w.sz.toNat) ++ addrRegs .g w.a) (addrRegs .g w.a)
      ∧ ∃ ps, atWarp.checkLanes { atWarp.newAccess .lddec w.sc.code.toNat with shape := w.sz.toNat, dest := w.d.toNat } true
          atWarp.checkDecode ((atWarp.active w.g w.gn).map (fun l =>
            { lane := l, ea := atWarp.ea .g w.a w.off.toInt l, bytes := shapeElems w.sz.toNat, need := { rd := true }, words := [] }))
          [] none = .ok ps ∧ ps ≠ [] ∧ atWarp.overlaps ps = false)
    ∧ (let w : WM := ⟨0, 8, 0, false, 2, .wp, .g, 0⟩
      (Instr.pref w).wellFormed = true ∧ Clear atWarp w.g w.gn (addrRegs w.sp w.a) (addrRegs w.sp w.a)
      ∧ (∀ l ∈ atWarp.active 0 false, noMiss (atWarp.prefPlace w l) = true)
      ∧ (∃ l ∈ (fillAll atWarp 8 0x10000).active 0 false, noMiss ((fillAll atWarp 8 0x10000).prefPlace w l) = false)) := by
  refine ⟨?_, by decide +kernel, clear_of (by decide +kernel), by decide +kernel, 0, by decide +kernel⟩
  intro w hw
  simp only [List.mem_cons, List.not_mem_nil, or_false] at hw
  rcases hw with rfl | rfl <;> exact ⟨by decide +kernel, clear_of (by decide +kernel), pieces_of (by decide +kernel)⟩

/-- A word of the scratchpad and its address offset. -/
def inPad (off : BitVec 20) : WM := ⟨12, 5, 0, false, 2, .cl, .sp, off⟩

/-- StoresEnterFlight: the three stores, of a word and of eight, in both spaces, and strel with writes to wait for. -/
theorem witness_StoresEnterFlight :
    (∀ con ∈ [Instr.st, .strel, .stnt], (con word32).wellFormed = true) ∧ (Instr.st (inPad 0)).wellFormed = true
    ∧ (Instr.stnt word256).wellFormed = true ∧ atWarp.active 0 false ≠ []
    ∧ (∀ w ∈ [word32, word256, inPad 0], clearB atWarp w.g w.gn (groupRegs w.d w.sz.toNat ++ addrRegs w.sp w.a)
        (groupRegs w.d w.sz.toNat ++ addrRegs w.sp w.a) = true)
    ∧ (∃ ps, storeChecks word32 atWarp .store = .ok ps ∧ ps ≠ [] ∧ atWarp.overlaps ps = false)
    ∧ (∃ ps, storeChecks (inPad 0) atWarp .store = .ok ps ∧ ps ≠ [] ∧ atWarp.overlaps ps = false)
    ∧ (∃ ps, storeChecks word256 atWarp .stnt = .ok ps ∧ ps ≠ [] ∧ atWarp.overlaps ps = false)
    ∧ (∃ ps, storeChecks word32 atWarp .strel = .ok ps ∧ ps ≠ [] ∧ atWarp.overlaps ps = false)
    ∧ storing.releaseWaits (storing.me.scope 4) ≠ [] :=
  ⟨by decide +kernel, by decide +kernel, by decide +kernel, by decide +kernel, by decide +kernel, pieces_of (by decide +kernel),
    pieces_of (by decide +kernel), pieces_of (by decide +kernel), pieces_of (by decide +kernel), by decide +kernel⟩

/-- The placed page without write permission. -/
def readOnly : State := { atWarp with tlb := atWarp.tlb.mapV (fun e => { e with leaf := { e.leaf with wr := false } }) }

/-- StoresEnterFlight, the address of a store: the last word of the scratchpad, a misaligned one, one below and one above;
in space 0 the last word of the page, a misaligned one, and a page that may not be written. -/
theorem witness_StoresEnterFlight_addresses :
    (let pad (n : Word) (off : BitVec 20) : Int := (((fillAll atWarp 5 n).reg 0 5).toNat % 2 ^ 22 : Nat) + off.toInt;
      atWarp.me.isWarp = true ∧ (atWarp.cluster.scratch : Int) = 2 ^ 18
      ∧ pad 0x3FFFC 0 + 4 = 2 ^ 18 ∧ pad 2 0 % 4 = 2 ∧ pad 0 0xFFFFC = -4 ∧ pad 0x40000 0 = 2 ^ 18)
    ∧ atWarp.noGroups atWarp.me.part = false ∧ readOnly.noGroups readOnly.me.part = false
    ∧ (let va := (fillAll atWarp 8 0xFFFC).pair 0 8 + BitVec.ofInt 64 (0 : BitVec 20).toInt;
      va.toNat = 0xFFFC ∧ atWarp.tlbFind (va.toNat / 65536) = some ⟨0, 0, 0, placedLeaf⟩ ∧ placedLeaf.wr = true
      ∧ placedLeaf.wr2 = true ∧ placedLeaf.loc = 0 ∧ placedLeaf.wb = false ∧ placedLeaf.lost = none
      ∧ atWarp.inWindow 0 (placedLeaf.frame + va.toNat % 2 ^ levelShift placedLeaf.span) = true ∧ placedLeaf.frame % 4 = 0)
    ∧ ((fillAll atWarp 8 0xFFFE).pair 0 8).toNat % 4 = 2
    ∧ (readOnly.tlbFind 0).map (fun e => (e.page, e.leaf.wr)) = some (0, false) := by decide +kernel

def atomTable : List Row := [
  (.aadd, 0x1A, 0, f3 10 2 11 0 .i32 3), (.amin, 0x1A, 1, f3 10 2 12 0 .i64 4), (.amax, 0x1A, 2, f3 10 2 11 0 .n32 0),
  (.aand, 0x1A, 3, f3 10 2 11 0 .n32 1), (.aor, 0x1A, 4, f3 10 2 11 0 .n32 2), (.axor, 0x1A, 5, f3 10 2 12 0 .n64 5),
  (.axch, 0x1A, 6, f3 10 2 11 0 .n32 3), (.acas, 0x1A, 7, f3 10 2 12 0 .n32 3), (.ainc, 0x1A, 8, f3 10 2 11 0 .n32 3),
  (.adec, 0x1A, 9, f3 10 2 11 0 .n32 3), (.aaddf, 0x1A, 10, f3 10 2 11 0 .f32 3), (.radd, 0x1A, 11, f3 0 2 11 0 .n32 3),
  (.rmin, 0x1A, 12, f3 0 2 11 0 .n32 3), (.rmax, 0x1A, 13, f3 0 2 11 0 .n32 3), (.rand, 0x1A, 14, f3 0 2 11 0 .n32 3),
  (.ror, 0x1A, 15, f3 0 2 11 0 .n32 3), (.rxor, 0x1A, 16, f3 0 2 11 0 .n32 3), (.raddf, 0x1A, 17, f3 0 2 11 0 .f16x2 3)]

/-- AtomicsEnterFlight: every atomic at the address in v2:3, in a warp. -/
theorem witness_AtomicsEnterFlight :
    (∀ e ∈ atomTable, (e.1 e.2.2.2).wellFormed = true ∧ Clear3 atWarp e.2.1 e.2.2.1 e.2.2.2)
    ∧ ∀ e ∈ atomTable, ∃ ps, atWarp.checkLanes { atWarp.newAccess (.atomic e.2.2.1) e.2.2.2.m.toNat with
          wide := e.2.2.2.ty.isPair, ty := e.2.2.2.ty.code.toNat, width := if e.2.2.2.ty.isPair then 8 else 4 } (decide (e.2.2.1 ≤ 10))
        (fun r => atWarp.checkLane r r.bytes (hostAtomOk e.2.2.1)) ((atWarp.active e.2.2.2.g e.2.2.2.gn).map (atWarp.atomReq e.2.2.1 e.2.2.2))
        [] none = .ok ps ∧ ps ≠ [] ∧ atWarp.overlaps ps = false := by
  refine ⟨runs_of (by decide +kernel), fun e he => pieces_of ?_⟩
  have h : atomTable.all (fun e => match atWarp.checkLanes { atWarp.newAccess (.atomic e.2.2.1) e.2.2.2.m.toNat with
          wide := e.2.2.2.ty.isPair, ty := e.2.2.2.ty.code.toNat, width := if e.2.2.2.ty.isPair then 8 else 4 } (decide (e.2.2.1 ≤ 10))
        (fun r => atWarp.checkLane r r.bytes (hostAtomOk e.2.2.1)) ((atWarp.active e.2.2.2.g e.2.2.2.gn).map (atWarp.atomReq e.2.2.1 e.2.2.2))
        [] none with
      | .ok ps => !ps.isEmpty && !atWarp.overlaps ps
      | _ => false) = true := by decide +kernel
  exact List.all_eq_true.mp h e he

/-- The same: an aaddf under CANON needs no scratchpad entry beyond its core's 256. -/
theorem witness_AtomicsEnterFlight_canon :
    let s : State := { atWarp with me := { atWarp.me with repro := 1 } }
    let w := f3 10 2 11 0 .f32 3
    (match s.checkLanes { s.newAccess (.atomic 10) 3 with wide := false, ty := w.ty.code.toNat, width := 4 } true
        (fun r => s.checkLane r r.bytes (hostAtomOk 10)) ((s.active 0 false).map (s.atomReq 10 w)) [] none with
      | .ok ps => !ps.isEmpty && !s.overlaps ps
      | _ => false) = true ∧ bitN s.me.repro.toNat 0 = true := by decide +kernel

def syncTable : List Row := [
  (.fence, 0x1B, 0, f3 0 0 0 0 .i32 2), (.acq, 0x1B, 1, f3 0 20 0 0 .i32 2), (.rel, 0x1B, 2, f3 0 0 0 0 .i32 4),
  (.regionInvalidate, 0x1B, 3, f3 0 5 0 0 .i32 0), (.regionRewrite, 0x1B, 3, f3 10 5 6 8 .i32 1),
  (.waitm, 0x1B, 4, f3 10 2 11 12 .i32 5)]

/-- SyncWords and RegionWords: the words in a warp with nothing to wait for, a fence whose owner is quiet, a release with a
store to wait for, and the entries and lengths at the limits of region's codes. -/
theorem witness_SyncWords_RegionWords :
    (∀ e ∈ syncTable, (e.1 e.2.2.2).wellFormed = true ∧ Clear3 atWarp e.2.1 e.2.2.1 e.2.2.2)
    ∧ (atWarp.active 0 false = 0 :: (List.range 15).map (· + 1) ∧ atWarp.me.kind = .warp 0 0 ∧ atWarp.readsPending = false
      ∧ atWarp.parked = none ∧ atWarp.releaseWaits (atWarp.me.scope 4) = [] ∧ atWarp.releaseWaits 2 = []
      ∧ atWarp.ownerQuiet atWarp.me.owner = true ∧ (atWarp.parts.find atWarp.me.part).isSome = true)
    ∧ (let s : State := { storing with issuePc := 0x1008 };
      runsB s (.rel, 0x1B, 2, f3 0 0 0 0 .i32 4) = true ∧ s.active 0 false ≠ [] ∧ s.parked = none ∧ s.readsPending = false
      ∧ s.releaseWaits (s.me.scope 4) ≠ [])
    ∧ (runsB atWarp (.rel, 0x1B, 2, f3 0 0 0 0 .i32 5) = true ∧ atWarp.me.scope 5 = 5 ∧ 2 < 4 ∧ atWarp.me.scope 4 = 4)
    ∧ (∀ e ∈ [((.regionInvalidate, 0x1B, 3, { f3 0 5 0 0 .i32 0 with g := 3 }) : Row),
        (.regionRewrite, 0x1B, 3, { f3 10 5 6 8 .i32 1 with g := 3 })], runsB atWarp e = true) ∧ atWarp.active 3 false = []
    ∧ (let code (i base len : Nat) : Nat := if i = 0 then 1 else if base % 65536 ≠ 0 ∨ 2 ^ 56 ≤ base then 2
          else if 2 ^ 56 < base + len then 3 else 0;
      code 0 0 0 = 1 ∧ code 1 1 0 = 2 ∧ code 15 (2 ^ 56) 0 = 2 ∧ code 15 (2 ^ 56 - 65536) 131072 = 3
      ∧ code 15 (2 ^ 56 - 65536) 65536 = 0) :=
  ⟨runs_of (by decide +kernel), by decide +kernel, by decide +kernel, by decide +kernel, by decide +kernel, by decide +kernel,
    by decide +kernel⟩

/-- A word that reads one word of memory finds it readable with a value, decided. -/
theorem one_of {s : State} {a : Access} {c : WordCheck} {v : Word} (h : (match c with
      | .ok [p] => !s.overlaps [p] && !(s.touchPieces [p]).obtainWaits a p && decide (((s.touchPieces [p]).obtain a p).2 = v)
      | _ => false) = true) :
    ∃ p, c = .ok [p] ∧ s.overlaps [p] = false ∧ (s.touchPieces [p]).obtainWaits a p = false
      ∧ ((s.touchPieces [p]).obtain a p).2 = v := by
  split at h
  · rename_i p
    simp only [Bool.and_eq_true, Bool.not_eq_true', decide_eq_true_eq] at h
    exact ⟨p, rfl, h.1.1, h.1.2, h.2⟩
  · simp at h

/-- The checks of waitm and chwait on the word at an address, at a scope. -/
def readsAt (s : State) (scope : Nat) (a : DWord) : WordCheck :=
  s.checkLanes (s.newAccess .load scope) true (fun q => s.checkLane q 4)
    [{ lane := 0, ea := { space := .g, addr := a }, bytes := 4, need := { rd := true }, words := [{}] }] [] none

/-- WaitmReadsOrWaits and ChimeWords, chwait: the words in a warp and in a thread, their address and operands 0. -/
theorem witness_WaitmReadsOrWaits_chwait :
    (Instr.waitm (f3 10 2 11 12 .i32 5)).wellFormed = true ∧ (Instr.chwait (f3 0 2 1 20 .i32 4)).wellFormed = true
    ∧ (∀ s ∈ [atWarp, atThread], clear3B s 0x1B 4 (f3 10 2 11 12 .i32 5) = true ∧ clear3B s 0x23 1 (f3 0 2 1 20 .i32 4) = true
      ∧ (s.active 0 false).head? = some 0 ∧ s.pair 0 2 = 0 ∧ s.reg 0 11 = 0
      ∧ s.reg 0 12 = 0 ∧ s.readsPending = false) := by decide +kernel

/-- The same: the word at address 0 is readable and holds 0, which equals an operand of 0 (and no limit), and differs from an
operand of 1 and is below it. -/
theorem witness_waitm_chwait_warp : ∃ p, readsAt atWarp 5 0 = .ok [p] ∧ atWarp.overlaps [p] = false
    ∧ (atWarp.touchPieces [p]).obtainWaits (atWarp.newAccess .load 5) p = false
    ∧ ((atWarp.touchPieces [p]).obtain (atWarp.newAccess .load 5) p).2 = 0 := one_of (by decide +kernel)

theorem witness_waitm_chwait_thread : ∃ p, readsAt atThread 4 0 = .ok [p] ∧ atThread.overlaps [p] = false
    ∧ (atThread.touchPieces [p]).obtainWaits (atThread.newAccess .load 4) p = false
    ∧ ((atThread.touchPieces [p]).obtain (atThread.newAccess .load 4) p).2 = 0 := one_of (by decide +kernel)

/-- The same: a waitm whose limit of 5 ticks has passed since it began. -/
def expired : State := { (fillAll atWarp 12 5) with
  tick := 10, me := { atWarp.me with parks := [{ pc := 0x1000, wait := .word 0 true, t0 := 4, limit := 5, done := true }] } }

theorem witness_WaitmReadsOrWaits_expired :
    clear3B expired 0x1B 4 (f3 10 2 11 12 .i32 5) = true ∧ expired.reg 0 12 = 5 ∧ 5 ≤ expired.tick - expired.began
    ∧ expired.reg 0 11 = 0 ∧ ∃ p, readsAt expired 5 0 = .ok [p] ∧ expired.overlaps [p] = false
      ∧ (expired.touchPieces [p]).obtainWaits (expired.newAccess .load 5) p = false
      ∧ ((expired.touchPieces [p]).obtain (expired.newAccess .load 5) p).2 = 0 :=
  ⟨by decide +kernel, by decide +kernel, by decide +kernel, by decide +kernel, one_of (by decide +kernel)⟩

theorem witness_waitm_chwait_operand :
    (fillAll atWarp 11 1).reg 0 11 ≠ 0 ∧ (0 : Word) < (fillAll atWarp 1 1).reg 0 1 := by decide +kernel

/-- A warp whose status queues hold what is given. -/
def queued (es : List QueueEntry) : State :=
  { atWarp with me := { atWarp.me with queues := [{}, {}, {}, { entries := es }] } }

/-- A warp with the call queue enabled, its calls as given. -/
def calling (cs : List Call) : State := { atWarp with me := { atWarp.me with calls := cs } } |>.setPreg 0 0x11 1

def queueTable (q : Fin 8) : List Row := let q := BitVec.ofNat 8 q; [
  (.push, 11, 0, f3 0 10 q 0 .i32), (.pop, 11, 1, f3 11 0 q 0 .i32), (.qpoll, 11, 2, f3 11 0 q 0 .i32), (.qlen, 11, 3, f3 11 0 q 0 .i32)]

/-- QueueWords: q3 with a completed command, with one in progress, and empty; q4 enabled with no call, with an answered call
and with a free ring; and q5 and q7. -/
theorem witness_QueueWords :
    (∀ q ∈ ([0, 3, 4] : List (Fin 8)), ∀ e ∈ (queueTable q).drop 1, runsB atWarp e = true)
    ∧ (∀ q ∈ ([4, 5, 7] : List (Fin 8)), ∀ e ∈ queueTable q, runsB atWarp e = true)
    ∧ (∀ e ∈ queueTable 5, runsB atThread e = true) ∧ atThread.me.isWarp = false
    ∧ atWarp.active 0 false = 0 :: (List.range 15).map (· + 1) ∧ atWarp.me.isWarp = true
    ∧ ((queued [⟨1, some 0x10000, ⟨0, 0, 0⟩⟩]).me.queues.getD 3 {}).first = some ⟨1, some 0x10000, ⟨0, 0, 0⟩⟩
    ∧ runsB (queued [⟨1, some 0x10000, ⟨0, 0, 0⟩⟩]) (.pop, 11, 1, f3 11 0 3 0 .i32) = true
    ∧ ((queued [⟨1, none, ⟨0, 0, 0⟩⟩]).me.queues.getD 3 {}).first = none
    ∧ ((queued [⟨1, none, ⟨0, 0, 0⟩⟩]).me.queues.getD 3 {}).entries ≠ [] ∧ (atWarp.me.queues.getD 3 {}).entries = []
    ∧ runsB (queued [⟨1, none, ⟨0, 0, 0⟩⟩]) (.pop, 11, 1, f3 11 0 3 0 .i32) = true
    ∧ bitN ((calling []).preg 0 0x11) 0 = true ∧ (∀ l ∈ (calling []).active 0 false, (calling []).callOf l = none)
    ∧ ((calling []).parts.find 0).isSome = true ∧ ((calling []).gpa 0 0).toOption.map (·.1) = some 0
    ∧ bitsN ((calling []).preg 0 0x0E) 51 12 * 4096 + 1024 * ((calling []).preg 0 0x0F % 2 ^ bitsN ((calling []).preg 0 0x0E) 3 0) = 0
    ∧ (calling []).forwards = []
    ∧ ((calling []).preg 0 0x0F + 2 ^ 32 - (calling []).preg 0 0x10) % 2 ^ 32 ≠ 2 ^ bitsN ((calling []).preg 0 0x0E) 3 0
    ∧ (let s := calling [{ pos := 3, record := 0, seq := 0, reply := some 9 }];
      runsB s (.pop, 11, 1, f3 11 0 4 0 .i32) = true ∧ ∀ l ∈ s.active 0 false, (s.callOf l).all (·.reply != none) = true) := by
  decide +kernel

def copyTable (q : Fin 8) : List Row := let q := BitVec.ofNat 8 q; [
  (.cpy, 0x20, 0, f3 q 2 6 8 .i32 4), (.gath, 0x20, 1, f3 q 2 6 8 .i32 5), (.scat, 0x20, 2, f3 q 2 6 8 .i32 3), (.coll, 0x20, 3, f3 q 2 6 8 .i32 0)]

/-- A warp about to copy `n` bytes from 0x2000 to 0x3000 with a control word. -/
def copying (n ctl : Word) : State := fillAll (fillAll (fillAll (fillAll atWarp 2 0x2000) 6 0x3000) 8 n) 9 ctl

/-- CopyWordsQueueACommand: each form with a length that it takes, with a tag and without, cpy of 0 and of 2^26 bytes;
queues above 3; and a length that no form takes. -/
theorem witness_CopyWordsQueueACommand :
    (∀ e ∈ copyTable 3, ∀ s ∈ [copying 16 0, copying 16 0x7F], runsB s e = true
      ∧ s.active 0 false = 0 :: (List.range 15).map (· + 1))
    ∧ (∀ k ∈ [(CmdKind.cpy, 0), (.gath, 1), (.scat, 2), (.coll, 3)], ∀ s ∈ [copying 16 0, copying 16 0x7F],
      (let w := f3 3 2 6 8 .i32 4;
       cmdSizeOk k.1 16 = true ∧ s.cmdFault k.1 w (s.active 0 false) 0 16 (s.reg 0 9) = none ∧ s.slotsUsed s.me.core 3 < 128
       ∧ s.readsPending = false ∧ s.tagSet.counts.get 0 ((s.reg 0 9).extractLsb' 0 6).toNat < 255
       ∧ (s.clusters.find s.me.cluster).isSome = true))
    ∧ cmdSizeOk .cpy 0 = true ∧ cmdSizeOk .cpy (2 ^ 26) = true ∧ (copying 16 0x7F).reg 0 9 = 0x7F
    ∧ (∀ q ∈ ([4, 7] : List (Fin 8)), ∀ e ∈ copyTable q, runsB (copying 16 0) e = true)
    ∧ (∀ k ∈ [CmdKind.cpy, .gath, .scat, .coll], cmdSizeOk k ((copying 2 0).reg 0 8).toNat = false)
    ∧ ∀ e ∈ copyTable 0, runsB (copying 2 0) e = true := by decide +kernel

def tagTable : List Row := [
  (.tagwa, 0x21, 0, f3 0 12 0 0 .i32), (.tagwy, 0x21, 1, f3 0 12 0 0 .i32), (.tagff, 0x21, 2, f3 14 12 0 0 .i32), (.tagclr, 0x21, 3, f3 0 12 0 0 .i32)]

/-- A warp with a mask of tags 0 and 63, its cluster's tags as given. -/
def tagged (t : TagSet) : State :=
  { (fillAll (fillAll atWarp 12 1) 13 0x80000000) with clusters := [(1, { placedCluster with tags := t })] }

/-- TagWords: tags idle, one set with the other outstanding, and both outstanding. -/
theorem witness_TagWords :
    (∀ t ∈ [({} : TagSet), { bits := 1, counts := [(63, 2)] }, { counts := [(0, 1), (63, 255)] }],
      (∀ e ∈ tagTable, runsB (tagged t) e = true) ∧ (tagged t).active 0 false = 0 :: (List.range 15).map (· + 1)
      ∧ (tagged t).pair 0 12 = 0x8000000000000001 ∧ ((tagged t).clusters.find (tagged t).me.cluster).isSome = true
      ∧ (tagged t).me.isWarp = true ∧ (tagged t).tagSet = t)
    ∧ (∀ i < 64, (0x8000000000000001 : DWord).getLsbD i = true → (({} : TagSet)).counts.get 0 i = 0)
    ∧ (∃ i < 64, (0x8000000000000001 : DWord).getLsbD i = true ∧ ({ bits := 1, counts := [(63, 2)] } : TagSet).bits.getLsbD i = true)
    ∧ (∃ i < 64, (0x8000000000000001 : DWord).getLsbD i = true ∧ ({ bits := 1, counts := [(63, 2)] } : TagSet).bits.getLsbD i = false
      ∧ ¬ ({ bits := 1, counts := [(63, 2)] } : TagSet).counts.get 0 i = 0)
    ∧ ∀ i < 64, (0x8000000000000001 : DWord).getLsbD i = true → ({ counts := [(0, 1), (63, 255)] } : TagSet).bits.getLsbD i = false := by
  decide +kernel

def gongTable : List Row := [
  (.gongi, 0x22, 0, f3 0 12 10 11 .i32), (.gonga, 0x22, 1, f3 14 12 10 0 .i32), (.gongw, 0x22, 2, f3 0 12 10 0 .i32),
  (.gongt, 0x22, 3, f3 14 12 0 0 .i32)]

/-- A warp with a gong of one arrival in the last 16 bytes of its scratchpad, and an operand. -/
def gonging (b : Word) : State :=
  (fillAll (fillAll atWarp 12 0x3FFF0) 10 b).setGong (scratchKey 1 0x3FFF0 / 4) ⟨0, 1, 0, 1⟩

/-- GongWords: a gong at the end of the scratchpad with an arrival to come, and one with none; both sides of gongw. -/
theorem witness_GongWords :
    (∀ s ∈ [gonging 0, gonging 1], (∀ e ∈ gongTable, runsB s e = true)
      ∧ s.active 0 false = 0 :: (List.range 15).map (· + 1) ∧ s.me.isWarp = true
      ∧ (s.reg 0 12).toNat % 2 ^ 22 = 0x3FFF0 ∧ 0x3FFF0 + 16 ≤ s.cluster.scratch
      ∧ s.overlaps ((List.range 4).map (fun i =>
          { lane := 0, tid := s.me.tid 0, key := (s.me.cluster * 2 ^ 22 + 0x3FFF0) / 4 + i, scr := true })) = false
      ∧ (∀ i < 4, s.scratchBad ((s.me.cluster * 2 ^ 22 + 0x3FFF0) / 4 + i) 15 = false) ∧ s.readsPending = false
      ∧ (s.gong ((s.me.cluster * 2 ^ 22 + 0x3FFF0) / 4)).word1 = 1 )
    ∧ (gonging 0).reg 0 10 = 0 ∧ (gonging 1).reg 0 10 = 1
    ∧ ((fillAll atWarp 12 0x3FFF0).gong ((2 ^ 22 + 0x3FFF0) / 4)).word1 &&& 0xFFFF = 0 := by decide +kernel

/-- ChimeWords: chset and chclr of the word at 0x2000. -/
theorem witness_ChimeWords :
    (∀ e ∈ [((.chset, 0x23, 0, f3 0 2 1 20 .i32 4) : Row), (.chclr, 0x23, 2, f3 0 2 0 0 .i32 5)], runsB (copying 0 0) e = true)
    ∧ (copying 0 0).active 0 false = 0 :: (List.range 15).map (· + 1)
    ∧ ∃ ps, (copying 0 0).checkLanes ((copying 0 0).newAccess .chime 4) false (fun q => (copying 0 0).checkLane q 4)
        [{ lane := 0, ea := { space := .g, addr := (copying 0 0).pair 0 2 }, bytes := 4, need := { wr := true }, words := [{ val := 0 }] }]
        [] none = .ok ps ∧ ps ≠ [] ∧ (copying 0 0).overlaps ps = false :=
  ⟨by decide +kernel, by decide +kernel, pieces_of (by decide +kernel)⟩

/-- A word that takes a step of its own: DecodingReadsEveryField. -/
theorem witness_DecodingReadsEveryField :
    (Instr.iadd (f3 127 126 125 0 .i32)).wellFormed = true ∧ (encode (.iadd (f3 127 126 125 0 .i32))).isSome = true
    ∧ (decode 0x4002040C10000004).toOption = some (.cpy (f3 1 2 6 8 .i32 4))
    ∧ Instr.cpy (f3 1 2 6 8 .i32 4) ≠ .illegalInstruction := by decide +kernel

/-- A step that issues, decided: the plan's move, the agent, and the word fetched. -/
def issuesB (s : State) (w : DWord) : Bool :=
  let id := s.me.id
  let r : State := { s with plan := [] }
  s.plan == [.issue id placedPc] && s.platform.running && decide (s.agent id = some s.me) && r.mayIssue s.me placedPc
    && r.inTurn s.me
    && decide ((r.focus id placedPc).fetch.2 = .word w)

/-- The same state about to issue another word. -/
def about (w : DWord) : State := State.reset.placeWord w

/-- The agent's place in a fetch of its next word. -/
def awaiting : State :=
  let s := about 0x0206080A00000000
  { s with me := { s.me with pend := [⟨rowKey s.me 0 4, 0x800, 7⟩] } }

/-- StepRunsTheDecodedWord: a word that decodes and awaits nothing, one whose source has a write pending, and one that
does not decode. -/
theorem witness_StepRunsTheDecodedWord :
    issuesB atWarp 0x2200000000000000 = true ∧ (decode 0x2200000000000000).toOption = some (.nop (f3 0 0 0 0 .i32))
    ∧ atWarp.me.awaits (.nop (f3 0 0 0 0 .i32)) = none
    ∧ issuesB awaiting 0x0206080A00000000 = true ∧ (decode 0x0206080A00000000).toOption = some (.iadd (f3 3 4 5 0 .i32))
    ∧ awaiting.me.awaits (.iadd (f3 3 4 5 0 .i32)) = some ⟨rowKey awaiting.me 0 4, 0x800, 7⟩
    ∧ issuesB atThread 0x6014040800000000 = true
    ∧ issuesB (about 0xFFFFFFFFFFFFFFFF) 0xFFFFFFFFFFFFFFFF = true ∧ (decode 0xFFFFFFFFFFFFFFFF).toOption = none := by
  decide +kernel

theorem witness_StepRunsTheDecodedWord_next : ∃ t, exec (.nop (f3 0 0 0 0 .i32)) atWarp = .next t := ⟨_, rfl⟩

/-- The same: the word lies in memory, both halves in U; no word of before stands beside it, or one does. -/
theorem witness_StepRunsTheDecodedWord_memory :
    ∃ q, atWarp.me.isWarp = true ∧ atWarp.locate .g atWarp.issuePc { ex := true } = .place q ∧ q.pol ≠ 2
      ∧ 4 * (q.key / 4) < hostCopyBase ∧ atWarp.regOf (q.key / 4) = .u ∧ atWarp.regOf (q.key / 4 + 1) = .u :=
  ⟨{ key := 0x1000, pol := 0, wb := false, region := 0, leaf := placedLeaf }, by decide +kernel⟩

theorem witness_StepRunsTheDecodedWord_old :
    atWarp.oldWord { key := 0x1000 } = none
    ∧ (atWarp.updPart 0 (fun q => { q with grids := [(1, { placedGrid with code := some [] })] })).oldWord { key := 0x1000 } = some 0 := by
  decide +kernel

/-- An outcome is a next state, decided. -/
theorem next_of {o : Out} (h : (match o with
      | .next _ => true
      | _ => false) = true) : ∃ t, o = .next t := by
  cases o <;> simp_all

/-- MemoryStaysCanonical: a step from memory in its canonical form. -/
theorem witness_MemoryStaysCanonical : (∃ t, step State.reset = .next t) ∧ State.reset.mem.wf = true
    ∧ (∃ t, step atWarp = .next t) ∧ atWarp.mem.wf = true :=
  ⟨next_of (by decide +kernel), by decide +kernel, next_of (by decide +kernel), by decide +kernel⟩

/-- TakingAWarpFault: with no stop in progress, and with one; the grid is in its table. -/
theorem witness_TakingAWarpFault :
    (∀ s ∈ [atWarp, atWarp.takeFault 0x12 0 0 8], s.me.kind = .warp 0 0 ∧ (s.parts.find s.me.part).isSome = true
      ∧ ((s.parts.find s.me.part).bind (fun q => q.grids.find s.me.grid)).isSome = true)
    ∧ (atWarp.part 0).stop = none ∧ ((atWarp.takeFault 0x12 0 0 8).part 0).stop ≠ none := by decide +kernel

/-! #### The matrix unit -/

/-- A word of one lane: guarded by v3, which lane 0 alone has set. -/
def one (w : W3) : W3 := { w with g := 3 }
def oneLane : State := fill atWarp 3 [1]

/-- The same with elements that are not zero in a row. -/
def withRow : State := oneLane.mapRows 1 [0] [0, 127] (fun _ _ e => { e with anchor := -20, v := 3 })

def matrixTable : List Row := [
  (.mzero, 0x28, 1, one (f3 3 0 0 0 .i32)), (.manch, 0x28, 8, one (f3 0 0 5 0 .i32)), (.mres, 0x28, 2, one (f3 96 1 0 7 .f32 2)),
  (.mres, 0x28, 2, one (f3 120 1 0 0 .bf16x2)), (.mcmp, 0x28, 3, one (f3 20 1 21 3 .f32 4)), (.msta, 0x28, 4, one (f3 1 4 0 1 .f32)),
  (.msave, 0x28, 5, one (f3 1 4 0 0 .i32)), (.mrest, 0x28, 6, one (f3 1 4 0 0 .i32))]

/-- AccumulatorWords: the words of one lane, their tiles held with no mma's rows in the way and no element poisoned. -/
theorem witness_AccumulatorWords :
    (∀ e ∈ matrixTable, ∀ s ∈ [oneLane, withRow], runsB s e = true ∧ s.active 3 false = [0])
    ∧ (∀ s ∈ [oneLane, withRow], ∀ t ∈ [0, 1, 3], s.me.isWarp = true ∧ s.ownsTile t = true ∧ s.rowsBusy t [0] = false)
    ∧ (∀ s ∈ [oneLane, withRow], ∀ j < 128, (s.acc 1 0 j).poison = false) := by decide +kernel

/-- The same: msta and msave put the words of a row in flight, mrest finds its row's words readable. -/
theorem witness_AccumulatorWords_msta : ∃ ps, withRow.checkLanes (withRow.newAccess .matrix 0) false withRow.checkRow
    ((withRow.active 3 false).map (fun l => rowReq withRow (one (f3 1 4 0 1 .f32)) l { wr := true }
      ((withRow.staRow (one (f3 1 4 0 1 .f32)) l).1.map (fun v => { val := v })))) [] none = .ok ps
    ∧ ps ≠ [] ∧ withRow.overlaps ps = false := pieces_of (by decide +kernel)

theorem witness_AccumulatorWords_msave : ∃ ps, oneLane.checkLanes (oneLane.newAccess .matrix 0) false oneLane.checkRow
    ((oneLane.active 3 false).map (fun l => rowReq oneLane (one (f3 1 4 0 0 .i32)) l { wr := true }
      ((oneLane.saveRow (one (f3 1 4 0 0 .i32)) l).map (fun v => { val := v.1, val2 := if v.2 then 1 else 0 })))) [] none
      = .ok ps ∧ ps ≠ [] ∧ oneLane.overlaps ps = false := pieces_of (by decide +kernel)

/-- A word that reads words of memory finds them readable, decided. -/
theorem reads_of {s : State} {a : Access} {c : WordCheck} (h : (match c with
      | .ok ps => !s.overlaps ps && !ps.any ((s.touchPieces ps).obtainWaits a)
      | _ => false) = true) :
    ∃ ps, c = .ok ps ∧ s.overlaps ps = false ∧ ps.any ((s.touchPieces ps).obtainWaits a) = false := by
  cases c <;> simp_all

theorem witness_AccumulatorWords_mrest : ∃ ps, oneLane.checkLanes (oneLane.newAccess .load 0) true oneLane.checkRow
    ((oneLane.active 3 false).map (fun l => rowReq oneLane (one (f3 1 4 0 0 .i32)) l { rd := true } (List.replicate 512 {})))
      [] none = .ok ps ∧ oneLane.overlaps ps = false
    ∧ ps.any ((oneLane.touchPieces ps).obtainWaits (oneLane.newAccess .load 0)) = false := reads_of (by decide +kernel)

/-- The same: elements at the ends of the image's ranges. -/
theorem witness_AccumulatorWords_image :
    ∀ e ∈ [({ anchor := -128, v := -(2 ^ 42) } : Acc), { anchor := 127, v := 2 ^ 42 - 2 }, { nan := true, x := true }],
      -128 ≤ e.anchor ∧ e.anchor ≤ 127 ∧ -(2 ^ 42) ≤ e.v ∧ e.v ≤ 2 ^ 42 - 2 ∧ e.poison = false := by decide +kernel

/-- A core whose panels at the ends of the buffer hold a format of 8-bit elements and bf16. -/
def loaded : State := (fill oneLane 33 [991]).updCore 0 (fun c => { c with panels := [(0, 66), (991, 5)] })

/-- MatrixWords: mma of both panels, mldb of 31 panels with a tag and of one without. -/
theorem witness_MatrixWords :
    (∀ s ∈ [loaded, fill loaded 33 [0]], ∀ e ∈ [((.mma, 0x28, 0, one (f3 1 16 32 4 .i32)) : Row), (.mma, 0x28, 0, one (f3 1 16 32 0 .bf16))],
      runsB s e = true ∧ s.active 3 false = [0] ∧ s.me.isWarp = true ∧ s.ownsTile 1 = true
      ∧ ∀ j < 128, (s.acc 1 0 j).poison = false)
    ∧ (loaded.reg 0 33).toNat = 991 ∧ loaded.loadingAt loaded.cluster.ctxPos 991 = none
    ∧ loaded.tagSuits .i32 loaded.cluster.ctxPos 991 ((loaded.mixed loaded.cluster.ctxPos 991 256 32).panelTag loaded.cluster.ctxPos 991) = true
    ∧ loaded.tagSuits .bf16 loaded.cluster.ctxPos 0 ((loaded.mixed loaded.cluster.ctxPos 0 128 64).panelTag loaded.cluster.ctxPos
        ((fill loaded 33 [0]).reg 0 33).toNat) = true
    ∧ (let s := fill oneLane 33 [992]; runsB s (.mma, 0x28, 0, one (f3 1 16 32 4 .i32)) = true ∧ 991 < (s.reg 0 33).toNat)
    ∧ oneLane.tagSuits .i32 oneLane.cluster.ctxPos 0 ((oneLane.mixed oneLane.cluster.ctxPos 0 256 32).panelTag oneLane.cluster.ctxPos 0) = false
    ∧ (∀ u ∈ [((fill oneLane 6 [0]) |> (fill · 8 [31]) |> (fill · 9 [0x7F])), ((fill oneLane 6 [991]) |> (fill · 8 [1]))],
      runsB u (.mldb, 0x28, 7, one (f3 0 4 6 8 .f16)) = true ∧ u.active 3 false = [0] ∧ u.me.isWarp = true
      ∧ u.mldbFault (u.pair 0 4) (u.reg 0 6).toNat (u.reg 0 8).toNat (u.reg 0 9) = none ∧ (u.loads u.me.core).length < 8
      ∧ u.readsPending = false ∧ u.tagSet.counts.get 0 63 < 255 ∧ (u.clusters.find u.me.cluster).isSome = true) := by
  decide +kernel

/-! #### Launches and the supervisor -/

/-- Words of device memory from a byte address. -/
def words (s : State) (a : Nat) (ws : List Word) : State :=
  { s with mem := ws.zipIdx.foldl (fun m e => m.setWord (a / 4 + e.2) e.1) s.mem }

/-- Page tables for context 0 of partition 0: a block of 64 GiB of the window at address 0, open to everything. -/
def mapped (s : State) : State :=
  ((words (words (words s 0x4000 [0x8001, 0, 0, 0]) 0x8000 [0xC001, 0, 0, 0]) 0xC000 [0x40F, 0, 0, 0])).setPreg 0 0 0x4000

/-- The walks of a range can all run, decided. -/
def walksB (s : State) (p ctx : Nat) (addrs : List Nat) : Bool :=
  addrs.all (fun a => decide (a < 2 ^ 56) && s.walkGoes p ctx (a / 65536))

theorem walks_run {s : State} {p ctx : Nat} {addrs : List Nat} (h : walksB s p ctx addrs = true) : WalksRun s p ctx addrs := by
  intro a ha _
  have := List.all_eq_true.mp h a ha
  simp only [Bool.and_eq_true] at this
  exact this.2

/-- The same state with all eight walkers of the partition busy with other pages. -/
def busyWalkers (s : State) : State := { s with walks := (List.range 8).map (fun i => (i, ⟨0, 0, 1000 + i, 0, [], none⟩)) }

theorem walks_wait {s : State} {p ctx : Nat} {addrs : List Nat} (a : Nat) (ha : a ∈ addrs) (h : a < 2 ^ 56)
    (hw : s.walkGoes p ctx (a / 65536) = false) : ¬ WalksRun s p ctx addrs := fun hr => by
  rw [hr a ha h] at hw; exact Bool.noConfusion hw

/-- A read of a conductor thread, run. -/
def readOf (s : State) (x : Nat) (addr : DWord) (n align : Nat) : Option (State × List Word) :=
  match s.checkLanes (s.newAccess .load 0) true (fun q => s.checkSpan q align)
      [{ lane := x, ea := { space := .g, addr := addr }, bytes := 4 * n, need := { rd := true },
         words := List.replicate n {} }] [] none with
  | .ok ps =>
    if s.overlaps ps || ps.any ((s.touchPieces ps).obtainWaits (s.newAccess .load 0)) then none
    else
      let r := (s.touchPieces ps).obtainAll (s.newAccess .load 0) ps
      some (r.1, r.2.map (·.2))
  | _ => none

theorem reads_run {s t : State} {x n align : Nat} {addr : DWord} {ws : List Word}
    (h : readOf s x addr n align = some (t, ws)) : Reads s x addr n align t ws := by
  unfold readOf at h
  split at h
  · rename_i ps hc
    split at h
    · simp at h
    · rename_i hn
      simp only [Bool.or_eq_true, not_or, Bool.not_eq_true] at hn
      simp only [Option.some.injEq, Prod.mk.injEq] at h
      exact ⟨ps, hc, hn.1, hn.2, _, by rw [← h.1], h.2.symm⟩
  · simp at h

/-- What a read leaves, where it runs. -/
def after_ (r : Option (State × List Word)) : State := (r.map (·.1)).getD State.reset

/-- A descriptor at 0x2000, its record's address given, and the operands of launch in a conductor thread. -/
def desc (done : Word) (regtab : Word) : List Word :=
  [0x1000, 0, done, 0, regtab, 0, 0, 0, 0, 0, 1, 0x00100001, 0x00000401, 0, 0, 0]
def descs : Fin 3 → List Word := fun i => [desc 0x30000 0, desc 0 0, desc 0x30000 0x3000].getD i []
def launching (d : List Word) : State := fill (words (mapped atThread) 0x2000 d) 4 [0x2000]

/-- LaunchWords, launch: a descriptor that is accepted, one that is refused, and one with a region table. -/
theorem witness_LaunchWords_launch :
    (∀ e ∈ [0, 1, 2].map (fun (i : Fin 3) => (launching (descs i), descs i)), let s := e.1; let d := e.2;
      runsB s (.launch, 0x30, 0, f3 10 4 6 0 .i32) = true ∧ s.active 0 false = [0] ∧ s.me.isWarp = false
      ∧ (s.pair 0 4).toNat % 64 = 0 ∧ (readOf s 0 (s.pair 0 4) 16 64).map (·.2) = some d
      ∧ ((after_ (readOf s 0 (s.pair 0 4) 16 64)).parts.find s.me.part).isSome = true)
    ∧ Desc.regtab (desc 0x30000 0) = 0 ∧ Desc.regtab (desc 0x30000 0x3000) ≠ 0 ∧ Desc.regtabOk (desc 0x30000 0x3000) = true
    ∧ (let s := after_ (readOf (launching (desc 0x30000 0)) 0 0x2000 16 64)
      let pages := pageStarts (Desc.done (desc 0x30000 0)) (Desc.doneBytes (desc 0x30000 0))
      Desc.ok (desc 0x30000 0) = true ∧ walksB s 0 0 pages = true ∧ s.me = (launching (desc 0x30000 0)).me
      ∧ (s.walked 0 0 pages id).refusal 0 0 (desc 0x30000 0) [] = 0 ∧ ((s.walked 0 0 pages id).parts.find 0).isSome = true)
    ∧ Desc.ok (desc 0 0) = false
    ∧ (after_ (readOf (launching (desc 0 0)) 0 0x2000 16 64)).refusal 0 0 (desc 0 0) [] = 1
    ∧ (readOf (after_ (readOf (launching (desc 0x30000 0x3000)) 0 0x2000 16 64)) 0 0x3000 60 16).map (·.2)
      = some (List.replicate 60 0) := by decide +kernel

/-- The same: a launch whose completion word's page waits for a walker. -/
theorem witness_LaunchWords_waits :
    let s := busyWalkers (launching (desc 0x30000 0))
    runsB s (.launch, 0x30, 0, f3 10 4 6 0 .i32) = true ∧ (readOf s 0 (s.pair 0 4) 16 64).map (·.2) = some (desc 0x30000 0)
    ∧ (after_ (readOf s 0 (s.pair 0 4) 16 64)).me = s.me
    ∧ (pageStarts (Desc.done (desc 0x30000 0)) (Desc.doneBytes (desc 0x30000 0))).any (fun a =>
      decide (a < 2 ^ 56) && !(after_ (readOf s 0 (s.pair 0 4) 16 64)).walkGoes 0 0 (a / 65536)) = true := by decide +kernel

/-- A table at 0x2000 of a row that does not fit the shape and one that does. -/
def disp (n : Nat) : State :=
  fill (fill (words atThread 0x2000 [1, 1, 0, 0, 0, 0, 0, 0, 0, 0, 0, 0, 0, 5, 0, 0, 0, 0, 7, 8]) 4 [0x2000]) 6 [BitVec.ofNat 32 n]

/-- The rows of `disp` passed: none, and the first one. -/
theorem witness_LaunchWords_rows : ∀ n < 3, RowsPassed (disp n) 0 0x2000 0 (disp n)
    ∧ ∃ t, RowsPassed (disp n) 0 0x2000 1 t
      ∧ ∃ v r, Reads t 0 (0x2000 + BitVec.ofNat 64 (40 * 1)) 10 8 v r ∧ rowFits (disp n).me r := by
  have h : ∀ n < 3, (readOf (disp n) 0 0x2000 10 8).map (·.2) = some [1, 1, 0, 0, 0, 0, 0, 0, 0, 0] ∧ (readOf
      (after_ (readOf (disp n) 0 0x2000 10 8)) 0 0x2028 10 8).map (·.2) = some [0, 0, 0, 5, 0, 0, 0, 0, 7, 8] := by decide +kernel
  have g : ∀ n < 3, ¬ rowFits (disp n).me [1, 1, 0, 0, 0, 0, 0, 0, 0, 0] ∧ rowFits (disp n).me [0, 0, 0, 5, 0, 0, 0, 0, 7, 8] := by
    unfold rowFits; decide +kernel
  intro n hn
  obtain ⟨h1, h2⟩ := h n hn
  obtain ⟨⟨t, ws⟩, e1, rfl⟩ := Option.map_eq_some_iff.mp h1
  rw [e1] at h2
  obtain ⟨⟨v, r⟩, e2, rfl⟩ := Option.map_eq_some_iff.mp h2
  exact ⟨rfl, t, ⟨disp n, _, rfl, reads_run e1, (g n hn).1⟩, v, _, reads_run e2, (g n hn).2⟩

/-- LaunchWords, ldisp: no row fits in tables of no row and of one, and the second row fits; lstat of a grid of the
context, of none; launch, ldisp and lstat in a warp. -/
theorem witness_LaunchWords_ldisp_lstat :
    (∀ n < 3, let s := disp n; runsB s (.ldisp, 0x30, 1, f3 10 4 6 0 .i32) = true ∧ s.active 0 false = [0]
      ∧ s.me.isWarp = false ∧ (s.pair 0 4).toNat % 8 = 0 ∧ min (s.reg 0 6).toNat 256 = n)
    ∧ (∀ s ∈ [fill atThread 4 [1], atThread], runsB s (.lstat, 0x30, 2, f3 10 4 0 0 .i32) = true ∧ s.active 0 false = [0]
      ∧ s.me.isWarp = false)
    ∧ ((fill atThread 4 [1]).part 0).grids.find ((fill atThread 4 [1]).pair 0 4).toNat = some placedGrid
    ∧ (atThread.part 0).grids.find (atThread.pair 0 4).toNat = none ∧ atWarp.me.isWarp = true := by
  decide +kernel

/-- Context 1 of the same partition, halted, with a grid, and an image area of 64 GiB of host memory mapped for context 0. -/
def imaging : State :=
  let s := (words (words (words atThread 0x4000 [0x8001, 0, 0, 0]) 0x8000 [0xC001, 0, 0, 0]) 0xC000 [0x44F, 0, 0, 0]).setPreg 0 0 0x4000
  s.updPart 0 (fun q => { q with grids := [(2 ^ 32 + 1, { placedGrid with ctx := 1 })], contexts := [(0, {}), (1, { halted := true })] })

/-- A thread that saves context 1 at address 0 into an area of a number of KiB. -/
def saving (n : Word) : State := fill (fill imaging 4 [1]) 5 [n]

/-- ImageAndKnellWords, ctxsv of the thread's own context, of one with no work, and of a halted context whose area is too
small. -/
theorem witness_ImageAndKnellWords_ctxsv :
    (∀ s ∈ [imaging, fill imaging 4 [5], saving 0, saving 0xFFFFFFFF], runsB s (.ctxsv, 0x38, 6, f3 10 2 4 5 .i32) = true
      ∧ (s.me.isWarp = false ∧ s.me.level ≠ .user ∧ s.unsettled = false) ∧ s.active 0 false = [0])
    ∧ (imaging.reg 0 4).toNat % 64 = imaging.me.ctx
    ∧ (imaging.contextLive 0 5 = false ∧ 5 ≠ imaging.me.ctx)
    ∧ (∀ s ∈ [saving 0, saving 0xFFFFFFFF], 1 ≠ s.me.ctx ∧ s.contextLive 0 1 = true ∧ (s.context 0 1).halted = true
      ∧ s.quiet 0 1 = true ∧ (s.reg 0 4).toNat % 64 = 1 ∧ (s.pair 0 2).toNat % 65536 = 0) := by decide +kernel

/-- The same, in a carve-out grant of 64 units. -/
def carving (n : Word) : State := (fill (saving n) 3 [0x40000000]).setPreg 0 0x08 (2 ^ 64 - 1)

/-- The same: an area of 0 KiB is too small and one of 2^32 - 1 is not, for every size of the image, which is a free value;
an image at address 0 has pages to walk, which wait where every walker is busy; and one in the carve-out has none, and
faults nowhere. -/
theorem witness_ImageAndKnellWords_ctxsv_area :
    ((saving 0).reg 0 5).toNat < (saving 0).imageKib ∧ (saving 0xFFFFFFFF).imageKib ≤ ((saving 0xFFFFFFFF).reg 0 5).toNat
    ∧ ¬ WalksRun (busyWalkers (saving 0xFFFFFFFF)) 0 0 (pageStarts 0 (1024 * (busyWalkers (saving 0xFFFFFFFF)).imageKib))
    ∧ (runsB (carving 0xFFFFFFFF) (.ctxsv, 0x38, 6, f3 10 2 4 5 .i32) = true
      ∧ ((carving 0xFFFFFFFF).pair 0 2).toNat = 2 ^ 62 ∧ (carving 0xFFFFFFFF).quiet 0 1 = true)
    ∧ WalksRun (carving 0xFFFFFFFF) 0 0 [] ∧ (carving 0xFFFFFFFF).walked 0 0 [] id = carving 0xFFFFFFFF
    ∧ ((carving 0xFFFFFFFF).imageKib ≤ 2 ^ 22 →
      (carving 0xFFFFFFFF).rangeFault 0 0 (2 ^ 62) (1024 * (carving 0xFFFFFFFF).imageKib) { wr := true } = none
      ∧ (carving 0xFFFFFFFF).rangeBlock 0 0 (2 ^ 62) (1024 * (carving 0xFFFFFFFF).imageKib) = none) := by
  have h1 : ((saving 0).reg 0 5).toNat = 0 ∧ ((saving 0xFFFFFFFF).reg 0 5).toNat = 2 ^ 32 - 1 := by decide +kernel
  refine ⟨?_, ?_, walks_wait 0 ?_ (by decide) (by decide +kernel), by decide +kernel, (fun _ h => nomatch h), rfl, ?_⟩
  · rw [h1.1, State.imageKib]; omega
  · rw [h1.2, State.imageKib]; have := (Config.imageSize (saving 0xFFFFFFFF).free).isLt; omega
  · exact List.mem_map.mpr ⟨0, List.mem_range.mpr (by omega), by simp⟩
  · intro hn
    have hg : (carving 0xFFFFFFFF).noGroups 0 = false ∧ (carving 0xFFFFFFFF).grantSize 0 = 2 ^ 32 := by decide +kernel
    have hp : 1 ≤ (carving 0xFFFFFFFF).imageKib := by rw [State.imageKib]; omega
    have place : ∀ va ∈ pageStarts (2 ^ 62) (1024 * (carving 0xFFFFFFFF).imageKib), ∃ k,
        (carving 0xFFFFFFFF).imagePlace 0 0 va { wr := true } = .ok { key := k } := by
      intro va hva
      obtain ⟨i, hi, rfl⟩ := List.mem_map.mp hva
      rw [List.mem_range] at hi
      rw [State.imagePlace, State.carvePlace, hg.1, hg.2, if_pos (by simp only [beq_iff_eq]; omega), if_neg (by simp),
        if_pos (by omega)]
      exact ⟨_, rfl⟩
    rw [State.rangeFault, State.rangeBlock, List.findSome?_eq_none_iff, List.findSome?_eq_none_iff]
    refine ⟨fun va hva => ?_, fun va hva => ?_⟩ <;> obtain ⟨k, hk⟩ := place va hva <;> simp only [hk]; rfl

/-- An image read, run. -/
def rangeOf (s : State) (a n : Nat) : Option (State × List Word) :=
  let pages := if a < 2 ^ 62 then pageStarts a (4 * n) else []
  let u := s.walked s.me.part s.me.ctx pages id
  if walksB s s.me.part s.me.ctx pages && (u.rangeFault u.me.part u.me.ctx a (4 * n) { rd := true }).isNone
      && !u.rangePoison a n && !u.rangeWaits a n then some (u.loadWords a n) else none

theorem range_run {s t : State} {a n : Nat} {ws : List Word} (h : rangeOf s a n = some (t, ws)) : ReadsRange s a n t ws := by
  simp only [rangeOf, Option.ite_none_right_eq_some, Bool.and_eq_true, Bool.not_eq_true', Option.isNone_iff_eq_none] at h
  exact ⟨walks_run h.1.1.1.1, h.1.1.1.2, h.1.1.2, h.1.2, Option.some.inj h.2⟩

/-- What checkImage answers, decided. -/
def refusesB (x : Except Nat Image) (k : Nat) : Bool :=
  match x with
  | .error j => decide (j = k)
  | .ok _ => false

def findsB (x : Except Nat Image) (i : Image) : Bool :=
  match x with
  | .error _ => false
  | .ok j => decide (j = i)

theorem refuses_of {x : Except Nat Image} {k : Nat} (h : refusesB x k = true) : x = .error k := by
  cases x <;> simp_all [refusesB]

theorem finds_of {x : Except Nat Image} {i : Image} (h : findsB x i = true) : x = .ok i := by
  cases x <;> simp_all [findsB]

/-- An image of 256 words, a header of the present format among zeros, and memory at 0x10000 that equals it, or whose header is
malformed. -/
def image0 : Image :=
  ⟨0, 5, 0, [0x00010009, 1] ++ List.replicate 254 0, [], [], [], {}, [], [], [], [], [], [], [], [], [], [], [], [], [], [], 0⟩
def stored (n : Word) : State :=
  { fill (fill (words (mapped atThread) 0x10000 [0x00010009, n]) 2 [0x10000]) 4 [5] with images := [image0] }

set_option maxRecDepth 100000 in
/-- ImageAndKnellWords, ctxrs: of a context with work, of a malformed header, which is all that is read, and of an image. -/
theorem witness_ImageAndKnellWords_ctxrs :
    (∀ s ∈ [saving 0, stored 0, stored 1], runsB s (.ctxrs, 0x38, 7, f3 10 2 4 0 .i32) = true
      ∧ (s.me.isWarp = false ∧ s.me.level ≠ .user ∧ s.unsettled = false) ∧ s.active 0 false = [0])
    ∧ (saving 0).contextLive 0 ((saving 0).reg 0 4).toNat = true
    ∧ (∀ s ∈ [stored 0, stored 1], s.contextLive 0 5 = false ∧ (s.reg 0 4).toNat % 64 = 5 ∧ (s.pair 0 2).toNat = 0x10000)
    ∧ (∃ u h, rangeOf (stored 0) 0x10000 16 = some (u, h) ∧ headerOk h = false ∧ u.me = (stored 0).me
      ∧ u.images = (stored 0).images ∧ u.checkImage 0 5 h = .error 2)
    ∧ (∃ u h v r, rangeOf (stored 1) 0x10000 16 = some (u, h) ∧ headerOk h = true
      ∧ rangeOf u 0x10000 (256 * (h.getD 1 0).toNat) = some (v, r) ∧ v.me = (stored 1).me ∧ v.images = (stored 1).images
      ∧ v.checkImage 0 5 r = .ok image0 ∧ (v.parts.find 0).isSome = true) := by
  have h0 : (rangeOf (stored 0) 0x10000 16).any (fun e => !headerOk e.2 && decide (e.1.me = (stored 0).me)
      && decide (e.1.images = (stored 0).images) && refusesB (e.1.checkImage 0 5 e.2) 2) = true := by decide +kernel
  have h1 : (rangeOf (stored 1) 0x10000 16).any (fun e => headerOk e.2
      && (rangeOf e.1 0x10000 (256 * (e.2.getD 1 0).toNat)).any (fun d => decide (d.1.me = (stored 1).me)
        && decide (d.1.images = (stored 1).images) && (d.1.parts.find 0).isSome
        && findsB (d.1.checkImage 0 5 d.2) image0)) = true := by decide +kernel
  refine ⟨by decide +kernel, by decide +kernel, by decide +kernel, ?_, ?_⟩
  · cases hu : rangeOf (stored 0) 0x10000 16 with
    | none => rw [hu] at h0; exact Bool.noConfusion h0
    | some e =>
      simp only [hu, Option.any_some, Bool.and_eq_true, Bool.not_eq_true', decide_eq_true_eq] at h0
      exact ⟨e.1, e.2, rfl, h0.1.1.1, h0.1.1.2, h0.1.2, refuses_of h0.2⟩
  · cases hu : rangeOf (stored 1) 0x10000 16 with
    | none => rw [hu] at h1; exact Bool.noConfusion h1
    | some e =>
      simp only [hu, Option.any_some, Bool.and_eq_true] at h1
      cases hv : rangeOf e.1 0x10000 (256 * (e.2.getD 1 0).toNat) with
      | none =>
        simp only [hu, Option.any_some, hv, Option.any_none, Bool.and_false] at h1
        exact Bool.noConfusion h1.2
      | some d =>
        simp only [hv, Option.any_some, Bool.and_eq_true, decide_eq_true_eq] at h1
        exact ⟨e.1, e.2, d.1, d.2, rfl, h1.1, hv, h1.2.1.1.1, h1.2.1.1.2, finds_of h1.2.2, h1.2.1.2⟩

/-- A thread that clears words from an address, where a word of device memory and one of its grant are poisoned. -/
def clearing (a n : Word) : State :=
  let s := (fill (fill atThread 2 [a]) 4 [n]).setPreg 0 0x08 1
  { s with lines := [(0x2000 / 128, { words := [(1, { st := .p })] }), (s.carveKey 0 0 / 128, { words := [(0, { st := .p })] })] }

/-- ImageAndKnellWords, errclr: of no word and of two in each of the two spaces. -/
theorem witness_ImageAndKnellWords_errclr :
    (∀ s ∈ [clearing 0x2000 0, clearing 0x2000 2, clearing 0 2], ∀ e ∈ [((.errclr, 0x38, 8, f3 10 2 4 0 .i32) : Row),
        (.errclrCo, 0x38, 8, f3 10 2 4 0 .i32 1)], runsB s e = true
      ∧ (s.me.isWarp = false ∧ s.me.level ≠ .user ∧ s.unsettled = false) ∧ s.active 0 false = [0] ∧ s.pair 0 2 &&& 3 = 0)
    ∧ ((clearing 0x2000 0).clearKeys false 0x2000 0).toOption = some []
    ∧ ((clearing 0x2000 2).clearKeys false 0x2000 2).toOption = some [0x801, 0x800]
    ∧ (clearing 0x2000 2).regOf 0x801 = .p ∧ (clearing 0x2000 2).regOf 0x800 = .u
    ∧ (((clearing 0 2).clearKeys true 0 2).toOption.map List.length) = some 2
    ∧ (clearing 0 2).regOf ((clearing 0 2).carveKey 0 0 / 4) = .p := by decide +kernel

/-- A grid that a knell may discard, and a supervisor that posts one. -/
def discardable : Grid := { placedGrid with desc := placedDesc.set 12 0x00100401 }
def knelling (d b : Word) (n : Option Knell) : State :=
  (((fill (fill atThread 2 [d]) 4 [b]).updPart 0 (fun q => { q with grids := [(1, discardable)], knell := n })).setPreg 0 0x1E 7)

/-- ImageAndKnellWords, knell: a reserved operand, a deadline that is not earlier than one that stands, and a first one. -/
theorem witness_ImageAndKnellWords_knell :
    (∀ s ∈ [knelling 9 1 none, knelling 7 0 (some { num := 0, t0 := 0, grids := [] }), knelling 9 0 none],
      runsB s (.knell, 0x38, 9, f3 10 2 4 0 .i32) = true
      ∧ (s.me.isWarp = false ∧ s.me.level ≠ .user ∧ s.unsettled = false) ∧ s.active 0 false = [0] ∧ s.me.level = .supervisor
      ∧ s.me.part = 0)
    ∧ (knelling 9 1 none).reg 0 4 ≠ 0
    ∧ (let s := knelling 7 0 (some { num := 0, t0 := 0, grids := [] }); s.reg 0 4 = 0 ∧ (s.part 0).knell.isSome = true
      ∧ ((s.part 0).reg 0x1E).toNat ≤ (s.pair 0 2).toNat)
    ∧ (let s := knelling 9 0 none; s.reg 0 4 = 0 ∧ (s.part 0).knell = none ∧ s.tick < (s.pair 0 2).toNat
      ∧ (s.part 0).stop = none ∧ (s.part 0).grids = [(1, discardable)] ∧ discardable.live = true ∧ Desc.disc discardable.d = true) := by decide +kernel

/-- ControlRegisterWords: a register of each kind read; written in each of the two forms, by a supervisor and by the
vendor; those of another thread; and who may not run the words. -/
theorem witness_ControlRegisterWords :
    (∀ a ∈ [0x07, 0x20, 0x23, 0x40, 0x45], ∀ e ∈ [((.csrr, 0x38, 0, f3 10 (BitVec.ofNat 8 a) 4 0 .n64) : Row),
        (.csrr, 0x38, 0, f3 10 (BitVec.ofNat 8 a) 4 0 .n32), (.csrw, 0x38, 1, f3 0 (BitVec.ofNat 8 a) 2 4 .n64),
        (.csrw, 0x38, 1, f3 0 (BitVec.ofNat 8 a) 2 4 .n32)],
      runsB atThread e = true ∧ (atThread.target a (atThread.reg 0 4).toNat) = some (0, 0))
    ∧ (atThread.me.isWarp = false ∧ atThread.me.level ≠ .user ∧ atThread.unsettled = false) ∧ atThread.active 0 false = [0]
    ∧ (about 0x7000000000000403).me.level = .vendor ∧ vendorSel 0x23 = true ∧ vendorSel 0x20 = false
    ∧ atThread.me.level ≠ .vendor
    ∧ (∀ s ∈ [fill atThread 4 [7]], s.target 0x41 (s.reg 0 4).toNat = some (0, 7) ∧ s.target 0x42 (s.reg 0 4).toNat = some (0, 7)
      ∧ s.me.id ≠ 8192 + 7 ∧ s.agent (8192 + 7) = some (idleConductor 7) ∧ (idleConductor 7).id = 8192 + 7)
    ∧ runsB (about 0x7000000000000403) (.csrw, 0x38, 1, f3 0 0x23 2 4 .n64) = true
    ∧ ((about 0x7000000000000403).target 0x23 0 = some (0, 0))
    ∧ atWarp.me.isWarp = true ∧ ({ atThread with me := { atThread.me with level := .user } } : State).me.level = .user := by
  decide +kernel

/-- A user thread whose partition has a handler. -/
def handled : State := ({ atThread with me := { atThread.me with level := .user } } : State).setPreg 0 0x20 0x3001

/-- ConductorTrapAndReturn: a user thread with a handler, a supervisor's own fault, and both sides of tret. -/
theorem witness_ConductorTrapAndReturn :
    handled.me.kind = .conductor 0 ∧ handled.me.level = .user ∧ ((handled.part handled.me.part).reg 0x20).getLsbD 0 = true
    ∧ handled.me.xtstat.getLsbD 33 = false ∧ handled.me.threads.length = 1
    ∧ (∀ th ∈ handled.me.threads, meetAddr handled.me.codeBase th.meet ≠ some 0x3000)
    ∧ atThread.me.kind = .conductor 0 ∧ atThread.me.level = .supervisor
    ∧ (∀ s ∈ [atThread, { atThread with me := { atThread.me with xtepc := 4 } }], runsB s (.tret, 0x38, 5, f3 0 0 0 0 .i32) = true
      ∧ (s.me.isWarp = false ∧ s.me.level ≠ .user ∧ s.unsettled = false) ∧ s.active 0 false ≠ [] ∧ s.me.loops = []
      ∧ (∀ t ∈ s.me.threads, t.meet = 0xFFFFFFFF))
    ∧ atThread.me.xtepc &&& 7 = 0 ∧ ({ atThread.me with xtepc := 4 } : Agent).xtepc &&& 7 ≠ 0 := by decide +kernel

/-- A supervisor beside a warp of grid 1, the grid's and context's marks given. -/
def supervising (k c : Word) (g : HaltMark) (x : Bool) (a : HaltMark) : State :=
  let s := (fill (fill atThread 2 [k]) 4 [c]).updPart 0 (fun q => { q with
    grids := [(1, { placedGrid with halted := g })], contexts := [(0, { halted := x })] })
  { s with others := [(0, { atWarp.me with halted := a })] }

/-- The words of SupervisorWords. -/
def superTable : List Row := [
  (.tlbinvRange, 0x38, 2, f3 0 2 4 5 .i32), (.tlbinvCtx, 0x38, 2, f3 0 0 0 5 .i32 1), (.tlbinvPart, 0x38, 2, f3 0 0 0 0 .i32 2),
  (.haltGrid, 0x38, 3, f3 10 2 0 0 .i32), (.haltCtx, 0x38, 3, f3 10 0 4 0 .i32 1), (.resumeGrid, 0x38, 4, f3 10 2 0 0 .i32),
  (.resumeCtx, 0x38, 4, f3 10 0 4 0 .i32 1)]

/-- SupervisorWords: grids and contexts that are not there, halted and not halted, with a warp of the grid beside them. -/
theorem witness_SupervisorWords :
    (∀ s ∈ [supervising 0 5 .none false .none, supervising 1 0 .none false .none, supervising 1 0 .halt true .halt],
      (∀ e ∈ superTable, runsB s e = true) ∧ (s.me.isWarp = false ∧ s.me.level ≠ .user ∧ s.unsettled = false)
      ∧ s.active 0 false = [0] ∧ s.parked = none ∧ s.regReqs = [])
    ∧ (let s := supervising 0 5 .none false .none; (s.part s.me.part).grids.find (s.pair 0 2).toNat = none
      ∧ (s.part s.me.part).contexts.find ((s.reg 0 4).toNat % 64) = none)
    ∧ (let s := supervising 1 0 .none false .none; ((s.part s.me.part).grids.find (s.pair 0 2).toNat).map (·.halted) = some .none
      ∧ ((s.part s.me.part).contexts.find ((s.reg 0 4).toNat % 64)).map (·.halted) = some false)
    ∧ (let s := supervising 1 0 .halt true .halt; ((s.part s.me.part).grids.find (s.pair 0 2).toNat).map (·.halted) = some .halt
      ∧ ((s.part s.me.part).grids.find (s.pair 0 2).toNat).map (·.live) = some true
      ∧ ((s.part s.me.part).contexts.find ((s.reg 0 4).toNat % 64)).map (·.halted) = some true)
    ∧ (let s := (supervising 1 0 .none false .none).updPart 0 (fun q => { q with stop := some { num := 1, reason := 0 } });
      (∀ e ∈ [((.haltGrid, 0x38, 3, f3 10 2 0 0 .i32) : Row), (.haltCtx, 0x38, 3, f3 10 0 4 0 .i32 1)], runsB s e = true)
      ∧ (s.part s.me.part).stop ≠ none ∧ s.parked = none)
    ∧ (let s := supervising 1 0 .halt true .halt; (s.part s.me.part).stop = none ∧ (s.part s.me.part).knell = none)
    ∧ (∀ m ∈ [HaltMark.none, .halt], (supervising 1 0 .none false m).others.find 0 = some { atWarp.me with halted := m }
      ∧ ({ atWarp.me with halted := m } : Agent).id = 0 ∧ 0 ≠ atThread.me.id ∧ ({ atWarp.me with halted := m } : Agent).isWarp = true
      ∧ ({ atWarp.me with halted := m } : Agent).grid = 1) := by decide +kernel

/-- The same: tlbinv's form 3 at the vendor level, and a tlbinv whose operation is done. -/
theorem witness_SupervisorWords_tlbinv :
    (let s := about 0x7000000000000403; runsB s (.tlbinvAll, 0x38, 2, f3 0 0 0 0 .i32 3) = true ∧ s.me.level = .vendor
      ∧ (s.me.isWarp = false ∧ s.me.level ≠ .user ∧ s.unsettled = false) ∧ s.active 0 false = [0] ∧ s.parked = none)
    ∧ (({ atThread with me := { atThread.me with parks := [{ pc := 0x1000, wait := .op 7, done := true }] } } : State).parked.any
      (·.done)) = true := by decide +kernel

/-! #### The hardware's own steps -/

/-- One lane's word at the start of an access of a word, at scope `sc`, with a piece as given. -/
def flying (k : AccKind) (sc : Nat) (p : Piece) : State :=
  { atWarp with accesses := [(1, { agent := 0, kind := k, scope := sc, part := 0, ctx := 0, grid := 1, core := 0,
                                   pc := 0x1000, pieces := [p] })], nextId := 2 }

/-- The access and piece of `flying`. -/
def flown (s : State) : Option (Access × Piece) := s.pieceOf 65536

/-- What a step of MemorySteps asks of its access. -/
def meets (s : State) (f : Access → Piece → Bool) : Bool := (flown s).any (fun e => f e.1 e.2)

/-- A word registered to owner 5 with its copy, and to no one else. -/
def owned (st : Reg) : State :=
  { atWarp with lines := [(64, { own0 := 5, words := [(0, { st := st })] })], copies := [(copyKey 5 0x800, 9)], openLines := [(5, [64])] }

/-- MemorySteps: drains of a full word into the section from its L1 stage and directly, into the L1 beside a clean word, of
a part of a word the owner holds, and into a scratchpad, full and in part. -/
theorem witness_MemorySteps_drain :
    (∀ k ∈ [AccKind.store, .stnt, .strel, .chime], ∀ e ∈ [(0, true), (2, false)],
      meets (flying k e.1 { key := 0x800, val := 7, inL1 := e.2 }) (fun a p =>
      !p.poison && (flying k e.1 { key := 0x800, val := 7, inL1 := e.2 }).mayWrite 65536 a p
        && (a.path p == .section_ || (a.path p == .l1 && p.inL1)) && p.mask == 15) = true)
    ∧ (let s : State := { flying .store 0 { key := 0x800, val := 7 } with clean := [(copyKey (l1Cache 0) 64, { words := [(0, 5)] })] }
       meets s (fun a p => !p.poison && s.mayWrite 65536 a p && a.path p == .l1 && p.mask == 15 && !p.inL1
        && a.l1 == some (l1Cache 0) && s.cleanOf (l1Cache 0) p.key == some ⟨5, 0, 0, 0⟩ && s.cacheLines (l1Cache 0) != some 0) = true)
    ∧ (∀ k ∈ [AccKind.store, .stnt], let s := flying k 0 { key := 0x800, val := 7 }
       meets s (fun a p => s.notFull a.owner (lineOf p.key)) = true)
    ∧ (∀ e ∈ [(0, true), (2, false)], let s : State := { flying .store e.1 { key := 0x800, val := 7, mask := 8, inL1 := e.2 } with
          copies := [(copyKey 0 0x800, 9)], held := [(copyKey 0 0x800, true)] }
       meets s (fun a p => !p.poison && s.mayWrite 65536 a p && (a.path p == .section_ || (a.path p == .l1 && p.inL1))
        && p.mask != 15 && s.copyOf a.owner p.key == some 9 && s.holdsWord a.owner p.key) = true)
    ∧ (∀ e ∈ [(0, true), (2, false)], let s := flying .store e.1 { key := 0x800, val := 7, mask := 8, inL1 := e.2 }
       meets s (fun a p => !p.poison && s.mayWrite 65536 a p && (a.path p == .section_ || (a.path p == .l1 && p.inL1))
        && p.mask != 15 && !s.holdsWord a.owner p.key && !s.lineHeld p.key && !s.l1Waits a p && !s.sending a.owner
        && decide (4 * p.key < hostCopyBase) && s.regOf p.key == .u && decide ((s.openLines.get [] a.owner).length < 4096)) = true)
    ∧ (∀ m ∈ [15, 1], meets (flying .store 1 { key := 0x100000, scr := true, mask := m }) (fun a p => !p.poison
      && (flying .store 1 { key := 0x100000, scr := true, mask := m }).mayWrite 65536 a p && a.path p == .scratch
      && !(flying .store 1 { key := 0x100000, scr := true, mask := m }).scratchBad p.key 15) = true) := by decide +kernel

/-- MemorySteps: a request for registration of a word in U, with none before it; and one that races with words of another
owner at RACEMODE 0. -/
theorem witness_MemorySteps_registration :
    (∀ s ∈ [runs (.storeDrain 65536) (runs (.storeDrain 65536) storing), { owned .o with regReqs := [(2, ⟨0, 0x800, 0, 0, 1, 0, 0, 0x1000, 0, 0, none, none⟩)] }],
      (s.regReqs.find 2).any (fun r => !s.lineHeld r.word
        && (s.regReqs.pick (fun k q => decide (k < 2) && q.owner == r.owner)).isEmpty
        && ((s.raceWith r.word r.owner).isNone || r.racemode == 0) && decide ((s.openLines.get [] r.owner).length < 4096)) = true) := by
  decide +kernel

/-- Four words of a lane's store of package scope, of 4 bytes each or of 16. -/
def sixteen (w : Nat) : State := { atWarp with
  accesses := [(1, { agent := 0, kind := .store, scope := 4, part := 0, ctx := 0, grid := 1, core := 0, pc := 0x1000, width := w,
                     pieces := (List.range 4).map (fun i => { key := 0x800 + i, val := 7 }) })], nextId := 2 }

/-- An access that a forward to owner 5 serves, its word as given. -/
def asking (k : AccKind) (st : Reg) : State := { flying k 0 { key := 0x800, val := 7 } with
  lines := [(64, { own0 := 5, words := [(0, { st := st })] })], copies := [(copyKey 5 0x800, 9)],
  forwards := [(64, ⟨0x800, 5, 65536, 9⟩)] }

/-- MemorySteps: reads at the bank, writes there, a forward's answer, and data that return. -/
theorem witness_MemorySteps_bank :
    (∀ k ∈ [AccKind.load, .ldacq, .ldnt], meets (flying k 0 { key := 0x800 }) (fun a p => !a.detached
      && (flying k 0 { key := 0x800 }).needsRead a p && !(flying k 0 { key := 0x800 }).lineHeld p.key
      && decide (4 * p.key < hostCopyBase) && (flying k 0 { key := 0x800 }).regOf p.key == .u
      && !(flying k 0 { key := 0x800 }).l1Waits a p && ((flying k 0 { key := 0x800 }).servedSince a p).isNone
      && (flying k 0 { key := 0x800 }).notFull a.innerCache (lineOf p.key)) = true)
    ∧ (∀ m ∈ [15, 8], meets (flying .store 3 { key := 0x800, mask := m }) (fun a p => a.path p == .bank && !p.poison
      && (flying .store 3 { key := 0x800, mask := m }).mayWrite 65536 a p && !(flying .store 3 { key := 0x800, mask := m }).lineHeld p.key
      && !(flying .store 3 { key := 0x800, mask := m }).registering a.owner p.key && !a.wide && decide (4 * p.key < hostCopyBase)
      && (flying .store 3 { key := 0x800, mask := m }).regOf p.key == .u) = true)
    ∧ (∀ w ∈ [4, 16], meets (sixteen w) (fun a p => a.path p == .bank && !p.poison && (a.quad p == (w == 16))) = true)
    ∧ (let ready (s : State) (j : Nat) : Bool := ((s.accesses.find 1).bind (fun a => a.pieces[j]?.map (fun q =>
          q.done || s.bankReady (65536 + j) a q))).getD true
       let late : State := { sixteen 16 with regReqs := [(2, ⟨(flown (sixteen 16)).elim 0 (·.1.owner), 0x801, 0, 0, 1, 0, 0, 0x1000, 0, 0, none, none⟩)] }
       (List.range 4).all (ready (sixteen 16)) = true ∧ (List.range 4).all (ready late) = false
       ∧ meets late (fun a p => a.path p == .bank && a.quad p) = true)
    ∧ (∀ e ∈ [(AccKind.load, Reg.r), (.load, .u), (.store, .r)], let s := asking e.1 e.2
      s.forwards.find 64 = some ⟨0x800, 5, 65536, 9⟩ ∧ s.forwarded ⟨0x800, 5, 65536, 9⟩ = (e.2 == .r)
      ∧ meets s (fun a p => p.key == 0x800 && !p.done && (a.kind.reads == (e.1 == .load)) && !a.kind.isAtomic && !a.detached
        && decide ((s.openLines.get [] a.owner).length < 4096)) = true)
    ∧ (let s := flying .load 0 { key := 0x800, row := some 48, got := some 7, done := true }
       (s.accesses.find 1).any (fun a => a.agent == s.me.id && a.pieces.all (fun p => p.done && !p.poison && p.bad.isNone)
         && !a.detached && !a.holds && decide (a.pieces.filterMap (·.row)).Nodup) = true) := by decide +kernel

/-- A release of owner 5 with two words open on a line, its list taken or not, and acknowledgements to come. -/
def releasing (taken : Bool) (pushes : List Nat) (acks : Nat) : State :=
  { owned .o with
    releases := [(3, { agent := 0, scope := 4, owner := 5, part := 0, waits := [], taken := taken, pushes := pushes, acks := acks })],
    me := { atWarp.me with parks := [{ pc := 0x1000, wait := .release 3 }] } }

/-- A release of system scope of an owner with no open line. -/
def systemRelease : State := { atWarp with
  releases := [(3, { agent := 0, scope := 5, owner := 5, part := 0, waits := [] })] }

/-- ReleaseSteps: a push from the owner's list and one of a list that was taken; acknowledgements; a written-back line. -/
theorem witness_ReleaseSteps :
    (∀ s ∈ [releasing false [] 0, releasing true [64] 1], (s.releases.find 3).any (fun r => decide (3 ≤ r.scope)
      && (r.taken || (r.waits.isEmpty && !s.regReqs.anyV (fun q => q.owner == r.owner)))
      && (if r.taken then r.pushes else s.openLines.get [] r.owner) == [64] && (s.forwards.find 64).isNone) = true)
    ∧ ((releasing true [] 2).releases.find 3).any (fun r => decide (2 ≤ r.acks)) = true
    ∧ ((releasing true [] 1).releases.find 3).any (fun r => r.acks == 1 && r.taken && r.pushes.isEmpty
      && ((releasing true [] 1).releases.pick (fun k q => decide (k < 3) && q.owner == r.owner && decide (3 ≤ q.scope))).isEmpty) = true
    ∧ (∀ k ∈ (releasing true [] 1).me.parks, k.wait = .release 3)
    ∧ (owned .o).forwards.find 64 = none ∧ 0x800 ∈ (owned .o).wordsOf 64 5 ∧ (owned .o).regOf 0x800 = .o ∧ (owned .o).registering 5 0x800 = false
    ∧ (owned .o).notFirst 5 64 = false ∧ 0x800 ∈ (owned .o).openWords 64 5
    ∧ (let s := systemRelease; (s.releases.find 3).any (fun r => decide (3 ≤ r.scope) && !r.taken && r.waits.isEmpty
      && !s.regReqs.anyV (fun q => q.owner == r.owner) && (s.openLines.get [] r.owner).isEmpty && s.portAcks r != 0) = true)
    ∧ (let s : State := { releasing true [] 1 with releases := (releasing true [] 1).releases.mapV (fun r => { r with scope := 3 }) }
       (s.releases.find 3).any (fun r => r.acks == 1 && r.taken && r.pushes.isEmpty && r.scope == 3
        && !s.earlierUnsent 3 r.owner) = true) := by decide +kernel

/-- A walk in progress for the warp's page 1. -/
def walking (s : State) : State :=
  { s with walks := [(4, ⟨0, 0, 1, 0, [0], none⟩)], me := { s.me with parks := [{ pc := 0x1000, wait := .walk 4 }] } }

/-- A walk's answer is a translation. -/
def walkOk (s : State) : Bool :=
  match s.walkPage 0 0 65536 with
  | .ok _ => true
  | .error _ => false

/-- A counted access whose entry's count stands as given. -/
def counting (v : Word) : State :=
  (words { atWarp with counts := [⟨0, 0, 0xC000, 0xC000, 0, 0, 0, 0⟩] } 0xC008 [v]).setPreg 0 0x05 0

/-- TranslationSteps: a walk that finds its page and one that does not, an operation with nothing to wait for, a counter at
its start and at its end, and an agent whose page is write-blocked. -/
theorem witness_TranslationSteps :
    (∀ s ∈ [walking (mapped atWarp), walking atWarp], (s.walks.find 4).map (·.agents) = some [s.me.id]
      ∧ (s.walking 0).contains 4 = true ∧ (s.part 0).holds (.walker 0 ((s.walking 0).idxOf 4)) = false
      ∧ ∀ k ∈ s.me.parks, k.wait = .walk 4)
    ∧ (let s : State := { atWarp with walks := (List.range 9).map (fun i => (i, ⟨0, 0, i, 0, [0], none⟩)) }
       s.walks.find 8 ≠ none ∧ (s.walking 0).contains 8 = false ∧ s.walks.anyV (fun w => w.part != 0) = false)
    ∧ walkOk (walking (mapped atWarp)) = true ∧ walkOk (walking atWarp) = false
    ∧ (∀ s ∈ [walking (mapped atWarp), walking atWarp], ∀ r ∈ [none, some (WalkResult.leaf placedLeaf), some (.fault 0x10 2)],
      ({ s with walks := [(4, ⟨0, 0, 1, 0, [0], r⟩)] } : State).walkStuck ⟨0, 0, 1, 0, [0], r⟩ = false)
    ∧ (∀ f < 4, let o := PkgOp.tlbinv 0 f 0 0 1 []; ({ atThread with ops := [(6, o)] } : State).ops.find 6 = some o
      ∧ ({ atThread with ops := [(6, o)] } : State).coveredBusy 6 o = false)
    ∧ (∀ s ∈ [counting 0, counting 0xFFF000], s.counts = [⟨0, 0, 0xC000, 0xC000, 0, 0, 0, 0⟩]
      ∧ s.lineHeld (0xC000 / 4 + 2) = false ∧ s.regOf (0xC000 / 4 + 2) ≠ .p
      ∧ s.preg 0 0x05 % 4096 = 0)
    ∧ ({ atWarp with me := { atWarp.me with parks := [{ pc := 0x1000, wait := .writeBlock 0 }] } } : State).agent 0 ≠ none := by
  decide +kernel

/-- WaitSteps: parked words of each kind, a call with its answer in place, and a fuse that has waited 1,024 clk. -/
theorem witness_WaitSteps :
    atWarp.agent 0 = some atWarp.me
    ∧ (let k : Call := { pos := 0, record := 0x8000, seq := 0 }
       let s : State := { mapped atWarp with me := { atWarp.me with calls := [k] } }
       s.me.calls = [k] ∧ k.reply = none ∧ k.cancelled = false ∧ (s.getGpa s.me.part (k.record + 32) 1).headD 0 = k.seq
       ∧ s.forwards = [])
    ∧ (let p : Park := { pc := 0x1000, wait := .fuse 255 }
       let s : State := { atWarp with tick := 640, me := { atWarp.me with parks := [p] } }
       s.me.parks = [p] ∧ p.done = false ∧ s.me.halted = .none ∧ p.t0 + s.clkTicks (dieOf s.me.core) 1024 ≤ s.tick) := by decide +kernel

/-- A matrix unit about to load a beat of one bf16 or f16 panel from the carve-out. -/
def loadCommand (ty at_ : Nat) : Command :=
  { kind := .mldb, at_ := at_, tag := if at_ = 0 then 0 else ty + 60, queue := 0, agent := 0, core := 0, part := 0, ctx := 0, grid := 1, cluster := 1, pc := 0x1000, scope := 0,
    ctl := 0, seq := 1, racemode := 1, canon := false, pieces := [⟨0x4000000000000000, 0, 8192⟩], size := 0, bytes := 8192,
    ty := ty }
def loading (ty at_ : Nat) : State :=
  { (atWarp.setPreg 0 0x08 1).updCore 0 (fun k => { k with loader := [9] }) with cmds := [(9, loadCommand ty at_)] }

/-- The next beat of a weight load runs and leaves its command as it was, decided. -/
def beatB (s : State) (c : Command) : Bool :=
  let pages := spanOf (0x4000000000000000 + BitVec.ofNat 64 c.at_) 512
  walksB s 0 0 (pages.filter (fun a => decide (a < 2 ^ 56))) && (match (s.walked 0 0 pages (fun x => x)).loadBeat c ⟨0x4000000000000000, 0, 8192⟩ with
  | .ok (u, _, _) => u.cmds.find 9 == some c
  | .error _ => false)

/-- EngineSteps: the first and the last beat of the last panel of an mldb, of f16 and of bf16, and the panel to be placed. -/
theorem witness_EngineSteps_load : ∀ ty ∈ [5, 6], ∀ at_ ∈ [0, 7680, 8192],
    let s := loading ty at_
    let c := loadCommand ty at_
    s.cmds.find 9 = some c ∧ c.kind = .mldb ∧ (s.loads 0).head? = some 9 ∧ c.forks = []
    ∧ (s.part 0).holds (.matrix 0) = false ∧ c.pieces[c.piece]? = some ⟨0x4000000000000000, 0, 8192⟩
    ∧ (at_ < 8192 → s.loadWaits c ⟨0x4000000000000000, 0, 8192⟩ = false ∧ beatB s c = true) ∧ (at_ = 8192 → c.tag ≠ 0) := by
  decide +kernel

/-- MatrixWords: an mma of a panel that an mldb is writing, some of its blocks read. -/
theorem witness_MatrixWords_mixed :
    let s := loading 5 512
    let c := { loadCommand 5 512 with staged := List.replicate 4 (0, []) }
    let u : State := { s with cmds := [(9, c)] }
    (u.loadingAt u.cluster.ctxPos 0).isSome = true ∧ u.tagSuits .f16 u.cluster.ctxPos 0 65 = true := by decide +kernel

/-- A warp with a full ring of poison records. -/
def ringFull : State := atWarp.setPreg 0 0x19 16

/-- A host word's access, its piece as given. -/
def toHost (k : AccKind) : State := flying k 0 { key := hostBase / 4, pol := 2 }

/-- The same ring with room, at 0x5000. -/
def roomy (s : State) : State := s.setPreg 0 poisonRing.base 0x5004

/-- The next poison record lies outside a line, decided. -/
def recordB (s : State) (p l : Nat) : Bool :=
  let base := s.preg p poisonRing.base
  match s.gpa p (bitsN base 51 12 * 2 ^ 12 + 32 * (s.preg p poisonRing.head % 2 ^ bitsN base 3 0)) with
  | .ok (d, _) => (List.range 8).all (fun j => (d / 4 + j) / 32 != l)
  | .error _ => false

theorem record_of {s : State} {p l : Nat} (h : recordB s p l = true) : RecordOutside s p l := by
  refine Or.inr (fun d x hd j hj => ?_)
  unfold recordB at h
  simp only [hd] at h
  simpa using List.all_eq_true.mp h j (List.mem_range.mpr hj)

theorem records_of {s : State} {p l kind : Nat}
    (h : (List.range 32).all (fun n => recordB ((s.poisonWords p l kind n).poisonWord (32 * l + n)) p l) = true) :
    RecordsOutside s p l kind := fun n hn => record_of (List.all_eq_true.mp h n (List.mem_range.mpr hn))

/-- ErrorSteps: the poison map's records lie outside the lines poisoned, its ring having room: of a fill that fails, an error in
memory, in the last-level cache and in a section's, and a host line whose completion never comes. -/
theorem witness_ErrorSteps_records :
    (∀ n < 2, (roomy atWarp).preg 0 poisonRing.head = (roomy atWarp).preg 0 poisonRing.tail
      ∧ 2 ^ bitsN ((roomy atWarp).preg 0 poisonRing.base) 3 0 = 16 ∧ n < 2)
    ∧ (∃ u, exec (.llcFill 64 false) (roomy atWarp) = .next u ∧ RecordsOutside u 0 64 0)
    ∧ (∀ n < 32, RecordOutside ((struckTo (roomy atWarp) 0 64 n).poisonWord (32 * 64 + n)) 0 64)
    ∧ RecordOutside ((roomy atWarp).poisonWord 0x800) 0 64
    ∧ RecordOutside (((roomy (owned .o)).poisonWord 0x800).dropClean (sectionCache 5) 0x800) 0 64
    ∧ (let l := hostCopyBase / 128
       RecordsOutside (({ roomy atWarp with hostLines := (roomy atWarp).hostLines.set l false } : State).fillWay l) 0 l 8) := by
  refine ⟨by decide +kernel, ?_, ?_, record_of (by decide +kernel), record_of (by decide +kernel), records_of (by decide +kernel)⟩
  · have h : (match exec (.llcFill 64 false) (roomy atWarp) with
        | .next u => (List.range 32).all (fun n => recordB ((u.poisonWords 0 64 0 n).poisonWord (32 * 64 + n)) 0 64)
        | _ => false) = true := by decide +kernel
    cases hu : exec (.llcFill 64 false) (roomy atWarp) with
    | next u => rw [hu] at h; exact ⟨u, rfl, records_of h⟩
    | fault r => rw [hu] at h; simp at h
    | refused r => rw [hu] at h; simp at h
  · intro n hn
    have h : (List.range 32).all (fun n => recordB ((struckTo (roomy atWarp) 0 64 n).poisonWord (32 * 64 + n)) 0 64) = true := by
      decide +kernel
    exact record_of (List.all_eq_true.mp h n (List.mem_range.mpr hn))

/-- ErrorSteps: a line with no word beside P and nothing to replace, a full ring, a unit that drains, and each thing an
error strikes. -/
theorem witness_ErrorSteps :
    ringFull.partOfLine 64 = some 0 ∧ (ringFull.lines.get {} 64).words.anyV (fun b => b.st != .p) = false
    ∧ ringFull.replaceable 0 64 = [] ∧ 128 * 64 < hostCopyBase
    ∧ (ringFull.preg 0 poisonRing.head + 2 ^ 32 - ringFull.preg 0 poisonRing.tail) % 2 ^ 32
      = 2 ^ bitsN (ringFull.preg 0 poisonRing.base) 3 0
    ∧ (∀ f ∈ [none, some (⟨0x800, 5, 1, 9⟩ : Forward)], let s := (owned .o).updPart 0 (fun q => { q with draining := [63] })
       let t : State := { s with ways := [(64, 63)], forwards := match f with
         | some x => [(64, x)]
         | none => [] }
       63 ∈ (t.part 0).draining ∧ t.unitLines 0 63 = [64] ∧ t.forwards.find 64 = f ∧ t.partOfLine 64 = some 0 ∧ t.regOf 0x800 = .o)
    ∧ (ringFull.parts.find 0).isSome = true ∧ ringFull.partWord 0 0x800 = true ∧ ringFull.regOf 0x800 = .u
    ∧ (let s := (owned .o).setPreg 0 0x19 16; s.partWord 0 0x800 = true ∧ s.ownerOf 0x800 = 5 ∧ s.regOf 0x800 = .o
       ∧ (s.parts.find 0).isSome = true)
    ∧ (ringFull.clusters.find 1).isSome = true ∧ ringFull.partOf 0 = some 0
    ∧ ((walking atWarp).walks.find 4).isSome = true
    ∧ (∀ k ∈ [AccKind.load, .store], meets (toHost k) (fun a p => !p.done && a.path p == .host && !a.detached && a.kind == k) = true)
    ∧ meets (toHost .store) (fun a p => (toHost .store).mayWrite 65536 a p) = true
    ∧ (let s : State := ringFull; let l := hostCopyBase / 128
       s.partOfLine l = some 0 ∧ hostCopyBase ≤ 128 * l ∧ 128 * l < hostBase ∧ s.forwards.find l = none ∧ s.hostLines.find l = none) := by
  decide +kernel

/-- A command of the warp's grid that copies one word, in the states that its steps ask for. -/
def copyCommand : Command :=
  { kind := .cpy, queue := 0, agent := 0, core := 0, part := 0, ctx := 0, grid := 1, cluster := 1, pc := 0x1000, scope := 4,
    ctl := 0x7F, seq := 1, racemode := 1, canon := false, pieces := [⟨0x10000, 0x20000, 4⟩], size := 4, bytes := 4 }
def commanded (c : Command) : State := { mapped atWarp with cmds := [(9, c)], nextId := 10 }

/-- EngineSteps: an idle engine with a command that waits, a beat of one word, and a command that is done. -/
theorem witness_EngineSteps :
    (let s := commanded copyCommand; s.partOfEngine 0 = some 0 ∧ (s.part 0).stop = none ∧ s.engineDead.get false 0 = false
      ∧ s.cmds.anyV (fun x => x.running == some 0) = false ∧ s.nextCommand 0 = some (9, copyCommand) ∧ copyCommand.port = none
      ∧ copyCommand.finished = false)
    ∧ (let c := { copyCommand with running := some 0 }; let s := commanded c
       s.runningOn 0 = some (9, c) ∧ s.cmds.find 9 = some c ∧ (s.part c.part).holds (.copy 0) = false ∧ c.stopped = false
       ∧ c.forks = [] ∧ c.finished = false ∧ s.beatWaits c = false ∧ c.port = none
       ∧ walksB s 0 0 c.beatAddrs = true
       ∧ (let u := s.walked 0 0 c.beatAddrs (fun x => x); u.cmds = s.cmds ∧ u.beatFault c = none ∧ u.beatWaits c = false)
       ∧ c.kind ≠ .coll ∧ c.beat = ([0x10000], 0x20000, 4) ∧ c.ctl.getLsbD 9 = false
       ∧ (let u := s.walked 0 0 c.beatAddrs (fun x => x)
         (u.openLines.get [] (0x020 + 0)).length < 4096
         ∧ ((u.cmdPlace c 0x10000 { rd := true }).toOption.any (fun
           | .mem q => q.pol != 2 && decide (4 * (q.key / 4) < hostCopyBase) && u.regOf (q.key / 4) == .u
           | _ => false)) = true
         ∧ ((u.cmdPlace c 0x20000 c.dstNeed).toOption.any (fun
           | .mem q => q.pol != 2 && decide (4 * (q.key / 4) < hostCopyBase) && u.regOf (q.key / 4) == .u
           | _ => false)) = true))
    ∧ (let c := { copyCommand with running := some 0, piece := 1 }; let s := commanded c
       s.cmds.find 9 = some c ∧ c.running = some 0 ∧ c.finished = true ∧ c.forks = [] ∧ c.stopped = false ∧ c.port = none
       ∧ c.agent = s.me.id ∧ c.core < 256 ∧ c.ctl.getLsbD 6 = true ∧ (s.clusters.find c.cluster).isSome = true) := by
  decide +kernel

/-- Page tables whose first 64 GiB are host memory that nothing caches. -/
def hosting (s : State) : State :=
  ((words (words (words s 0x4000 [0x8001, 0, 0, 0]) 0x8000 [0xC001, 0, 0, 0]) 0xC000 [0x64F, 0, 0, 0])).setPreg 0 0 0x4000

/-- ErrorSteps: a beat and a weight load of host memory whose completion never comes. -/
theorem witness_ErrorSteps_host :
    (let c := { copyCommand with running := some 0 }; let s : State := { hosting atWarp with cmds := [(9, c)], nextId := 10 }
     s.runningOn 0 = some (9, c) ∧ s.cmds.find 9 = some c ∧ s.beatGoes 0 c = true ∧ c.beat = ([0x10000], 0x20000, 4) ∧ c.port = none ∧ c.grid ≠ 0
     ∧ s.hostWord c { rd := true } 0x10000 = some ((hostBase + 0x10000) / 4))
    ∧ (let c := { loadCommand 5 0 with pieces := [⟨0x10000, 0, 8192⟩] }
       let s : State := { (hosting atWarp).updCore 0 (fun k => { k with loader := [9] }) with cmds := [(9, c)] }
       s.loads 0 = [9] ∧ s.cmds.find 9 = some c ∧ (s.part c.part).holds (.matrix c.core) = false ∧ c.at_ < 8192 ∧ c.port = none
       ∧ c.forks = [] ∧ c.pieces[c.piece]? = some ⟨0x10000, 0, 8192⟩ ∧ c.grid ≠ 0
       ∧ s.hostWord c { rd := true } (0x10000 + BitVec.ofNat 64 c.at_) = some ((hostBase + 0x10000) / 4)) := by
  decide +kernel

/-- A virtual function of context 0. -/
def withVf : State := { atWarp with vfs := [(3, { en := true, first := 0, ctx := 0 })] }

/-- ResetSteps: an engine with a command, ports and slices of a partition, modules, a VF and a partition. -/
theorem witness_ResetSteps :
    atWarp.partOfEngine 0 = some 0 ∧ (commanded { copyCommand with running := some 0 }).cmds.find 9 ≠ none
    ∧ (atWarp.partOf (4 * 0 + 0)).isSome = true
    ∧ ((atWarp.updPart 0 (fun q => { q with fport := 3 })).partOfPort (64 * 0 + 1)).isSome = true
    ∧ (LinkId.host, 0) ∉ atWarp.platform.failedModules ∧ LinkId.host ∉ atWarp.platform.retraining
    ∧ narrowModules .host = 0 ∧ narrowModules (.compute 0) = 2
    ∧ (atWarp.strike 0 (.link .host)).platform.retraining = [LinkId.host] ∧ (atWarp.parts.find 0).isSome = true
    ∧ atThread.me.kind = .conductor 0 ∧ (withVf.vfOn 3).isSome = true
    ∧ ((withVf.part 0).grids.find 1).any (fun g => g.ctx == 0 && g.ending.isNone && g.st != .ended) = true
    ∧ (atWarp.parts.map (·.1)) = [0] := by decide +kernel

/-- Nine warps of a core, eight of them active and the last one pending, the first one spinning or not. -/
def nine (spin : Bool) : State :=
  { atWarp with
    tick := 100, me := { atWarp.me with entered := 1, spinning := spin },
    others := (List.range 8).map (fun i => (i + 1, { atWarp.me with
      kind := .warp 0 (i + 1), entered := i + 2, sched := if i = 7 then .pending else .active, readySince := 20 })) }

/-- SchedulingSteps: a rotation, a demotion of a spinning warp, an overdue warp, and a sample that is due. -/
theorem witness_SchedulingSteps :
    (let s := nine false; (firstBy (·.readySince) (s.coreWarps 0 Agent.readyPending)).map (·.id) = some 8
      ∧ (rotated (s.coreWarps 0 Agent.inActive)).map (·.id) = some 0 ∧ (s.agent 8).any (fun p => decide (p.readySince + s.clkTicks 0 128 ≤ s.tick)) = true
      ∧ 8 ≤ (s.coreWarps 0 Agent.inActive).length)
    ∧ (let s := nine true; firstSpinning (s.coreWarps 0 Agent.inActive) = some s.me ∧ s.agent 0 = some s.me
      ∧ s.coreWarps 0 (fun b => b.readyPending && !b.spinning) ≠ [] ∧ s.me.ctx < 64 ∧ (s.parts.find s.me.part).isSome = true
      ∧ 8 ≤ (s.coreWarps 0 Agent.inActive).length)
    ∧ (let s := ({ atWarp with tick := 1024 } : State).setPreg 0 0x22 1; s.me.isWarp = true ∧ s.overdue s.me = true ∧ (s.parts.find s.me.part).isSome = true)
    ∧ (let s := ({ atWarp with tick := 1 } : State).setPreg 0 0x198 1; s.nextSlot 0 (s.coreOf 0).sampleSlot = some s.me
      ∧ (s.parts.find s.me.part).isSome = true ∧ (s.preg s.me.part 0x198).testBit 0 = true
      ∧ (s.coreOf 0).sampleTick + s.clkTicks 0 (2 ^ bitsN (s.preg s.me.part 0x198) 5 1) ≤ s.tick
      ∧ ¬ ((s.preg 0 sampleRing.head + 2 ^ 32 - s.preg 0 sampleRing.tail) % 2 ^ 32 = 2 ^ bitsN (s.preg 0 sampleRing.base) 3 0)) := by
  decide +kernel

/-- A conductor thread's state in which grid 1 of partition 0 is as given. -/
def gridded (g : Grid) : State := (mapped atThread).updPart 0 (fun q => { q with grids := [(1, g)] })

/-- A gated grid whose chime lies at 0x2000, and one whose cluster is placed and not started. -/
def gated : Grid := { placedGrid with desc := (placedDesc.set 12 0x00080401).set 6 0x2000, placed := 0, st := .waiting }
def starting : State := { gridded placedGrid with clusters := [(1, { placedCluster with started := false })] }

/-- PlacementSteps: a gate that is shut and one that is open; a unit that a core admits and one that none does; a cluster
that starts; a grid whose record is held, one that is done, and one that has ended. -/
theorem witness_PlacementSteps :
    (∀ s ∈ [gridded gated, words (gridded gated) 0x2000 [1]], (s.part 0).grids.find 1 = some gated ∧ Desc.gate gated.d = true
      ∧ Desc.sect gated.d = false ∧ 0 ∉ gated.chimed ∧ 0 < Desc.ncl gated.d ∧ gated.offered = true ∧ gated.fault = none
      ∧ (s.part 0).chimedBefore 1 0 = false
      ∧ walksB s 0 0 [(BitVec.ofNat 64 (Desc.chime gated.d + 4 * 0)).toNat] = true)
    ∧ (let g : Grid := { placedGrid with placed := 0 }
       ((gridded g).part 0).stop = none ∧ ((gridded g).part 0).toOffer = some (1, 0, false) ∧ Desc.sect g.d = false
       ∧ ((gridded g).offer 0 1 0 g).isSome = true
       ∧ (((gridded g).updPart 0 (fun q => { q with deadSlices := [0] })).offer 0 1 0 g).isSome = false)
    ∧ (starting.clusters.find 1).any (fun c => !c.started && decide ((c.slots.take c.warps).Nodup) && decide (c.warps ≤ c.slots.length)) = true
    ∧ (starting.part 0).grids.find 1 = some placedGrid ∧ placedGrid.halted = .none ∧ (starting.part 0).stop = none
    ∧ placedGrid.link = none
    ∧ (starting.clusters.find 1).any (fun c => !starting.gatedBefore 1 c && c.group.isNone
      && (starting.startsWith 1 c).map (·.1) == [1]) = true
    ∧ (let g : Grid := { placedGrid with retired := [0] }; let s := gridded g; g.st ≠ .ended ∧ g.ending = none
       ∧ s.outstanding 0 1 = false ∧ s.gridRuns 0 1 = false ∧ (s.part 0).chargedWith 1 = false ∧ g.fate ≠ .checkpoint
       ∧ g.allRetired = true)
    ∧ ((gridded { placedGrid with st := .ended }).part 0).grids.find 1 = some { placedGrid with st := .ended } := by decide +kernel

/-- PlacementSteps: a grid that has ended, its record free to be written, with a race and without; and one that its warps have
left to be checkpointed. -/
theorem witness_PlacementSteps_completion :
    (∀ n ∈ [0, 1], let g : Grid := { placedGrid with ending := some 0, race := decide (n = 1) }
      let u := (gridded g).flushSections 0
      let v := u.walked 0 0 (pageStarts (Desc.done g.d) 4) id
      g.st ≠ .ended ∧ walksB u 0 0 (pageStarts (Desc.done g.d) 4) = true ∧ v.writable 0 0 (Desc.done g.d) 4 = none
      ∧ v.heldBack 0 0 (Desc.done g.d) 4 = false ∧ (u.part 0).grids.find 1 = some g ∧ (v.part 0).grids.find 1 = some g
      ∧ (v.part 0).knell = none ∧ (v.xlateNow 0 0 (BitVec.ofNat 64 (Desc.done g.d)) { wr := true }).toOption.any (fun q =>
        q.pol != 2 && decide (4 * (q.key / 4) < hostCopyBase)) = true)
    ∧ (let g : Grid := { placedGrid with fate := .checkpoint }; let s := gridded g; g.st ≠ .ended ∧ g.ending = none
       ∧ s.outstanding 0 1 = false ∧ s.gridRuns 0 1 = false ∧ (s.part 0).chargedWith 1 = false ∧ g.hwRoute = false) := by
  decide +kernel

/-- PlacementSteps: the chime's word once its page's walk has run, 0 and 1; and a walk that waits. -/
theorem witness_PlacementSteps_gate :
    (∀ e ∈ [(0, gridded gated), (1, words (gridded gated) 0x2000 [1])],
      let v := e.2.walked 0 0 [(BitVec.ofNat 64 (Desc.chime gated.d + 4 * 0)).toNat] id
      (v.xlateNow 0 0 (BitVec.ofNat 64 (Desc.chime gated.d + 4 * 0)) { rd := true }).toOption.map (·.key) = some 0x2000
      ∧ (v.part 0).grids = (e.2.part 0).grids ∧ (v.part 0).gateReady = (e.2.part 0).gateReady
      ∧ v.lineHeld 0x800 = false ∧ v.regOf 0x800 = .u ∧ v.memWord 0x800 = e.1)
    ∧ (busyWalkers (gridded gated)).walkGoes 0 0 (Desc.chime gated.d / 65536) = false := by decide +kernel

/-- A gated section group of eight clusters, the chimes of some of them satisfied. -/
def gatedGroup (cs : List Nat) : Grid :=
  { gated with desc := ((placedDesc.set 12 0x000C0401).set 6 0x2000).set 10 8, chimed := cs }

/-- A section group of eight clusters to be offered. -/
def section8 : Grid := { placedGrid with placed := 0, desc := (placedDesc.set 12 0x00040401).set 10 8 }

/-- PlacementSteps: a section group whose last chime is read, one with more to come, and one that a slice admits. -/
theorem witness_PlacementSteps_section :
    (∀ g ∈ [gatedGroup [1, 2, 3, 4, 5, 6, 7], gatedGroup [1]], Desc.gate g.d = true ∧ Desc.sect g.d = true ∧ 0 ∉ g.chimed
      ∧ 0 < Desc.ncl g.d ∧ g.offered = true ∧ g.fault = none ∧ ((gridded g).part 0).chimedBefore 1 0 = false
      ∧ walksB (gridded g) 0 0 [(BitVec.ofNat 64 (Desc.chime g.d + 4 * 0)).toNat] = true
      ∧ ((gridded g).xlateNow 0 0 (BitVec.ofNat 64 (Desc.chime g.d + 4 * 0)) { rd := true }).toOption.map (·.key) = some 0x2000)
    ∧ (let s : State := { gridded section8 with clusters := (List.range 8).map (fun i => (i + 1, { placedCluster with
          started := false, core := i, index := i, group := some 0 })) }
       (s.clusters.find 1).any (fun c => !s.gatedBefore 1 c && (s.startsWith 1 c).map (·.1) == (List.range 8).map (· + 1)) = true)
    ∧ ((gridded section8).part 0).stop = none ∧ ((gridded section8).part 0).toOffer = some (1, 0, false)
    ∧ Desc.sect section8.d = true ∧ ((gridded section8).offer 0 1 0 section8).isSome = true := by decide +kernel

/-- A stop in progress. -/
def stopped (r : List EngineId) (c : List (Nat × Nat)) : State :=
  ({ atWarp with me := { atWarp.me with halted := .stop } } : State).updPart 0 (fun q => { q with
    stop := some { num := 1, reason := 0, reached := r, charged := c } })

/-- Two contexts with work, the warp's first, sharing the partition in slices of 1 µs. -/
def sliced (h : HaltMark) (tick : Nat) : State :=
  (({ atWarp with tick := tick, me := { atWarp.me with halted := h }, clusters := [(1, placedCluster), (2, { placedCluster with ctx := 1 })] }
    : State).updPart 0 (fun q => { q with
      contexts := [(0, {}), (1, {})], grids := [(1, placedGrid), (2 ^ 32 + 1, { placedGrid with ctx := 1 })] })).setPreg 0 0x1D 1

/-- StopSteps, the stop: an engine that has not reached its point, and a roll call with and without a charged grid. -/
theorem witness_StopSteps_stop :
    ((stopped [] []).part 0).stop.isSome = true ∧ (stopped [] []).mmaRuns (.warp 0 0) = false ∧ (stopped [] []).mmaRuns (.copy 0) = false
    ∧ (stopped [] []).walkOn (.warp 0 0) = none ∧ (stopped [] []).walkOn (.copy 0) = none
    ∧ ((stopped [] []).part 0).knell = none ∧ ((stopped [] []).part 0).contexts.keysOf (·.haltDue) = [] ∧ EngineId.warp 0 0 ∈ (stopped [] []).enginesOf 0
    ∧ ((stopped [] []).stopView 0 (.warp 0 0)).isSome = true ∧ (.copy 0) ∈ (stopped [] []).enginesOf 0
    ∧ ((stopped [] []).stopView 0 (.copy 0)).isSome = true
    ∧ (∀ c ∈ [[], [(1, 0x12)]], ((stopped ((stopped [] []).enginesOf 0) c).part 0).stop.any
        ((stopped ((stopped [] []).enginesOf 0) c).allReached 0) = true)
    ∧ (stopped [] []).me.part = 0 ∧ (stopped [] []).me.halted = .stop
    ∧ ((stopped [] [(1, 0x12)]).part 0).grids.find 1 = some placedGrid ∧ placedGrid.ending = none ∧ placedGrid.st ≠ .ended
    := by decide +kernel

/-- StopSteps, the rest: PREEMPT of warps of 2 and of 128 registers, a limit that has passed, quiet work, and slices that are
off, running and over. -/
theorem witness_StopSteps_rest :
    (∀ b ∈ [2, 128], let s := { atWarp with me := { atWarp.me with preempt := true, regB := b } }
      s.me.isWarp = true ∧ s.me.preempt = true ∧ s.me.loops = [] ∧ s.me.halted = .none ∧ s.me.parks = []
      ∧ (s.part s.me.part).stop = none ∧ (s.part s.me.part).holds s.me.engine = false
      ∧ s.me.threads.all (fun x => meetAddr s.me.codeBase x.meet != some s.me.handler) = true ∧ 2 ≤ s.me.regB
      ∧ s.me.regB ≤ 128)
    ∧ (let g : Grid := { placedGrid with fate := .checkpoint, ckStart := some 0 }; let s := { gridded g with tick := 10 ^ 9 }
       s.parts.map (·.1) = [0] ∧ (s.part 0).grids.find 1 = some g ∧ g.live = true ∧ 0 + 1000 * (s.preg 0 0x21 % 2 ^ 32) ≤ s.tick)
    ∧ (let s := atWarp.updPart 0 (fun q => { q with contexts := [(0, { quiescing := true })] })
       s.quiet 0 0 = true ∧ (s.context 0 0).quiescing = true ∧ (s.part 0).hwGrids 0 = [])
    ∧ (∀ s ∈ [sliced .slice 1000, sliced .none 999, sliced .none 1000], (s.part 0).stop = none
      ∧ (s.preg 0 0x1D) % 2 ^ 32 = 1 ∧ s.slicing 0 = [0, 1] ∧ s.me.part = 0 ∧ s.me.ctx = 0 ∧ (s.part 0).sliceCtx = 0)
    ∧ ((sliced .slice 5).setPreg 0 0x1D 0).preg 0 0x1D % 2 ^ 32 = 0 ∧ (sliced .slice 5).me.halted = .slice
    ∧ ((sliced .none 1000).part 0).grids.anyV (fun g => g.ctx == 0 && g.live && g.halted == .none) = true := by decide +kernel

/-- A discardable grid under a knell: its clusters retired so far, its fate, the knell's mark, and the deadline. -/
def decided (r : List Nat) (f : Fate) (d : Bool) (deadline : DWord) (tick : Nat) : State :=
  ({ (gridded { discardable with retired := r, retireTicks := r, fate := f }) with tick := tick } : State).updPart 0 (fun q => { q with
    knell := some { num := 1, t0 := 0, grids := [1], begun := true, decided := d } }) |>.setPreg 0 0x1E deadline

/-- KnellSteps: a grid that fits, one to checkpoint and one to discard, before the decision and after it; each side of the
deadline; and PCKNELL of no partition, under an earlier knell, and of one with a grid. -/
theorem witness_KnellSteps :
    (∀ s ∈ [decided [0] .undecided false 1000000 0, decided [] .undecided false 1000000 0, decided [] .undecided false 1000 0,
        decided [0] .run true 1000000 10000, decided [] .run true 1000000 10000, decided [] .run true 1000 9999],
      s.parts.map (·.1) = [0] ∧ (s.part 0).grids.map (·.1) = [1] ∧ ((s.part 0).grids.find 1).any (fun g => g.live && Desc.disc g.d) = true
      ∧ (s.part 0).knell.any (·.begun) = true ∧ (s.part 0).stop = none)
    ∧ (∀ t ∈ [0, 10000], let s := decided [0] .run true 1000000 t; ((s.part 0).grids.find 1).any (fun g => g.fits s.tick ((s.preg 0 0x1E : Int) - s.tick - 150000)) = true)
    ∧ (∀ t ∈ [0, 10000], let s := decided [] .run true 1000000 t; ((s.part 0).grids.find 1).any (fun g =>
        !g.fits s.tick ((s.preg 0 0x1E : Int) - s.tick - 150000)
        && ckFits (2 ^ (s.part 0).logn) (0 + s.saveBytes 0 1 g) ((s.preg 0 0x1E : Int) - s.tick - 150000)) = true)
    ∧ (∀ t ∈ [0, 10000], let s := decided [] .run true 11000 t; ((s.part 0).grids.find 1).any (fun g =>
        !g.fits s.tick ((s.preg 0 0x1E : Int) - s.tick - 150000)
        && !ckFits (2 ^ (s.part 0).logn) (0 + s.saveBytes 0 1 g) ((s.preg 0 0x1E : Int) - s.tick - 150000)) = true)
    ∧ (decided [] .run true 1000 999).tick < (decided [] .run true 1000 999).preg 0 0x1E
    ∧ (decided [] .run true 1000 1000).preg 0 0x1E ≤ (decided [] .run true 1000 1000).tick
    ∧ atWarp.parts.find 1 = none ∧ ((decided [] .run true 7 0).part 0).knell.isSome = true ∧ (decided [] .run true 7 0).preg 0 0x1E = 7
    ∧ (atWarp.part 0).knell = none ∧ (atWarp.part 0).grids.find 1 = some placedGrid ∧ placedGrid.live = true ∧ atWarp.tick < 1 := by
  decide +kernel

/-- A virtual function whose context is as given, with a warp of the context. -/
def vf (c : Option Context) (h : HaltMark) : State :=
  ({ withVf with me := { withVf.me with halted := h } } : State).updPart 0 (fun q => { q with
    contexts := match c with
      | some x => [(0, x)]
      | none => [] })

/-- HostSteps: a word of the window in U and one in P; the commands of a control page on a context that is missing, runs
and is halted; and those of the partition. -/
theorem witness_HostSteps :
    (∀ s ∈ [atWarp, { atWarp with lines := [(64, { words := [(0, { st := .p })] })] }], 0x2000 < 2 ^ 41 ∧ s.windowOf 0x2000 = some 0
      ∧ s.inWindow 0 0x2000 = true ∧ s.inWindow 0 (0x2000 + 3) = true ∧ s.lineHeld (0x2000 / 4) = false)
    ∧ atWarp.regOf 0x800 = .u ∧ ({ atWarp with lines := [(64, { words := [(0, { st := .p })] })] } : State).regOf 0x800 = .p
    ∧ (∀ s ∈ [vf none .none, vf (some {}) .none, vf (some { halted := true }) .halt], (s.vfOn 3).map (fun v => (v.first, v.ctx)) = some (0, 0)
      ∧ s.me.isWarp = true ∧ s.me.part = 0 ∧ s.me.ctx = 0
      ∧ ((s.part 0).grids.find 1).any (fun g => g.ctx == 0 && g.ending.isNone && g.st != .ended) = true)
    ∧ ((vf none .none).part 0).contexts = [] ∧ ((vf (some {}) .none).part 0).contexts = [(0, {})]
    ∧ ((vf (some { halted := true }) .halt).part 0).contexts = [(0, { halted := true })]
    ∧ ((vf (some {}) .none).part 0).stop = none ∧ ((vf (some { halted := true }) .halt).part 0).knell = none
    ∧ (((vf (some {}) .none).updPart 0 (fun q => { q with stop := some { num := 1, reason := 0 } })).part 0).stop ≠ none
    ∧ (vf (some {}) .none).me.halted = .none ∧ (vf (some { halted := true }) .halt).me.halted = .halt := by decide +kernel

/-- An entry of the partition table: slice 1 alone, engine 1, burst 1. -/
def entryBits : BitVec 512 := 1 + 2 ^ 16 + 2 ^ 33 + 2 ^ 80

/-- The same state with an entry enabled for a slice. -/
def entered (first : Nat) : State := { atWarp with ptable := [(5, { first := first, en := true })] }

/-- TableSteps, the tables: an entry that is valid, one that is not, and one turned off; a VF; a register. -/
theorem witness_TableSteps_tables :
    (atWarp.ptable.get {} 5).en = false ∧ entryBits.getLsbD 16 = true ∧ atWarp.entryOk 5 (readEntryBytes entryBits) = true
    ∧ (entryBits - 2 ^ 80).getLsbD 16 = true ∧ atWarp.entryOk 5 (readEntryBytes (entryBits - 2 ^ 80)) = false
    ∧ (∀ f ∈ [0, 3], ((entered f).ptable.get {} 5).en = true ∧ ((entered f).ptable.get {} 5).first = f)
    ∧ (entryBits - 2 ^ 16).getLsbD 16 = false ∧ (entered 0).vacant 0 = false
    ∧ (∀ b ∈ [true, false], let s : State := { entered 3 with parts := [(3, { touched := b })] }
      s.vacant 3 = true ∧ (s.part 3).touched = b)
    ∧ (atWarp.parts.find 0).isSome = true
    ∧ 7 < 8 * 2 ^ (atWarp.part 0).logn ∧ atWarp.agent (8192 + (8 * 0 + 7)) = some (idleConductor 7)
    ∧ (idleConductor 7).kind = .conductor (8 * 0 + 7) := by decide +kernel

/-- A partition's map of way units: the unit given is being drained. -/
def draining (u : List Nat) : State := atWarp.updPart 0 (fun q => { q with draining := u })

/-- TableSteps, threads and maps: a thread that runs and one that does not; a map that clashes, one that keeps the groups,
and one that changes them with nothing resident. -/
theorem witness_TableSteps_threads :
    (∀ n ∈ [0, 7], atWarp.partOf (n / 8) = some 0 ∧ (atWarp.agent (8192 + n)).any (fun a => a.kind == .conductor n && !a.xqctl.getLsbD 9) = true)
    ∧ (atThread.agent 8192).any (fun a => a.kind == .conductor 0 && a.xqctl.getLsbD 9) = true ∧ atThread.partOf 0 = some 0
    ∧ (atWarp.part 0).knell = none ∧ (atWarp.part 0).deadSlices = [] ∧ (atWarp.part 0).deadCores = []
    ∧ (∀ v ∈ [0x11, 0x3F], v < 2 ^ 20 ∧ v % 16 ∉ [7, 11, 13, 14]) ∧ ((atWarp.part 0).reg 0x07).toNat < 2 ^ 20
    ∧ (mapUnits 0x11).any ((draining [0]).part 0).draining.contains = true
    ∧ ((mapUnits 0x11).any ((draining []).unitsElse 0 false).contains || (mapUnits 0x11).any ((draining []).part 0).draining.contains) = false
    ∧ 0x11 % 16 = ((atWarp.part 0).reg 0x07).toNat % 16
    ∧ (atWarp.updPart 0 (fun q => { q with grids := [] })).anyResident 0 = false := by decide +kernel

/-- A bound port 0, its entry at 0x2000: a ring of 16 descriptors at 0x3000, with HEAD and TAIL given. -/
def ported (head tail : Word) : State :=
  ((words (mapped atWarp) 0x2000 [0x3000, 0, 4, 0, head, tail]).updPart 0 (fun q => { q with fport := 1 })).setPreg 0 0x23 0x2000
    |> fun s => { s with ports := [(0, { bound := true })] }

/-- A port's command whose data have been sent. -/
def sentCommand : Command := { copyCommand with port := some 0, piece := 1, sent := true }

/-- Page tables whose first 64 GiB are write-blocked. -/
def blocking : State :=
  ((words (words (words atWarp 0x4000 [0x8001, 0, 0, 0]) 0x8000 [0xC001, 0, 0, 0]) 0xC000 [0x41F, 0, 0, 0])).setPreg 0 0 0x4000

/-- FabricSteps: a first descriptor and one that fills its ring; messages to a port that is not bound and to one that is;
and an acknowledgement. -/
theorem witness_FabricSteps :
    (∀ s ∈ [ported 1 0, ported 1 (1 - 16)], s.partOfPort 0 = some 0 ∧ bitsN (s.preg 0 0x23) 51 6 ≠ 0
      ∧ (s.ports.get {} 0).bound = true ∧ (s.part 0).portBy.find 0 = none
      ∧ (let e := s.portEntry 0 0; (e.getD 4 0).toNat = 1 ∧ (e.getD 2 0).toNat % 256 = 4
        ∧ (1 + 2 ^ 32 - (s.part 0).ported.get 0 0) % 2 ^ 32 = 1 ∧ (1 + 2 ^ 32 - (e.getD 5 0).toNat) % 2 ^ 32 ≤ 2 ^ 4))
    ∧ (atWarp.ports.get {} 0).bound = false
    ∧ (let s := ported 1 0; s.partOfPort 0 = some (s.ports.get {} 0).part ∧ (s.parts.find (s.ports.get {} 0).part).isSome = true
      ∧ (s.ports.get {} 0).faulted = false ∧ (s.ports.get {} 0).held = []
      ∧ (let pt := s.ports.get {} 0
         let m : FabricMsg := .data 0x5000 [7] false 0
         let u0 : State := { s with ports := s.ports.set 0 pt }
         let u := u0.walked 0 0 (msgAddrs pt m) id
         u0.messageWaits pt m = false ∧ walksB u0 0 0 (msgAddrs pt m) = true
         ∧ (u.xlateNow 0 0 0x5000 { wr := true }).toOption.any (fun q => q.pol != 2
           && decide (4 * (q.key / 4) < hostCopyBase) && u.regOf (q.key / 4) == .u) = true ∧ (u.openLines.get [] 0x080).length < 4096))
    ∧ (let sent (s : State) : Option (Nat × Command) := (s.cmds.pick (fun _ c => c.port == some 0 && c.sent && c.ended.isNone)).head?
      sent (commanded sentCommand) = some (9, sentCommand) ∧ sentCommand.statusAt = 0
      ∧ (commanded sentCommand).portEarlier 9 0 = false
      ∧ (let s : State := { commanded sentCommand with cmds := [(8, { sentCommand with sent := false }), (9, sentCommand)] }
        sent s = some (9, sentCommand) ∧ s.portEarlier 9 0 = true)
      ∧ (let c := { sentCommand with desc := List.replicate 12 0 ++ [0x10000, 0, 0, 0] }
        (∀ s ∈ [{ blocking with cmds := [(9, c)] }, commanded c], sent s = some (9, c) ∧ c.statusAt ≠ 0 ∧ s.portEarlier 9 0 = false
          ∧ walksB s 0 0 [c.statusAt] = true)
        ∧ (({ blocking with cmds := [(9, c)] } : State).walked 0 0 [c.statusAt] (fun x => x)).heldBack 0 0 c.statusAt 4 = true
        ∧ ((commanded c).walked 0 0 [c.statusAt] (fun x => x)).heldBack 0 0 c.statusAt 4 = false
        ∧ sent (busyWalkers (commanded c)) = some (9, c) ∧ (busyWalkers (commanded c)).walkGoes 0 0 (c.statusAt / 65536) = false)) := by
  decide +kernel

/-- PlatformSteps: a package with power and one without, a debug stop to come and one whose time has come, and a package that is
READY and one that is not. -/
theorem witness_PlatformSteps :
    State.reset.platform.powered = true ∧ ({ State.reset with platform := { powered := false } } : State).platform.powered = false
    ∧ (let s : State := { State.reset with platform := { debugAt := some 5 } }; s.platform.debugAt = some 5 ∧ s.tick < 5)
    ∧ (let s : State := { atWarp with platform := { debugAt := some 5 }, tick := 5 }; s.platform.debugAt = some 5 ∧ 5 ≤ s.tick
      ∧ s.parts.map (·.1) = [0] ∧ ((s.part 0).grids.find 1).any (fun g => g.ending.isNone && g.st != .ended) = true)
    ∧ ({ State.reset with platform := { ready := false } } : State).platform.ready = false ∧ State.reset.platform.nonce = none
    ∧ (let s : State := { State.reset with platform := { nonce := some 5 } }; s.platform.ready = true ∧ s.platform.nonce = some 5) := by
  decide +kernel

end Sys2Proof.Tests
end

section
/-! The control-register words csrr and csrw (14 R381, R382): the frame of a SYSTEM word, what a retirement leaves of
another agent and of the partition registers, and how each register is read and written. -/

namespace Sys2Proof.Machine

open Sys2Proof.Safety

/-! ### SYSTEM words (14 R381) -/

/-- Below supervisor level a SYSTEM word is PRIVILEGE, whatever its fields (01 R27; 02 R51). -/
theorem State.systemWord_below {s : State} (h : s.me.isWarp = true ∨ s.me.level = .user) (fn : Nat) (w : W3)
    (effect : Nat → List Nat → State) :
    s.systemWord fn w effect = s.faultHere fcPrivilege (s.group.headD 0) := by
  have hp : (s.me.isWarp || s.me.level == .user) = true := by
    rcases h with h | h <;> simp [h]
  rw [State.systemWord, State.privileged, if_pos hp]

/-- A supervisor's clear word has its effect with lane x's operands, once earlier accesses are performed (14 R381). -/
theorem State.systemWord_clear {s : State} {fn : Nat} {w : W3} {x : Nat} {ls : List Nat}
    (effect : Nat → List Nat → State) (hs : Supervises s) (hc : Clear3 s 0x38 fn w)
    (ha : s.active w.g w.gn = x :: ls) : s.systemWord fn w effect = effect x (s.active w.g w.gn) := by
  obtain ⟨hwarp, hlevel, hsettled⟩ := hs
  have hp : ¬ (s.me.isWarp || s.me.level == .user) = true := by simp [hwarp, hlevel]
  rw [State.systemWord, State.privileged, if_neg hp, State.w3_clear _ hc, ha, State.once, hsettled]
  exact if_neg Bool.false_ne_true

/-! ### What a retirement leaves of another thread and of the partition registers (11 R278) -/

/-- The issuing agent after a retirement rests on itself and on its word's address alone. -/
theorem State.retire_me_congr {s u : State} (hme : u.me = s.me) (hpc : u.issuePc = s.issuePc) :
    u.retire.me = s.retire.me := by
  rw [State.retire_eq, State.retire_eq s, State.withRegs_me, State.withRegs_me, hme, hpc]

@[simp] theorem State.retire_id (s : State) : s.retire.me.id = s.me.id := by
  rw [State.retire_eq, State.withRegs_me, Agent.settle_flow]; rfl

@[simp] theorem State.retire_others (s : State) : s.retire.others = s.others := by rw [State.retire_frame]

theorem State.retire_keepsData (s : State) : KeepsData s s.retire := by
  rw [State.retire_frame]; exact ⟨rfl, rfl, fun _ => rfl, rfl⟩

/-- Another agent is the same one after a retirement. -/
theorem State.retire_agent_other (s : State) {id : Nat} (h : s.me.id ≠ id) : s.retire.agent id = s.agent id := by
  simp [State.agent, h]

/-- A partition after a partition is updated. -/
theorem State.updPart_part (s : State) (p q : Nat) (f : Part → Part) :
    (s.updPart p f).part q = if q = p ∧ (s.parts.find p).isSome = true then f (s.part q) else s.part q := by
  cases hp : s.parts.find p with
  | none => simp [State.updPart, hp]
  | some r =>
    simp only [State.updPart, State.part, hp, SMap.get_set, Option.isSome_some, and_true]
    split
    · subst_vars; simp [SMap.get, hp]
    · rfl

/-- An update of an existing partition. -/
theorem State.updPart_part_same {s : State} {p : Nat} (h : (s.parts.find p).isSome = true) (f : Part → Part) :
    (s.updPart p f).part p = f (s.part p) := by
  rw [State.updPart_part, if_pos ⟨rfl, h⟩]

@[simp] theorem State.updPart_me (s : State) (p : Nat) (f : Part → Part) : (s.updPart p f).me = s.me := by
  unfold State.updPart; split <;> rfl

@[simp] theorem State.updPart_issuePc (s : State) (p : Nat) (f : Part → Part) :
    (s.updPart p f).issuePc = s.issuePc := by
  unfold State.updPart; split <;> rfl

/-- An update of a partition leaves registers, memory and agents. -/
theorem State.updPart_keepsData (s : State) (p : Nat) (f : Part → Part) : KeepsData s (s.updPart p f) := by
  unfold State.updPart; split <;> exact ⟨rfl, rfl, fun _ => rfl, rfl⟩

theorem keepsData_trans {s t u : State} (h : KeepsData s t) (g : KeepsData t u) : KeepsData s u := by
  obtain ⟨hrf, hpoison, hmem, hothers⟩ := h
  obtain ⟨grf, gpoison, gmem, gothers⟩ := g
  exact ⟨grf.trans hrf, gpoison.trans hpoison, fun a => (gmem a).trans (hmem a), gothers.trans hothers⟩

/-- Counting an event leaves the partition registers. -/
theorem State.countEvent_partRegs (s : State) (p c i n q : Nat) :
    ((s.countEvent p c i n).part q).regs = (s.part q).regs := by
  unfold State.countEvent State.updContext
  split
  · rfl
  · rw [State.updPart_part]; split <;> rfl

/-- A retirement leaves every partition register. -/
theorem State.retire_partReg (s : State) (p sel : Nat) : (s.retire.part p).reg sel = (s.part p).reg sel := by
  rw [State.retire_eq]
  exact congrArg (fun r => r.get (regReset sel) sel) (State.countEvent_partRegs s _ _ _ _ p)

/-! ### The registers of a partition and of a thread (14 R380, R382) -/

/-- A key that is not written is found as before. -/
theorem SMap.find_put_other {α : Type} [DecidableEq α] (d : α) (m : SMap α) {i j : Nat} (x : α) (h : j ≠ i) :
    SMap.find (SMap.put d m i x) j = SMap.find m j := by
  unfold SMap.put
  split
  · exact SMap.find_erase_other m h
  · exact SMap.find_set_other m x h

@[simp] theorem Part.reg_setReg_same (q : Part) (n : Nat) (v : DWord) : (q.setReg n v).reg n = v :=
  SMap.get_put_same _ q.regs n v

/-- A register that is not written stands. -/
theorem Part.reg_setReg_other (q : Part) {m n : Nat} (v : DWord) (h : n ≠ m) : (q.setReg m v).reg n = q.reg n := by
  simp only [Part.reg, Part.setReg, SMap.get, SMap.find_put_other _ _ _ h]

/-- The target of csrr and csrw is of a partition that exists (14 R382). -/
theorem State.target_part {s : State} {sel n p t : Nat} (h : s.target sel n = some (p, t)) :
    (s.parts.find p).isSome = true := by
  unfold State.target at h
  dsimp only at h
  split at h
  · cases h
  · rename_i q hq
    have hp : (if s.me.level == .vendor then bitsN n 15 8 else s.me.part) = p := by
      split at h <;> simp only [Option.ite_none_right_eq_some, Option.some.injEq, Prod.mk.injEq] at h <;>
        exact h.2.1
    rw [← hp, hq]; rfl

/-- A partition register reads as it stands, but for XLLCMAP.DRAIN, which shows way units still being drained. -/
theorem State.readCsr_part (s : State) {sel : Nat} (p t : Nat) (h : sel ≤ 0x23) :
    s.readCsr sel p t = if sel = 0x07 then
      (s.part p).reg 0x07 ||| (if (s.part p).draining = [] then 0 else 0x100000) else (s.part p).reg sel := by
  simp [State.readCsr, partSel, h, Part.readReg]

/-- A thread register reads as its agent holds it. -/
theorem State.readCsr_thread (s : State) {sel : Nat} (p t : Nat) (h : ¬ sel ≤ 0x23) :
    s.readCsr sel p t = match s.agent (8192 + t) with
      | none => 0
      | some a => a.threadReg sel := by
  simp only [State.readCsr, partSel, decide_eq_true_eq, if_neg h]
  cases s.agent (8192 + t) <;> rfl

/-- A write of a partition register that has no effect of its own is a write of the register file (14 R382). -/
theorem State.writeReg_plain (s : State) {sel : Nat} (p words : Nat) (v : DWord) (h7 : sel ≠ 0x07) (h8 : sel ≠ 0x08) :
    s.writeReg p sel words v = s.updPart p (fun q => q.setReg sel (written sel (q.reg sel) words v)) := by
  unfold State.writeReg
  split
  · exact absurd rfl h7
  · exact absurd rfl h8
  · rfl

/-- The bits of a 64-bit register that a write of some of its words reaches. -/
def wordsMask (words : Nat) : DWord :=
  BitVec.ofNat 64 ((if bitN words 0 then fieldMask 31 0 else 0) + (if bitN words 1 then fieldMask 63 32 else 0))

/-- A field write: the bits of a mask are the new ones, the rest stand. -/
def mixBits (m old new : DWord) : DWord := (old &&& ~~~m) ||| (new &&& m)

/-- Every bit new: the new value. -/
theorem mixBits_allOnes (old new : DWord) : mixBits (BitVec.allOnes 64) old new = new := by
  rw [mixBits, BitVec.not_allOnes, BitVec.and_zero, BitVec.and_allOnes, BitVec.zero_or]

/-- The bits of XQPC that a csrw of a type reaches (13 R322; 14 R382). -/
theorem xqpc_mask (ty : Ty) (vendor : Bool) : BitVec.ofNat 64 (threadMask 0x41 vendor) &&& wordsMask (csrWords ty) =
    if ty = .n64 then 0x00FFFFFFFFFFFFF8 else 0xFFFFFFF8 := by
  show BitVec.ofNat 64 (fieldMask 55 3) &&& _ = _
  by_cases h : ty = .n64
  · rw [if_pos h, h]; decide
  · rw [if_neg h, csrWords, if_neg (by simp [h])]; decide

/-- A csrw of both words reaches every bit of XQARG (13 R322). -/
theorem xqarg_mask (vendor : Bool) :
    BitVec.ofNat 64 (threadMask 0x42 vendor) &&& wordsMask (csrWords .n64) = BitVec.allOnes 64 := by
  show BitVec.ofNat 64 (fieldMask 63 0) &&& _ = _
  decide

/-- An agent replaced by a changed copy of itself is the agent changed. -/
theorem State.setAgent_changed {s : State} {id : Nat} {a : Agent} (f : Agent → Agent) (h : s.agent id = some a)
    (hid : a.id = id) (hf : (f a).id = a.id) : s.setAgent (f a) = s.updAgent id f := by
  unfold State.setAgent State.updAgent
  rw [hf, hid]
  by_cases hme : s.me.id = id
  · have hma : s.me = a := by simpa [State.agent, hme] using h
    rw [if_pos hme, if_pos hme, hma]
  · rw [if_neg hme, if_neg hme, h]

/-- Another agent changed, the word retired: the issuing agent goes on, and the other one is changed. -/
theorem State.updAgent_retire_other {s : State} {id : Nat} (f : Agent → Agent) (h : s.me.id ≠ id) :
    (s.updAgent id f).retire.me = s.retire.me ∧ (s.updAgent id f).retire.agent id = (s.agent id).map f := by
  cases ha : s.agent id with
  | none =>
    have hu : s.updAgent id f = s := by simp only [State.updAgent, if_neg h, ha]
    rw [hu]
    exact ⟨rfl, (State.retire_agent_other s h).trans ha⟩
  | some a =>
    have hu : s.updAgent id f = { s with others := s.others.set id (f a) } := by
      simp only [State.updAgent, if_neg h, ha]
    rw [hu]
    exact ⟨State.retire_me_congr rfl rfl,
      (State.retire_agent_other { s with others := s.others.set id (f a) } h).trans (by simp [State.agent, h])⟩

/-- An agent with a thread register changed (14 R380). -/
def Agent.updThreadReg (a : Agent) (sel : Nat) (f : DWord → DWord) : Agent :=
  match sel with
  | 0x40 => { a with xqctl := f a.xqctl }
  | 0x41 => { a with xqpc := f a.xqpc }
  | 0x42 => { a with xqarg := f a.xqarg }
  | 0x43 => { a with xtepc := f a.xtepc }
  | 0x44 => { a with xtaddr := f a.xtaddr }
  | _ => { a with xtstat := f a.xtstat }

theorem Agent.updThreadReg_id (a : Agent) (sel : Nat) (f : DWord → DWord) : (a.updThreadReg sel f).id = a.id := by
  unfold Agent.updThreadReg; split <;> rfl

/-- The agent with the fields of a thread register that a write reaches changed (14 R382). -/
def Agent.writtenThreadReg (sel words : Nat) (vendor : Bool) (v : DWord) (a : Agent) : Agent :=
  a.updThreadReg sel (mixBits (BitVec.ofNat 64 (threadMask sel vendor) &&& wordsMask words) · v)

/-- A write of a thread register other than XQCTL changes that register of its thread alone (13 R322). -/
theorem State.writeThreadReg_eq {s : State} {t sel : Nat} (words : Nat) (vendor : Bool) (v : DWord) (hsel : sel ≠ 0x40)
    (hme : s.me.id ≠ 8192 + t) (hid : ∀ a, s.agent (8192 + t) = some a → a.id = 8192 + t) :
    s.writeThreadReg t sel words vendor v =
      s.updAgent (8192 + t) (Agent.writtenThreadReg sel words vendor v) := by
  cases h : s.agent (8192 + t) with
  | none => simp only [State.writeThreadReg, State.updAgent, h, if_neg hme]
  | some a =>
    rw [← State.setAgent_changed _ h (hid a h) (Agent.updThreadReg_id _ _ _)]
    simp only [State.writeThreadReg, h, beq_eq_false_iff_ne.mpr hsel, Bool.false_and, if_neg Bool.false_ne_true]
    rfl

/-! ### csrr and csrw (14 R382) -/

/-- The destination of a well-formed csrr holds its type (02 R40). -/
theorem csrr_destination {w : W3} (h : (Instr.csrr w).wellFormed = true) : Field.tyf.ok w.ty w.d = true := by
  have hw : w3Ok 0x38 0 w = true := by
    simp only [Instr.wellFormed, Bool.and_eq_true] at h
    exact h.2
  simp only [w3Ok, w3Shape, systemShape] at hw
  split at hw
  · rename_i sh hsh
    split at hsh
    · cases hsh
      simp only [W3Shape.ok, Bool.and_eq_true] at hw
      obtain ⟨⟨⟨⟨⟨⟨⟨⟨⟨_, hd⟩, _⟩, _⟩, _⟩, _⟩, _⟩, _⟩, _⟩, _⟩ := hw
      exact hd
    · cases hsh
  · cases hw

/-- A csrr of a supervisor gives the register of its target. -/
theorem exec_csrr_clear {s : State} {w : W3} {x p t : Nat} {ls : List Nat} (hs : Supervises s)
    (hc : Clear3 s 0x38 0 w) (ha : s.active w.g w.gn = x :: ls)
    (ht : s.target w.a.toNat (s.reg x w.b.toNat).toNat = some (p, t)) :
    exec (.csrr w) s = .next (s.finish ((s.active w.g w.gn).map
      (fun l => ⟨resultOf w.ty l w.d.toNat (s.readCsr w.a.toNat p t), 0, 0⟩))) := by
  show execCsrr w s = _
  simp only [execCsrr, State.systemWord_clear _ hs hc ha, State.nat32, ht]

/-- A csrw of a supervisor whose level may write the selector writes the register of its target. -/
theorem exec_csrw_clear {s : State} {w : W3} {x p t : Nat} {ls : List Nat} (hs : Supervises s)
    (hc : Clear3 s 0x38 1 w) (ha : s.active w.g w.gn = x :: ls)
    (ht : s.target w.a.toNat (s.reg x w.c.toNat).toNat = some (p, t))
    (hv : vendorSel w.a.toNat = true → s.me.level = .vendor) :
    exec (.csrw w) s = .next (if partSel w.a.toNat then
        (s.writeReg p w.a.toNat (csrWords w.ty) (s.opB w x)).retire
      else (s.writeThreadReg t w.a.toNat (csrWords w.ty) (s.me.level == .vendor) (s.opB w x)).retire) := by
  have hn : ¬ (vendorSel w.a.toNat && !(s.me.level == .vendor)) = true := by
    simpa using hv
  show execCsrw w s = _
  simp only [execCsrw, if_neg hn, State.systemWord_clear _ hs hc ha, State.nat32, ht]

/-- A csrw of a selector that only the vendor may write is PRIVILEGE below its level (01 R27). -/
theorem exec_csrw_notVendor {s : State} {w : W3} (hv : vendorSel w.a.toNat = true) (hl : s.me.level ≠ .vendor) :
    exec (.csrw w) s = .next (s.faultHere fcPrivilege (s.group.headD 0)) := by
  show execCsrw w s = _
  rw [execCsrw]
  exact congrArg _ (if_pos (by simp [hv, hl]))

/-- csrw below supervisor level is PRIVILEGE for every selector. -/
theorem exec_csrw_below {s : State} (h : s.me.isWarp = true ∨ s.me.level = .user) (w : W3) :
    exec (.csrw w) s = .next (s.faultHere fcPrivilege (s.group.headD 0)) := by
  show execCsrw w s = _
  simp only [execCsrw, State.systemWord_below h, ite_self]

/-- The SYSTEM words with no check of their own before that of the frame. -/
def framedSystemWords : List (W3 → Instr) := [.csrr, .tlbinvRange, .tlbinvCtx, .tlbinvPart, .haltGrid, .haltCtx,
  .resumeGrid, .resumeCtx, .tret, .ctxsv, .ctxrs, .errclr, .errclrCo, .knell]

/-- Each of them is an effect in the frame of 14 R381. -/
theorem exec_framed {con : W3 → Instr} (h : con ∈ framedSystemWords) (w : W3) (s : State) :
    ∃ fn effect, exec (con w) s = .next (s.systemWord fn w effect) := by
  simp only [framedSystemWords, List.mem_cons, List.not_mem_nil, or_false] at h
  rcases h with rfl | rfl | rfl | rfl | rfl | rfl | rfl | rfl | rfl | rfl | rfl | rfl | rfl | rfl <;>
    exact ⟨_, _, rfl⟩

/-- Below supervisor level each of them is PRIVILEGE (01 R27; 02 R51). -/
theorem exec_framed_below {con : W3 → Instr} (hc : con ∈ framedSystemWords) {s : State}
    (h : s.me.isWarp = true ∨ s.me.level = .user) (w : W3) :
    exec (con w) s = .next (s.faultHere fcPrivilege (s.group.headD 0)) := by
  obtain ⟨fn, effect, he⟩ := exec_framed hc w s
  rw [he, State.systemWord_below h]

/-- A member of a list is its second element or one of the others. -/
theorem second_or_mem {α : Type} {x a b : α} {l : List α} (h : x ∈ a :: b :: l) : x = b ∨ x ∈ a :: l := by
  rcases List.mem_cons.mp h with ha | h
  · exact .inr (List.mem_cons.mpr (.inl ha))
  · exact (List.mem_cons.mp h).imp id (List.mem_cons_of_mem a)

/-- csrr gives the register of its target to every active lane. -/
theorem gives_csrr {s : State} {w : W3} {x p t : Nat} {ls : List Nat} (hw : (Instr.csrr w).wellFormed = true)
    (hs : Supervises s) (hc : Clear3 s 0x38 0 w) (ha : s.active w.g w.gn = x :: ls)
    (ht : s.target w.a.toNat (s.reg x w.b.toNat).toNat = some (p, t)) :
    Gives (.csrr w) s (s.active w.g w.gn) w.ty w.d (fun _ => ⟨s.readCsr w.a.toNat p t, 0, 0⟩) 0 :=
  gives_of_finish (draws := false) (resultRegs_lt (csrr_destination hw)) (exec_csrr_clear hs hc ha ht)

/-- csrw of a partition register without an effect of its own: the register's fields change, and data and every other
register of the partition stand. -/
theorem csrw_part {s : State} {w : W3} {x p t : Nat} {ls : List Nat} (hs : Supervises s) (hc : Clear3 s 0x38 1 w)
    (ha : s.active w.g w.gn = x :: ls) (ht : s.target w.a.toNat (s.reg x w.c.toNat).toNat = some (p, t))
    (hsel : w.a.toNat ≤ 0x23) (h7 : w.a.toNat ≠ 0x07) (h8 : w.a.toNat ≠ 0x08)
    (hv : vendorSel w.a.toNat = true → s.me.level = .vendor) :
    ∃ u, exec (.csrw w) s = .next u ∧ KeepsData s u ∧ u.me.threads = s.retire.me.threads
      ∧ (u.part p).reg w.a.toNat = written w.a.toNat ((s.part p).reg w.a.toNat) (csrWords w.ty) (s.opB w x)
      ∧ ∀ sel, sel ≠ w.a.toNat → (u.part p).reg sel = (s.part p).reg sel := by
  have he := exec_csrw_clear hs hc ha ht hv
  rw [if_pos (by simpa [partSel] using hsel), State.writeReg_plain s _ _ _ h7 h8] at he
  have hp := State.target_part ht
  refine ⟨_, he, keepsData_trans (State.updPart_keepsData _ _ _) (State.retire_keepsData _), ?_, ?_, fun sel hne => ?_⟩
  · rw [State.retire_me_congr (State.updPart_me _ _ _) (State.updPart_issuePc _ _ _)]
  · rw [State.retire_partReg, State.updPart_part_same hp, Part.reg_setReg_same]
  · rw [State.retire_partReg, State.updPart_part_same hp, Part.reg_setReg_other _ _ hne]

/-- csrw of a register of another thread, XQCTL aside: the fields it reaches change there, and the word retires. -/
theorem csrw_thread {s : State} {w : W3} {x p t : Nat} {ls : List Nat} (hs : Supervises s)
    (hc : Clear3 s 0x38 1 w) (ha : s.active w.g w.gn = x :: ls)
    (ht : s.target w.a.toNat (s.reg x w.c.toNat).toNat = some (p, t)) (hsel : 0x40 < w.a.toNat)
    (hme : s.me.id ≠ 8192 + t) (hid : ∀ a, s.agent (8192 + t) = some a → a.id = 8192 + t) :
    ∃ u, exec (.csrw w) s = .next u ∧ u.me.threads = s.retire.me.threads
      ∧ ∀ a, s.agent (8192 + t) = some a → u.agent (8192 + t) =
        some (a.writtenThreadReg w.a.toNat (csrWords w.ty) (s.me.level == .vendor) (s.opB w x)) := by
  have hv : vendorSel w.a.toNat = true → s.me.level = .vendor := fun h => by
    simp only [vendorSel, Bool.or_eq_true, beq_iff_eq] at h; omega
  have he := exec_csrw_clear hs hc ha ht hv
  rw [if_neg (by simp [partSel]; omega), State.writeThreadReg_eq _ _ _ (by omega) hme hid] at he
  obtain ⟨hm, hg⟩ := State.updAgent_retire_other
    (Agent.writtenThreadReg w.a.toNat (csrWords w.ty) (s.me.level == .vendor) (s.opB w x)) hme
  exact ⟨_, he, by rw [hm], fun a h => by rw [hg, h]; rfl⟩

/-- Settles O41: each word is its effect in the frame of 14 R381, which refuses it below supervisor level; csrr finishes
with the target's register, and csrw changes the partition or the agent that its target names, and retires. -/
theorem controlRegisterWords : Obligations.ControlRegisterWords := by
  unfold Obligations.ControlRegisterWords
  refine ⟨fun w s x p th ls hw hs hc ha ht => ?_, fun w s x p th ls _ hs hc ha ht => ?_,
    fun w s hv hl => exec_csrw_notVendor hv hl, fun w s con hcon h => ?_⟩
  · have hg := gives_csrr hw hs hc ha ht
    by_cases hsel : w.a.toNat ≤ 0x23
    · rw [State.readCsr_part s p th hsel] at hg
      simp only [if_pos hsel]
      exact hg
    · rw [State.readCsr_thread s p th hsel] at hg
      simp only [if_neg hsel, if_neg (show ¬ w.a.toNat = 0x07 by omega)]
      exact hg
  · have hwords : csrWords w.ty = if w.ty = .n64 then 3 else 1 := by simp [csrWords]
    dsimp only
    rw [← hwords]
    refine ⟨fun hsel h7 h8 hv => ?_, fun h41 hme hid => ?_, fun h42 hme hty hid => ?_⟩
    · exact csrw_part hs hc ha ht hsel (fun h => h7 (BitVec.eq_of_toNat_eq h)) (fun h => h8 (BitVec.eq_of_toNat_eq h)) hv
    · have hsel : w.a.toNat = 0x41 := by rw [h41]; rfl
      obtain ⟨u, he, hthreads, hagent⟩ := csrw_thread hs hc ha ht (by omega) hme hid
      refine ⟨u, he, hthreads, fun a h => ?_⟩
      rw [hagent a h, hsel, Agent.writtenThreadReg, xqpc_mask]
      rfl
    · have hsel : w.a.toNat = 0x42 := by rw [h42]; rfl
      obtain ⟨u, he, hthreads, hagent⟩ := csrw_thread hs hc ha ht (by omega) hme hid
      refine ⟨u, he, hthreads, fun a h => ?_⟩
      rw [hagent a h, hsel, hty, Agent.writtenThreadReg, xqarg_mask]
      exact congrArg some (mixBits_allOnes a.xqarg _)
  · obtain hw | hw := second_or_mem hcon
    · rw [hw]
      exact exec_csrw_below h w
    · exact exec_framed_below hw h w

end Sys2Proof.Machine
end

section
/-! The decoder and the encoder (02 R30 to R37, R46 to R52): the tables of 02 R49 undo each other, and so do the writers and
readers of each format. Settles O2 and O1. -/

namespace Sys2Proof.Laws.Encoding

/-! ### The tables of 02 R49 -/

/-- Every instruction stands in the decoder's tables as its fields say (02 R49). -/
theorem statement_all : (i : Instr) → Statement i
  | .iadd x => iadd x | .isub x => isub x | .imul x => imul x | .imulh x => imulh x | .imad x => imad x
  | .idiv x => idiv x | .irem x => irem x | .imin x => imin x | .imax x => imax x | .iabs x => iabs x
  | .ineg x => ineg x | .iaddc x => iaddc x | .isubb x => isubb x | .sel x => sel x | .lea x => lea x
  | .icmp x => icmp x | .iaddi x => iaddi x | .imuli x => imuli x | .andi x => andi x | .ori x => ori x
  | .xori x => xori x | .shli x => shli x | .shri x => shri x | .sari x => sari x | .movi x => movi x
  | .movhi x => movhi x | .icmpi x => icmpi x | .and x => and x | .or x => or x | .xor x => xor x | .andn x => andn x
  | .not x => not x | .shl x => shl x | .shr x => shr x | .sar x => sar x | .rol x => rol x | .bfx x => bfx x
  | .bfi x => bfi x | .popc x => popc x | .clz x => clz x | .ctz x => ctz x | .brev x => brev x | .mov x => mov x
  | .fadd x => fadd x | .fsub x => fsub x | .fmul x => fmul x | .ffma x => ffma x | .fmin x => fmin x
  | .fmax x => fmax x | .fabs x => fabs x | .fneg x => fneg x | .fcmp x => fcmp x | .fclass x => fclass x
  | .frnd x => frnd x | .fscal x => fscal x | .fcopys x => fcopys x | .fcvtFloat x => fcvtFloat x
  | .fcvtFromBinary8 x => fcvtFromBinary8 x | .fcvtToBinary8 x => fcvtToBinary8 x | .icvt x => icvt x
  | .fpack x => fpack x | .funpack x => funpack x | .frcp x => frcp x | .frsq x => frsq x | .fsqrt x => fsqrt x
  | .fex2 x => fex2 x | .flg2 x => flg2 x | .fsin x => fsin x | .fcos x => fcos x | .ftanh x => ftanh x
  | .pairedWord x => pairedWord x | .shfl x => shfl x | .vote x => vote x | .bcast x => bcast x | .redux x => redux x
  | .scan x => scan x | .matchLanes x => matchLanes x | .lmask x => lmask x | .split x => split x | .fuse x => fuse x
  | .fuseq x => fuseq x | .rng x => rng x | .rngseed x => rngseed x | .rngskip x => rngskip x | .smov x => smov x
  | .smovw x => smovw x | .xacq x => xacq x | .xrel x => xrel x | .push x => push x | .pop x => pop x
  | .qpoll x => qpoll x | .qlen x => qlen x | .bra x => bra x | .call x => call x | .loop x => loop x
  | .jmpr x => jmpr x | .callr x => callr x | .ret x => ret x | .brk x => brk x | .meet x => meet x | .nop x => nop x
  | .exit x => exit x | .tail x => tail x | .trap x => trap x | .yield x => yield x | .spin x => spin x
  | .ld x => ld x | .ldacq x => ldacq x | .lddec x => lddec x | .ldnt x => ldnt x | .pref x => pref x | .st x => st x
  | .strel x => strel x | .stnt x => stnt x | .aadd x => aadd x | .amin x => amin x | .amax x => amax x
  | .aand x => aand x | .aor x => aor x | .axor x => axor x | .axch x => axch x | .acas x => acas x
  | .ainc x => ainc x | .adec x => adec x | .aaddf x => aaddf x | .radd x => radd x | .rmin x => rmin x
  | .rmax x => rmax x | .rand x => rand x | .ror x => ror x | .rxor x => rxor x | .raddf x => raddf x
  | .fence x => fence x | .acq x => acq x | .rel x => rel x | .regionInvalidate x => regionInvalidate x
  | .regionRewrite x => regionRewrite x | .waitm x => waitm x | .cpy x => cpy x | .gath x => gath x
  | .scat x => scat x | .coll x => coll x | .tagwa x => tagwa x | .tagwy x => tagwy x | .tagff x => tagff x
  | .tagclr x => tagclr x | .gongi x => gongi x | .gonga x => gonga x | .gongw x => gongw x | .gongt x => gongt x
  | .chset x => chset x | .chwait x => chwait x | .chclr x => chclr x | .mma x => mma x | .mzero x => mzero x
  | .mres x => mres x | .mcmp x => mcmp x | .msta x => msta x | .msave x => msave x | .mrest x => mrest x
  | .mldb x => mldb x | .manch x => manch x | .mbank x => mbank x | .launch x => launch x | .ldisp x => ldisp x
  | .lstat x => lstat x | .csrr x => csrr x | .csrw x => csrw x | .tlbinvRange x => tlbinvRange x
  | .tlbinvCtx x => tlbinvCtx x | .tlbinvPart x => tlbinvPart x | .tlbinvAll x => tlbinvAll x
  | .haltGrid x => haltGrid x | .haltCtx x => haltCtx x | .resumeGrid x => resumeGrid x | .resumeCtx x => resumeCtx x
  | .tret x => tret x | .ctxsv x => ctxsv x | .ctxrs x => ctxrs x | .errclr x => errclr x | .errclrCo x => errclrCo x
  | .knell x => knell x | .loadDataReturn x => loadDataReturn x | .storeDrain x => storeDrain x
  | .pageWalk x => pageWalk x | .writeBlockRetry x => writeBlockRetry x
  | .registrationRequest x => registrationRequest x | .bankRead x => bankRead x | .bankAccess x => bankAccess x
  | .forwardReply x => forwardReply x | .releasePush x => releasePush x | .pushAcknowledge x => pushAcknowledge x
  | .sectionCacheWriteBack x y => sectionCacheWriteBack x y | .llcFill x y => llcFill x y
  | .wayUnitDrain x y => wayUnitDrain x y | .correctableError x y => correctableError x y
  | .uncorrectableError x y => uncorrectableError x y | .watchFire x => watchFire x | .waitmPoll x => waitmPoll x
  | .waitmLimitExpiry x => waitmLimitExpiry x | .commandDispatch x => commandDispatch x | .copyBeat x => copyBeat x
  | .commandCompletion x => commandCompletion x | .weightLoadComplete x => weightLoadComplete x
  | .callReplyFetch x => callReplyFetch x | .mmaRowsReady x => mmaRowsReady x | .fuseWaitExpiry x => fuseWaitExpiry x
  | .warpRotation x => warpRotation x | .spinDemotion x => spinDemotion x | .watchdog x => watchdog x
  | .stallSample x => stallSample x | .gatedChimeWait x y z => gatedChimeWait x y z
  | .clusterAdmission x => clusterAdmission x | .clusterStart x => clusterStart x
  | .gridCompletion x y => gridCompletion x y | .engineStopPoint x y => engineStopPoint x y
  | .rollCallComplete x => rollCallComplete x | .preemptDelivery x => preemptDelivery x
  | .quiescenceComplete x y => quiescenceComplete x y | .sliceExpiry x => sliceExpiry x
  | .hostCompletionTimeout x => hostCompletionTimeout x | .partitionReset x => partitionReset x
  | .engineReset x => engineReset x | .linkReset x => linkReset x | .linkRetrain x y z => linkRetrain x y z
  | .barRead x y z u => barRead x y z u | .barWrite x y z u v => barWrite x y z u v
  | .contextHaltCmd x => contextHaltCmd x | .contextResumeCmd x => contextResumeCmd x
  | .contextAbortCmd x => contextAbortCmd x | .partitionHaltCmd x => partitionHaltCmd x
  | .partitionResumeCmd x => partitionResumeCmd x | .partitionAbortCmd x => partitionAbortCmd x
  | .pcknell x y => pcknell x y | .vfFunctionLevelReset x => vfFunctionLevelReset x
  | .partitionTableWrite x y => partitionTableWrite x y | .vfTableWrite x y => vfTableWrite x y
  | .threadStart x => threadStart x | .llcmapWrite x y => llcmapWrite x y
  | .registerWrite x y z => registerWrite x y z | .portSend x y => portSend x y
  | .fabricInbound x y => fabricInbound x y | .portRemoteAck x y => portRemoteAck x y
  | .tlbinvCompletion x => tlbinvCompletion x | .accessCounterIncrement => accessCounterIncrement
  | .preemptLimitExpiry => preemptLimitExpiry | .knellDecision => knellDecision | .knellRecompute => knellRecompute
  | .knellDeadline => knellDeadline | .powerGood => powerGood | .debugStop => debugStop
  | .attestationReport => attestationReport | .pfFunctionLevelReset => pfFunctionLevelReset
  | .illegalInstruction => illegalInstruction | .standby => standby | .packageReset => packageReset
  | .clockAndVoltageChange => clockAndVoltageChange

/-- An instruction that the decoder's table gives for fields has those fields, in its own form (02 R49). -/
theorem fields_of_ofW3 {major fn : Nat} {x : W3} {i : Instr} (h : ofW3 major fn x = some i) :
    i.fields = .w3 major fn x ∧ i.formOk = true := by
  unfold ofW3 at h
  repeat' split at h
  all_goals cases h
  all_goals simp_all [Instr.fields, Instr.formOk]

theorem fields_of_ofWI {major fn : Nat} {x : WI} {i : Instr} (h : ofWI major fn x = some i) :
    i.fields = .wi major fn x ∧ i.formOk = true := by
  unfold ofWI at h
  repeat' split at h
  all_goals cases h
  all_goals exact ⟨rfl, rfl⟩

theorem fields_of_ofWM {major fn : Nat} {x : WM} {i : Instr} (h : ofWM major fn x = some i) :
    i.fields = .wm major fn x ∧ i.formOk = true := by
  unfold ofWM at h
  repeat' split at h
  all_goals cases h
  all_goals exact ⟨rfl, rfl⟩

theorem fields_of_ofWB {major fn : Nat} {x : WB} {i : Instr} (h : ofWB major fn x = some i) :
    i.fields = .wb major fn x ∧ i.formOk = true := by
  unfold ofWB at h
  repeat' split at h
  all_goals cases h
  all_goals exact ⟨rfl, rfl⟩

end Sys2Proof.Laws.Encoding

namespace Sys2Proof
open BitVec

/-! ### Codes of fields (01 R23; 02 R37, R40, R44, R46) -/

@[simp] theorem Ty.ofCode_code (t : Ty) : Ty.ofCode t.code = some t := by cases t <;> rfl
@[simp] theorem Scope.ofCode_code (s : Scope) : Scope.ofCode s.code = some s := by cases s <;> rfl
@[simp] theorem Space.ofCode_code (s : Space) : Space.ofCode s.code = s := by cases s <;> rfl

theorem Ty.code_of_ofCode : ∀ {c : BitVec 4} {t : Ty}, Ty.ofCode c = some t → t.code = c := by decide
theorem Scope.code_of_ofCode : ∀ {c : BitVec 3} {s : Scope}, Scope.ofCode c = some s → s.code = c := by decide
theorem Space.code_ofCode : ∀ c : BitVec 2, (Space.ofCode c).code = c := by decide
theorem slotTyCode_of_slotTy : ∀ {c : BitVec 3} {t : Ty}, slotTy c = some t → slotTyCode t = c := by decide
theorem slotOps_code (o : SlotOp) : slotOps[o.code.toNat]? = some o := by cases o <;> rfl
theorem SlotOp.code_of_slotOps : ∀ {c : BitVec 7} {o : SlotOp}, slotOps[c.toNat]? = some o → o.code = c := by decide

/-! ### Bits as fields of one bit -/

theorem bit1_getLsbD {n : Nat} (w : BitVec n) (i : Nat) : bit1 (w.getLsbD i) = w.extractLsb' i 1 := by
  ext j hj
  simp [bit1, show j = 0 by omega]

theorem getLsbD_eq_beq {n : Nat} (w : BitVec n) (i : Nat) : w.getLsbD i = (w.extractLsb' i 1 == 1#1) := by
  rw [← bit1_getLsbD]; cases w.getLsbD i <;> rfl

theorem bit1_beq_one (b : Bool) : (bit1 b == 1#1) = b := by cases b <;> rfl

/-! ### Reading a written word (02 R32 to R37) -/

theorem readW3_writeW3 (major fn : Nat) (x : W3) : readW3 (writeW3 major fn x) = some x := by
  simp (disch := omega) only [readW3, writeW3, getLsbD_eq_beq, extractLsb'_append_eq_of_add_le,
    extractLsb'_append_eq_of_le, Nat.reduceSub, extractLsb'_eq_self, Ty.ofCode_code, bit1_beq_one]

theorem readWI_writeWI (major fn : Nat) (x : WI) : readWI (writeWI major fn x) = some x := by
  simp (disch := omega) only [readWI, writeWI, extractLsb'_append_eq_of_add_le, extractLsb'_append_eq_of_le,
    Nat.reduceSub, extractLsb'_eq_self, Ty.ofCode_code]

theorem readWM_writeWM (major fn : Nat) (x : WM) : readWM (writeWM major fn x) = some x := by
  simp (disch := omega) only [readWM, writeWM, getLsbD_eq_beq, extractLsb'_append_eq_of_add_le,
    extractLsb'_append_eq_of_le, Nat.reduceSub, extractLsb'_eq_self, Scope.ofCode_code, Space.ofCode_code, bit1_beq_one]

theorem readWB_writeWB (major fn : Nat) (x : WB) : readWB (writeWB major fn x) = some x := by
  simp (disch := omega) only [readWB, writeWB, getLsbD_eq_beq, extractLsb'_append_eq_of_add_le,
    extractLsb'_append_eq_of_le, Nat.reduceSub, extractLsb'_eq_self, bit1_beq_one, BitVec.ofNat_eq_ofNat,
    BEq.rfl, if_true]

/-- An admitted slot has a type that the slot type code holds (02 R37, R46). -/
theorem Slot.ty_of_ok {x : Slot} (h : x.ok = true) : slotTy (slotTyCode x.ty) = some x.ty := by
  simp only [Slot.ok, Bool.and_eq_true] at h
  obtain ⟨⟨⟨hty, -⟩, -⟩, -⟩ := h
  split at hty
  · simp only [Bool.or_eq_true, Bool.and_eq_true, beq_iff_eq] at hty
    rcases hty with e | ⟨e, -⟩ <;> rw [e] <;> rfl
  · simp only [Bool.or_eq_true, beq_iff_eq] at hty
    rcases hty with (e | e) | e <;> rw [e] <;> rfl

theorem readSlot_writeSlot {x : Slot} (h : x.ok = true) : readSlot (writeSlot x) = some x := by
  simp (disch := omega) only [readSlot, writeSlot, extractLsb'_append_eq_of_add_le, extractLsb'_append_eq_of_le,
    Nat.reduceSub, extractLsb'_eq_self, slotOps_code, Slot.ty_of_ok h]

/-! ### Decoding a written word (02 R50, R52) -/

/-- The bits of a format's fn field (02 R32 to R35). -/
def Fmt.fnBits : Fmt → Nat
  | .w3 => 7 | .wi => 5 | .wm => 4 | .wb => 4

/-- The functions of a major have numbers that its format's fn field holds (02 R49). -/
theorem majorFns_le (f : Fmt) : ∀ m < 64, majorFmt m = some f → majorFns m ≤ 2 ^ f.fnBits := by
  cases f <;> decide

/-- A number that a field holds reads back from it. -/
theorem toNat_field {k : Nat} (n : Nat) (h : k < 2 ^ n) : (BitVec.ofNat n k).toNat = k := by
  rw [toNat_ofNat, Nat.mod_eq_of_lt h]

/-- A word whose major and fn are assigned is read by its format (02 R50). -/
theorem decode_eq_decodeFull {w : DWord} (h63 : w.getLsbD 63 = false) (hu : unassigned w = false) :
    decode w = decodeFull w := by
  unfold decode
  rw [h63, hu]
  rfl

theorem writeW3_heads {major fn : Nat} (hm : major < 64) (hf : fn < 2 ^ 7) (x : W3) :
    (writeW3 major fn x).getLsbD 63 = false ∧ ((writeW3 major fn x).extractLsb' 57 6).toNat = major
    ∧ ((writeW3 major fn x).extractLsb' 9 7).toNat = fn := by
  simp (disch := omega) only [writeW3, getLsbD_eq_beq, extractLsb'_append_eq_of_add_le, extractLsb'_append_eq_of_le,
    Nat.reduceSub, extractLsb'_eq_self, toNat_field 6 hm, toNat_field 7 hf]
  exact ⟨rfl, trivial, trivial⟩

theorem decode_writeW3 {major fn : Nat} {x : W3} {i : Instr} (hm : majorFmt major = some .w3) (h6 : major < 64)
    (hf : fn < majorFns major) (hok : w3Ok major fn x = true) (hi : ofW3 major fn x = some i) :
    decode (writeW3 major fn x) = .ok i := by
  obtain ⟨h63, hmajor, hfn⟩ := writeW3_heads h6 (Nat.lt_of_lt_of_le hf (majorFns_le .w3 major h6 hm)) x
  have hu : unassigned (writeW3 major fn x) = false := by simp [unassigned, hmajor, hm, hfn, hf]
  rw [decode_eq_decodeFull h63 hu]
  simp only [decodeFull, hmajor, hm, readW3_writeW3, hfn, hok, hi, allowed]

theorem writeWI_heads {major fn : Nat} (hm : major < 64) (hf : fn < 2 ^ 5) (x : WI) :
    (writeWI major fn x).getLsbD 63 = false ∧ ((writeWI major fn x).extractLsb' 57 6).toNat = major
    ∧ ((writeWI major fn x).extractLsb' 36 5).toNat = fn := by
  simp (disch := omega) only [writeWI, getLsbD_eq_beq, extractLsb'_append_eq_of_add_le, extractLsb'_append_eq_of_le,
    Nat.reduceSub, extractLsb'_eq_self, toNat_field 6 hm, toNat_field 5 hf]
  exact ⟨rfl, trivial, trivial⟩

theorem decode_writeWI {major fn : Nat} {x : WI} {i : Instr} (hm : majorFmt major = some .wi) (h6 : major < 64)
    (hf : fn < majorFns major) (hok : wiOk major fn x = true) (hi : ofWI major fn x = some i) :
    decode (writeWI major fn x) = .ok i := by
  obtain ⟨h63, hmajor, hfn⟩ := writeWI_heads h6 (Nat.lt_of_lt_of_le hf (majorFns_le .wi major h6 hm)) x
  have hu : unassigned (writeWI major fn x) = false := by simp [unassigned, hmajor, hm, hfn, hf]
  rw [decode_eq_decodeFull h63 hu]
  simp only [decodeFull, hmajor, hm, readWI_writeWI, hfn, hok, hi, allowed]

theorem writeWM_heads {major fn : Nat} (hm : major < 64) (hf : fn < 2 ^ 4) (x : WM) :
    (writeWM major fn x).getLsbD 63 = false ∧ ((writeWM major fn x).extractLsb' 57 6).toNat = major
    ∧ ((writeWM major fn x).extractLsb' 28 4).toNat = fn := by
  simp (disch := omega) only [writeWM, getLsbD_eq_beq, extractLsb'_append_eq_of_add_le, extractLsb'_append_eq_of_le,
    Nat.reduceSub, extractLsb'_eq_self, toNat_field 6 hm, toNat_field 4 hf]
  exact ⟨rfl, trivial, trivial⟩

theorem decode_writeWM {major fn : Nat} {x : WM} {i : Instr} (hm : majorFmt major = some .wm) (h6 : major < 64)
    (hf : fn < majorFns major) (hok : wmOk major fn x = true) (hi : ofWM major fn x = some i) :
    decode (writeWM major fn x) = .ok i := by
  obtain ⟨h63, hmajor, hfn⟩ := writeWM_heads h6 (Nat.lt_of_lt_of_le hf (majorFns_le .wm major h6 hm)) x
  have hu : unassigned (writeWM major fn x) = false := by simp [unassigned, hmajor, hm, hfn, hf]
  rw [decode_eq_decodeFull h63 hu]
  simp only [decodeFull, hmajor, hm, readWM_writeWM, hfn, hok, hi, allowed]

theorem writeWB_heads {major fn : Nat} (hm : major < 64) (hf : fn < 2 ^ 4) (x : WB) :
    (writeWB major fn x).getLsbD 63 = false ∧ ((writeWB major fn x).extractLsb' 57 6).toNat = major
    ∧ ((writeWB major fn x).extractLsb' 42 4).toNat = fn := by
  simp (disch := omega) only [writeWB, getLsbD_eq_beq, extractLsb'_append_eq_of_add_le, extractLsb'_append_eq_of_le,
    Nat.reduceSub, extractLsb'_eq_self, toNat_field 6 hm, toNat_field 4 hf]
  exact ⟨rfl, trivial, trivial⟩

theorem decode_writeWB {major fn : Nat} {x : WB} {i : Instr} (hm : majorFmt major = some .wb) (h6 : major < 64)
    (hf : fn < majorFns major) (hok : wbOk fn x = true) (hi : ofWB major fn x = some i) :
    decode (writeWB major fn x) = .ok i := by
  obtain ⟨h63, hmajor, hfn⟩ := writeWB_heads h6 (Nat.lt_of_lt_of_le hf (majorFns_le .wb major h6 hm)) x
  have hu : unassigned (writeWB major fn x) = false := by simp [unassigned, hmajor, hm, hfn, hf]
  rw [decode_eq_decodeFull h63 hu]
  simp only [decodeFull, hmajor, hm, readWB_writeWB, hfn, hok, hi, allowed]

/-! ### Writing a word that was read -/

theorem zero_eq_extractLsb' {n : Nat} {w : BitVec n} {i : Nat} (h : w.getLsbD i = false) : 0#1 = w.extractLsb' i 1 := by
  rw [← bit1_getLsbD, h]; rfl

theorem writeW3_readW3 {w : DWord} {x : W3} (hw : w.getLsbD 63 = false) (h : readW3 w = some x) :
    writeW3 (w.extractLsb' 57 6).toNat (w.extractLsb' 9 7).toNat x = w := by
  unfold readW3 at h
  split at h
  · next t ht =>
    cases h
    simp only [writeW3, Ty.code_of_ofCode ht, bit1_getLsbD, zero_eq_extractLsb' hw, ofNat_toNat, setWidth_eq]
    simp (disch := rfl) only [extractLsb'_append_extractLsb'_eq_extractLsb']
    exact extractLsb'_eq_self
  · cases h

theorem writeWI_readWI {w : DWord} {x : WI} (hw : w.getLsbD 63 = false) (h : readWI w = some x) :
    writeWI (w.extractLsb' 57 6).toNat (w.extractLsb' 36 5).toNat x = w := by
  unfold readWI at h
  split at h
  · next t ht =>
    cases h
    simp only [writeWI, Ty.code_of_ofCode ht, zero_eq_extractLsb' hw, ofNat_toNat, setWidth_eq]
    simp (disch := rfl) only [extractLsb'_append_extractLsb'_eq_extractLsb']
    exact extractLsb'_eq_self
  · cases h

theorem writeWM_readWM {w : DWord} {x : WM} (hw : w.getLsbD 63 = false) (h : readWM w = some x) :
    writeWM (w.extractLsb' 57 6).toNat (w.extractLsb' 28 4).toNat x = w := by
  unfold readWM at h
  split at h
  · next t ht =>
    cases h
    simp only [writeWM, Scope.code_of_ofCode ht, Space.code_ofCode, bit1_getLsbD, zero_eq_extractLsb' hw,
      ofNat_toNat, setWidth_eq]
    simp (disch := rfl) only [extractLsb'_append_extractLsb'_eq_extractLsb']
    exact extractLsb'_eq_self
  · cases h

theorem writeWB_readWB {w : DWord} {x : WB} (hw : w.getLsbD 63 = false) (h : readWB w = some x) :
    writeWB (w.extractLsb' 57 6).toNat (w.extractLsb' 42 4).toNat x = w := by
  unfold readWB at h
  split at h
  · next h0 =>
    cases h
    simp only [writeWB, ← (eq_of_beq h0 : _ = 0#2), bit1_getLsbD, zero_eq_extractLsb' hw,
      ofNat_toNat, setWidth_eq]
    simp (disch := rfl) only [extractLsb'_append_extractLsb'_eq_extractLsb']
    exact extractLsb'_eq_self
  · cases h

theorem writeSlot_readSlot {y : BitVec 31} {x : Slot} (h : readSlot y = some x) : writeSlot x = y := by
  unfold readSlot at h
  split at h
  · next op t hop ht =>
    cases h
    simp only [writeSlot, SlotOp.code_of_slotOps hop, slotTyCode_of_slotTy ht]
    simp (disch := rfl) only [extractLsb'_append_extractLsb'_eq_extractLsb']
    exact extractLsb'_eq_self
  · cases h

/-! ### The paired word (02 R37, R46 to R48) -/

theorem decode_pair {p : PairWord} (h0 : p.s0.ok = true) (h1 : p.s1.ok = true) (hb : p.banksOk = true) :
    decode (1#1 ++ writeSlot p.s0 ++ writeSlot p.s1 ++ 0#1) = .ok (.pairedWord p) := by
  have hhi : (1#1 ++ writeSlot p.s0 ++ writeSlot p.s1 ++ 0#1).getLsbD 63 = true
      ∧ (1#1 ++ writeSlot p.s0 ++ writeSlot p.s1 ++ 0#1).getLsbD 0 = false
      ∧ (1#1 ++ writeSlot p.s0 ++ writeSlot p.s1 ++ 0#1).extractLsb' 32 31 = writeSlot p.s0
      ∧ (1#1 ++ writeSlot p.s0 ++ writeSlot p.s1 ++ 0#1).extractLsb' 1 31 = writeSlot p.s1 := by
    simp (disch := omega) only [getLsbD_eq_beq, extractLsb'_append_eq_of_add_le, extractLsb'_append_eq_of_le,
      Nat.reduceSub, extractLsb'_eq_self]
    exact ⟨rfl, rfl, trivial, trivial⟩
  obtain ⟨h63, hlow, hs0, hs1⟩ := hhi
  unfold decode
  rw [if_pos h63]
  simp only [decodePair, hlow, hs0, hs1, readSlot_writeSlot h0, readSlot_writeSlot h1, h0, h1]
  simp [hb]

/-- A word that decodes as a paired word is that word's (02 R52). -/
theorem decodePair_ok {w : DWord} {i : Instr} (h63 : w.getLsbD 63 = true) (h : decodePair w = .ok i) :
    i.wellFormed = true ∧ encode i = some w := by
  unfold decodePair at h
  split at h
  · cases h
  · next hlow =>
    split at h
    · next s0 s1 hs0 hs1 =>
      split at h
      · next hok =>
        split at h
        · next hb =>
          cases h
          rw [Bool.and_eq_true] at hok
          refine ⟨by simp [Instr.wellFormed, Instr.formOk, Instr.fields, hok, hb], ?_⟩
          have h1 : (1#1) = w.extractLsb' 63 1 := by rw [← bit1_getLsbD, h63]; rfl
          simp only [encode, Instr.fields, writeSlot_readSlot hs0, writeSlot_readSlot hs1, h1,
            zero_eq_extractLsb' (Bool.eq_false_iff.mpr hlow)]
          simp (disch := rfl) only [extractLsb'_append_extractLsb'_eq_extractLsb']
          exact congrArg some extractLsb'_eq_self
        · cases h
      · cases h
    · cases h

/-! ### Every word and every instruction -/

theorem allowed_ok {ok : Bool} {o : Option Instr} {i : Instr} (h : allowed ok o = .ok i) : ok = true ∧ o = some i := by
  unfold allowed at h
  split at h <;> cases h
  exact ⟨rfl, rfl⟩

/-- A full word that decodes is its instruction's word (02 R52). -/
theorem decodeFull_ok {w : DWord} {i : Instr} (h63 : w.getLsbD 63 = false) (h : decodeFull w = .ok i) :
    i.wellFormed = true ∧ encode i = some w := by
  unfold decodeFull at h
  dsimp only at h
  split at h
  · split at h
    · next x hx =>
      obtain ⟨hok, hi⟩ := allowed_ok h
      obtain ⟨hf, hform⟩ := Laws.Encoding.fields_of_ofW3 hi
      simp only [Instr.wellFormed, encode, hf, hform, hok, Bool.and_self, writeW3_readW3 h63 hx, true_and]
    · cases h
  · split at h
    · next x hx =>
      obtain ⟨hok, hi⟩ := allowed_ok h
      obtain ⟨hf, hform⟩ := Laws.Encoding.fields_of_ofWI hi
      simp only [Instr.wellFormed, encode, hf, hform, hok, Bool.and_self, writeWI_readWI h63 hx, true_and]
    · cases h
  · split at h
    · next x hx =>
      obtain ⟨hok, hi⟩ := allowed_ok h
      obtain ⟨hf, hform⟩ := Laws.Encoding.fields_of_ofWM hi
      simp only [Instr.wellFormed, encode, hf, hform, hok, Bool.and_self, writeWM_readWM h63 hx, true_and]
    · cases h
  · split at h
    · next x hx =>
      obtain ⟨hok, hi⟩ := allowed_ok h
      obtain ⟨hf, hform⟩ := Laws.Encoding.fields_of_ofWB hi
      simp only [Instr.wellFormed, encode, hf, hform, hok, Bool.and_self, writeWB_readWB h63 hx, true_and]
    · cases h
  · cases h

/-- The word of a well-formed instruction decodes to it (02 R52). -/
theorem decode_of_encode {i : Instr} {w : DWord} (hi : i.wellFormed = true) (hw : encode i = some w) :
    decode w = .ok i := by
  have hs := Laws.Encoding.statement_all i
  unfold Laws.Encoding.Statement at hs
  unfold Instr.wellFormed at hi
  unfold encode at hw
  rw [Bool.and_eq_true] at hi
  obtain ⟨hform, hok⟩ := hi
  cases hf : i.fields with
  | w3 major fn x =>
    rw [hf] at hs hok hw; cases hw
    obtain ⟨hm, h6, hfn, hi⟩ := hs
    exact decode_writeW3 hm h6 hfn hok (hi hform)
  | wi major fn x =>
    rw [hf] at hs hok hw; cases hw
    obtain ⟨hm, h6, hfn, hi⟩ := hs
    exact decode_writeWI hm h6 hfn hok hi
  | wm major fn x =>
    rw [hf] at hs hok hw; cases hw
    obtain ⟨hm, h6, hfn, hi⟩ := hs
    exact decode_writeWM hm h6 hfn hok hi
  | wb major fn x =>
    rw [hf] at hs hok hw; cases hw
    obtain ⟨hm, h6, hfn, hi⟩ := hs
    exact decode_writeWB hm h6 hfn hok hi
  | pair p =>
    rw [hf] at hs hok hw; cases hw
    simp only [Bool.and_eq_true] at hok
    obtain ⟨⟨h0, h1⟩, hb⟩ := hok
    rw [show i = .pairedWord p from hs]
    exact decode_pair h0 h1 hb
  | word =>
    rw [hf] at hs hw; cases hw
    rw [show i = .illegalInstruction from hs]
    rfl
  | step => rw [hf] at hw; cases hw

/-- A word that decodes to an instruction is its word (02 R52). -/
theorem encode_of_decode {w : DWord} {i : Instr} (h : decode w = .ok i) (hi : i ≠ .illegalInstruction) :
    i.wellFormed = true ∧ encode i = some w := by
  unfold decode at h
  split at h
  · next h63 => exact decodePair_ok h63 h
  · next h63 =>
    split at h
    · cases h; exact absurd rfl hi
    · exact decodeFull_ok (Bool.eq_false_iff.mpr h63) h

/-- Settles O2: each format's writer and reader undo each other field by field, and the decoder's tables and
`Instr.fields` undo each other. -/
theorem decodingReadsEveryField : Obligations.DecodingReadsEveryField :=
  ⟨fun _ _ => decode_of_encode, fun _ _ => encode_of_decode⟩

/-- Settles O1: each word is the encoding of its well-formed instruction, and so decodes to it; the last one is a paired
word whose bit 0 is set. -/
theorem decodeWords : Obligations.DecodeWords := by
  unfold Obligations.DecodeWords
  exact ⟨decode_of_encode rfl rfl, decode_of_encode rfl rfl, decode_of_encode rfl rfl, decode_of_encode rfl rfl,
    decode_of_encode rfl rfl, decode_of_encode rfl rfl, decode_of_encode rfl rfl, decode_of_encode rfl rfl,
    decode_of_encode rfl rfl, decode_of_encode rfl rfl, decode_of_encode rfl rfl, decode_of_encode rfl rfl, rfl⟩

end Sys2Proof
end

section
/-! The paired word (02 R46 to R48; 10 R272): what its slots write, and that each writes what the full word of its name
gives. Settles O15. -/

namespace Sys2Proof.Machine

open Sys2Proof.Safety

/-- What a slot's operation gives in a lane from the registers before the word (10 R272). -/
def State.slotResult (s : State) (x : Slot) (l : Nat) : DWord × Nat :=
  slotVal x.op x.ty x.m (s.mode (x.m.setWidth 3) false l 0)
    ((s.reg l x.d.toNat).setWidth 64) ((s.reg l x.b.toNat).setWidth 64)

/-- The register a slot writes: none for nop (02 R46). -/
def slotWrites (x : Slot) : List Nat := if x.op = .nop then [] else [x.d.toNat]

/-- A slot's write of its register, and its status, in a lane; nop has no status (02 R46). -/
theorem State.slotOut_eq (s : State) (x : Slot) (l : Nat) :
    s.slotOut x l = ⟨(slotWrites x).map (fun n => (l, n, lo32 (s.slotResult x l).1)), (s.slotResult x l).2, 0⟩ := by
  unfold State.slotOut State.slotResult slotWrites
  by_cases h : x.op = .nop
  · simp [h, slotVal]
  · simp [h]

/-- What the lanes of a paired word give. -/
def State.pairOuts (s : State) (p : PairWord) (act : List Nat) : List LaneOut :=
  act.flatMap (fun l => [s.slotOut p.s0 l, s.slotOut p.s1 l])

/-- A clear paired word retires with its lanes' results. -/
theorem exec_pairedWord {p : PairWord} {s : State}
    (h : Clear s 0 false (slotNamed p.s0 ++ slotNamed p.s1) (slotSources p.s0 ++ slotSources p.s1)) :
    exec (.pairedWord p) s = .next (s.finish (s.pairOuts p (s.active 0 false))) :=
  congrArg Host.Outcome.next (State.guarded_clear _ h)

/-- The rows that a paired word's writes name are those of its slots' registers. -/
theorem keysOf_pairWrites (s : State) (p : PairWord) (act : List Nat) :
    keysOf s ((s.pairOuts p act).flatMap (·.writes)) = rowsOf s act (slotWrites p.s0 ++ slotWrites p.s1) := by
  simp only [State.pairOuts, State.slotOut_eq, keysOf, rowsOf, List.flatMap_assoc, List.map_flatMap]
  simp [Function.comp_def]

/-- The status of a paired word is that of both slots in every lane (10 R252). -/
theorem orFe_pairOuts (s : State) (p : PairWord) (act : List Nat) :
    orFe (s.pairOuts p act) = act.foldl (fun x l => x ||| (s.slotResult p.s0 l).2 ||| (s.slotResult p.s1 l).2) 0 := by
  simp [orFe, State.pairOuts, State.slotOut_eq, List.foldl_flatMap]

/-- Lanes that set no bit of %iexc set none together. -/
theorem orIe_eq_zero {outs : List LaneOut} (h : ∀ o ∈ outs, o.ie = 0) : orIe outs = 0 := by
  unfold orIe
  induction outs with
  | nil => rfl
  | cons o outs ih =>
    rw [List.foldl_cons, h o List.mem_cons_self]
    exact ih (fun o ho => h o (List.mem_cons_of_mem _ ho))

theorem orIe_pairOuts (s : State) (p : PairWord) (act : List Nat) : orIe (s.pairOuts p act) = 0 := by
  refine orIe_eq_zero fun o ho => ?_
  obtain ⟨l, -, ho⟩ := List.mem_flatMap.mp ho
  rw [State.slotOut_eq, State.slotOut_eq] at ho
  simp only [List.mem_cons, List.not_mem_nil, or_false] at ho
  rcases ho with rfl | rfl <;> rfl

/-- A write of a paired word is a slot's, of its register with its result in a lane. -/
theorem of_mem_pairWrites {s : State} {p : PairWord} {act : List Nat} {w : Nat × Nat × Word}
    (h : w ∈ (s.pairOuts p act).flatMap (·.writes)) :
    (w.2.1 ∈ slotWrites p.s0 ∧ w.2.2 = lo32 (s.slotResult p.s0 w.1).1)
    ∨ (w.2.1 ∈ slotWrites p.s1 ∧ w.2.2 = lo32 (s.slotResult p.s1 w.1).1) := by
  simp only [State.pairOuts, State.slotOut_eq, List.flatMap_assoc, List.mem_flatMap, List.flatMap_cons, List.flatMap_nil,
    List.append_nil, List.mem_append, List.mem_map] at h
  obtain ⟨l, -, ⟨n, hn, rfl⟩ | ⟨n, hn, rfl⟩⟩ := h
  · exact .inl ⟨hn, rfl⟩
  · exact .inr ⟨hn, rfl⟩

theorem mem_slotWrites {x : Slot} {n : Nat} : n ∈ slotWrites x ↔ x.op ≠ .nop ∧ n = x.d.toNat := by
  unfold slotWrites
  split <;> simp_all

/-- The slots of an admitted paired word write registers of different banks (02 R48). -/
theorem slotWrites_disjoint {p : PairWord} (h : p.banksOk = true) {n : Nat} (h0 : n ∈ slotWrites p.s0)
    (h1 : n ∈ slotWrites p.s1) : False := by
  obtain ⟨hop0, hd0⟩ := mem_slotWrites.mp h0
  obtain ⟨hop1, hd1⟩ := mem_slotWrites.mp h1
  have hbanks : p.s0.d.toNat % 4 ≠ p.s1.d.toNat % 4 := by
    simp only [PairWord.banksOk, Bool.or_eq_true, Bool.and_eq_true, beq_iff_eq, bne_iff_ne, hop0, hop1, false_or] at h
    exact h.1
  exact hbanks (by rw [← hd0, ← hd1])

theorem slotWrites_lt {x : Slot} {n : Nat} (h : n ∈ slotWrites x) : n < 256 := by
  obtain ⟨-, rfl⟩ := mem_slotWrites.mp h
  exact x.d.isLt

/-- A register that a slot writes holds the slot's result after the word. -/
theorem State.finish_pair_reg {s : State} {p : PairWord} (hb : p.banksOk = true) {act : List Nat} {x : Slot}
    (hx : x = p.s0 ∨ x = p.s1) {l n : Nat} (hl : l ∈ act) (hn : n ∈ slotWrites x) :
    (s.finish (s.pairOuts p act)).reg l n = lo32 (s.slotResult x l).1 := by
  rw [State.finish_reg]
  apply State.setRegs_value
  · rw [keysOf_pairWrites]
    refine List.mem_flatMap.mpr ⟨l, hl, List.mem_map_of_mem (List.mem_append.mpr ?_)⟩
    rcases hx with rfl | rfl
    · exact .inl hn
    · exact .inr hn
  · rintro ⟨j, m, v⟩ hw hkey
    dsimp only at hkey ⊢
    have hm := of_mem_pairWrites hw
    dsimp only at hm
    have hlt : m < 256 := hm.elim (fun h => slotWrites_lt h.1) (fun h => slotWrites_lt h.1)
    obtain ⟨hpos, rfl⟩ := rowKey_inj hlt (slotWrites_lt hn) hkey
    obtain rfl : j = l := by omega
    rcases hx with rfl | rfl <;> rcases hm with ⟨hm, hv⟩ | ⟨hm, hv⟩
    · exact hv
    · exact (slotWrites_disjoint hb hn hm).elim
    · exact (slotWrites_disjoint hb hm hn).elim
    · exact hv

/-- Settles O15: a paired word finishes with the results that its slots have of the registers before it, and no two
slots of an admitted word write one register. -/
theorem pairedWordReadsBeforeWriting : Obligations.PairedWordReadsBeforeWriting := by
  intro p s hok hclear
  have hb : p.banksOk = true := by
    simp only [Instr.wellFormed, Instr.fields, Bool.and_eq_true] at hok
    obtain ⟨-, -, hb⟩ := hok
    exact hb
  obtain ⟨hfe, hie, hctr⟩ := State.finish_status s (s.pairOuts p (s.active 0 false)) false
  obtain ⟨hrf, hpoison⟩ := State.finish_rf s (s.pairOuts p (s.active 0 false)) false
  refine ⟨_, exec_pairedWord hclear, State.finish_retires _ _ _, ⟨fun k hk => ?_, fun k hk => ?_⟩,
    fun l hl h0 => State.finish_pair_reg hb (.inl rfl) hl (mem_slotWrites.mpr ⟨h0, rfl⟩),
    fun l hl h1 => State.finish_pair_reg hb (.inr rfl) hl (mem_slotWrites.mpr ⟨h1, rfl⟩), ?_, ?_, ?_⟩
  · rw [hrf, hpoison]
    exact State.setRegs_other s _ (by rw [keysOf_pairWrites]; exact hk)
  · rw [hpoison]
    exact State.setRegs_cleared s _ (by rw [keysOf_pairWrites]; exact hk)
  · rw [hfe, orFe_pairOuts]; rfl
  · rw [hie, orIe_pairOuts]; simp
  · rw [hctr]; simp

end Sys2Proof.Machine
end

section
/-! The register cache of a warp (09 R233): what a word's result and its reuse hints enter, and what empties it. Settles
O60. -/

namespace Sys2Proof.Machine

open Sys2Proof.Safety

/-! ### What a word of register results enters (09 R233) -/

/-- A retirement keeps the register cache (09 R233). -/
@[simp] theorem State.retire_cache (s : State) : s.retire.me.cache = s.me.cache := by
  rw [State.retire_eq, State.withRegs_me, Agent.settle_flow]; rfl

/-- The registers of a result enter the cache of an active warp before those it holds. -/
theorem State.cacheRegs_cache {s : State} (hw : s.me.isWarp = true) (hs : s.me.sched = .active) (ns : List Nat) :
    (s.cacheRegs ns).me.cache = (ns ++ s.me.cache.filter (fun n => !ns.contains n)).take 6 := by
  unfold State.cacheRegs
  rw [hw, hs]
  rfl

/-- What a word of register results leaves in the cache of an active warp. -/
theorem State.finish_cache {s : State} (hw : s.me.isWarp = true) (hs : s.me.sched = .active) (outs : List LaneOut)
    {ns : List Nat} (hn : ((outs.flatMap (·.writes)).map (fun w => w.2.1)).eraseDups.take 6 = ns) :
    (s.finish outs).me.cache = (ns ++ s.me.cache.filter (· ∉ ns)).take 6 := by
  have hme : (s.setRegs (outs.flatMap (·.writes))).me = s.me := State.setRegs_me _ _
  subst hn
  unfold State.finish
  rw [State.retire_cache]
  refine (State.cacheRegs_cache (s := (s.setRegs _).merge _ _) ?_ ?_ _).trans ?_
  · exact (congrArg Agent.isWarp hme).trans hw
  · exact (congrArg Agent.sched hme).trans hs
  · simp [State.merge]

/-- The registers that the lanes of a word write are its result's, each once. -/
theorem resultRegs_of_lanes {act : List Nat} (hact : act ≠ []) (t : Ty) (d : Nat) (v : Nat → DWord) :
    ((act.flatMap (fun l => resultOf t l d (v l))).map (fun w => w.2.1)).eraseDups.take 6 = resultRegs t d := by
  have hregs : ∀ l, (resultOf t l d (v l)).map (fun w => w.2.1) = resultRegs t d := fun l => by
    unfold resultOf resultRegs; split <;> rfl
  obtain ⟨l, ls, rfl⟩ := List.exists_cons_of_ne_nil hact
  have hrest : (ls.flatMap (fun _ => resultRegs t d)).removeAll (resultRegs t d) = [] := by
    simp [List.removeAll]
  rw [List.map_flatMap]
  simp only [hregs, List.flatMap_cons, List.eraseDups_append, hrest]
  unfold resultRegs
  split <;> simp [List.eraseDups_cons]

/-- An INT word of a ty-form result enters its registers (09 R233). -/
theorem State.intWord_cache {s : State} {fn : Nat} {w : W3} (f : DWord → DWord → DWord → DWord × Nat)
    (hc : Clear3 s 1 fn w) (hact : s.active w.g w.gn ≠ []) (hw : s.me.isWarp = true) (hs : s.me.sched = .active) :
    (s.intWord fn w f).me.cache =
      (resultRegs w.ty w.d.toNat ++ s.me.cache.filter (· ∉ resultRegs w.ty w.d.toNat)).take 6 := by
  unfold State.intWord
  rw [State.w3_clear _ hc]
  refine State.finish_cache hw hs _ ?_
  rw [List.flatMap_map]
  exact resultRegs_of_lanes hact w.ty w.d.toNat _

/-! ### The bookkeeping of an issued word -/

theorem State.agent_countEvent (s : State) (p c i n id : Nat) : (s.countEvent p c i n).agent id = s.agent id := by
  rw [State.countEvent_eq]; rfl

/-- An agent that is changed and keeps its number is the changed one. -/
theorem State.agent_updAgent_same {s : State} {id : Nat} {a : Agent} {f : Agent → Agent} (h : s.agent id = some a)
    (hid : (f a).id = id) : (s.updAgent id f).agent id = some (f a) := by
  unfold State.updAgent
  split
  · next hme =>
    have ha : s.me = a := by simpa [State.agent, hme] using h
    subst ha
    exact if_pos hid
  · next hme =>
    rw [h]
    simp [State.agent, hme]

/-- Every open group of an active warp is gone: the warp parks (13 R342). -/
def Agent.allParked (a : Agent) : Bool := a.isWarp && a.sched == .active && !a.groupPcs.isEmpty && !a.anyOpen

/-- The counts of an issued word leave every agent (16 R406). -/
theorem agent_ite_countEvent (b c : Bool) (t : State) (p x j k id : Nat) :
    State.agent (if b = true then (if c = true then (t.countEvent p x j 1).countEvent p x k 1 else t.countEvent p x j 1)
      else t) id = t.agent id := by
  cases b <;> cases c <;> simp [State.agent_countEvent]

/-- An issued word parks its warp where no group of it is open, and enters its hinted sources where it has retired
(09 R233; 13 R342). -/
theorem issued_agent {s t : State} {i : Option Instr} {a : Agent} (h : t.agent s.me.id = some a)
    (hid : a.id = s.me.id) :
    ∃ b, (issued s i t).agent s.me.id = some b
      ∧ b.sched = (if a.allParked then .parked else a.sched)
      ∧ b.cache = (if a.allParked then [] else
          if (a.parkAt s.issuePc).isNone && a.isWarp && a.sched == .active then
            withHints s.me.cache a.cache (i.elim [] hinted) else a.cache) := by
  have hretired : (!(t.agent s.me.id).any (fun a => (a.parkAt s.issuePc).isSome)) = (a.parkAt s.issuePc).isNone := by
    rw [h]; simp
  unfold issued
  dsimp only
  rw [hretired]
  refine ⟨_, State.agent_updAgent_same (a := a) ?_ hid, rfl, rfl⟩
  rw [← h]
  split
  · exact agent_ite_countEvent _ _ _ _ _ _ _ _
  · exact agent_ite_countEvent _ _ _ _ _ _ _ _

/-- A word that has retired enters its hinted sources into the cache of its active warp (09 R233). -/
theorem issued_retired {s t : State} {i : Option Instr} {a : Agent} (h : t.agent s.me.id = some a) (hid : a.id = s.me.id)
    (hw : a.isWarp = true) (hs : a.sched = .active) (hopen : a.anyOpen = true) (hpark : a.parkAt s.issuePc = none) :
    ∃ b, (issued s i t).agent s.me.id = some b ∧ b.sched = .active
      ∧ b.cache = withHints s.me.cache a.cache (i.elim [] hinted) := by
  have hnot : ¬ a.allParked = true := by simp [Agent.allParked, hopen]
  obtain ⟨b, hb, hsched, hcache⟩ := issued_agent (i := i) h hid
  rw [if_neg hnot] at hsched hcache
  refine ⟨b, hb, hsched.trans hs, hcache.trans (if_pos ?_)⟩
  simp [hpark, hw, hs]

/-- A warp whose last open group parks leaves the active set with no entry (09 R233; 13 R342). -/
theorem issued_parked {s t : State} {i : Option Instr} {a : Agent} (h : t.agent s.me.id = some a) (hid : a.id = s.me.id)
    (hall : a.allParked = true) :
    ∃ b, (issued s i t).agent s.me.id = some b ∧ b.sched = .parked ∧ b.cache = [] := by
  obtain ⟨b, hb, hsched, hcache⟩ := issued_agent (i := i) h hid
  rw [if_pos hall] at hsched hcache
  exact ⟨b, hb, hsched, hcache⟩

/-! ### Hinted sources (02 R42; 09 R233) -/

theorem withHints_length (old new hints : List Nat) : (withHints old new hints).length ≤ 6 := List.length_take_le _ _

theorem mem_withHints {old new hints : List Nat} {n : Nat} (h : n ∈ withHints old new hints) :
    n ∈ hints ∨ n ∈ new := by
  have h := List.mem_of_mem_take h
  simp only [List.mem_append, List.mem_filter] at h
  rcases h with (h | h) | h
  · exact .inr h.1
  · exact .inl h.1
  · exact .inr h.1

/-- Where a word has written nothing, its hinted sources enter first. -/
theorem withHints_unwritten (old hints : List Nat) :
    withHints old old hints = (hints ++ old.filter (· ∉ hints)).take 6 := by
  have hwrote : old.filter (fun n => !old.contains n) = [] := by simp
  have hhints : hints.filter (fun n => !([] : List Nat).contains n) = hints :=
    List.filter_eq_self.mpr (fun _ _ => rfl)
  have hrest : old.filter (fun n => !([] : List Nat).contains n && !hints.contains n) = old.filter (· ∉ hints) :=
    List.filter_congr fun n _ => by simp
  simp only [withHints, hwrote, hhints, hrest, List.nil_append]

/-- Where a word has written a register that was not held, its hinted sources enter behind it. -/
theorem withHints_written {old : List Nat} {r : Nat} (hr : r ∉ old) (hints : List Nat) :
    withHints old ((r :: old).take 6) hints =
      (r :: hints.filter (· ≠ r) ++ (old.take 5).filter (· ∉ hints)).take 6 := by
  have hwrote : ((r :: old).take 6).filter (fun n => !old.contains n) = [r] := by
    have hold : (old.take 5).filter (fun n => !old.contains n) = [] := by
      simpa using fun n hn => List.mem_of_mem_take hn
    rw [List.take_succ_cons, List.filter_cons_of_pos (by simpa using hr), hold]
  have hrest : ((r :: old).take 6).filter (fun n =>
      !([r] : List Nat).contains n && !(hints.filter (fun n => !([r] : List Nat).contains n)).contains n)
      = (old.take 5).filter (· ∉ hints) := by
    rw [List.take_succ_cons, List.filter_cons_of_neg (by simp)]
    refine List.filter_congr fun n hn => ?_
    have hne : n ≠ r := fun e => hr (e ▸ List.mem_of_mem_take hn)
    simp [hne]
  have hhints : hints.filter (fun n => !([r] : List Nat).contains n) = hints.filter (· ≠ r) :=
    List.filter_congr fun n _ => by simp
  rw [withHints, hwrote, hrest, hhints, List.singleton_append]

/-! ### The lock words (09 R227) -/

theorem State.updAgent_cache (s : State) (id : Nat) {f : Agent → Agent} (hf : ∀ a, (f a).cache = a.cache) :
    (s.updAgent id f).me.cache = s.me.cache := by
  unfold State.updAgent
  split
  · exact hf s.me
  · split <;> rfl

theorem State.handLock_cache (s : State) (core pair : Nat) : (s.handLock core pair).me.cache = s.me.cache := by
  unfold State.handLock
  dsimp only
  split
  · exact State.updAgent_cache _ _ (fun _ => rfl)
  · rfl

theorem State.passLock_cache (s : State) (core pair slot : Nat) :
    (s.passLock core pair slot).me.cache = s.me.cache := by
  unfold State.passLock
  dsimp only
  split
  · exact State.handLock_cache s core pair
  · rfl

theorem State.dropExt_cache (s : State) : s.dropExt.me.cache = s.me.cache.filter (· < 128) := rfl

/-- xacq of a lock that is free and awaited by no warp takes it (09 R227). -/
theorem exec_xacq_free {w : W3} {s : State} (hc : Clear3 s 10 2 w) (hact : s.active w.g w.gn ≠ [])
    (hw : s.me.isWarp = true) (he : s.me.regE ≠ 0) (hl : s.lock s.me.core s.me.pairGroup = ⟨none, []⟩) :
    exec (.xacq w) s = .next
      ({ s with locks := s.locks.put {} (lockKey s.me.core s.me.pairGroup) ⟨some s.me.slot, []⟩ }).dropExt.retire := by
  have hx : exec (.xacq w) s = execXacq w s := rfl
  rw [hx, execXacq, State.w3_clear _ hc]
  obtain ⟨x, xs, hxs⟩ := List.exists_cons_of_ne_nil hact
  rw [hxs]
  simp [State.once, hw, he, hl]

/-- xrel by the holder, whose writes to the extended set have landed, passes the lock on (09 R227). -/
theorem exec_xrel_held {w : W3} {s : State} (hc : Clear3 s 10 3 w) (hact : s.active w.g w.gn ≠ [])
    (hw : s.me.isWarp = true) (hl : (s.lock s.me.core s.me.pairGroup).holder = some s.me.slot) (hp : ∀ p ∈ s.me.pend, extRow p.row = false) :
    exec (.xrel w) s = .next (s.passLock s.me.core s.me.pairGroup s.me.slot).dropExt.retire := by
  have hx : exec (.xrel w) s = execXrel w s := rfl
  have hpend : s.me.pend.any (fun p => extRow p.row) = false := by simpa using hp
  rw [hx, execXrel, State.w3_clear _ hc]
  obtain ⟨x, xs, hxs⟩ := List.exists_cons_of_ne_nil hact
  rw [hxs]
  simp [State.once, hw, State.holdsLock, hl, hpend]

/-- The INT words of a ty-form result enter their results' registers. -/
theorem intWords_cache : ∀ p ∈ ([(.iadd, 0), (.isub, 1), (.imul, 2), (.imad, 4), (.imin, 7), (.imax, 8)] :
      List ((W3 → Instr) × Nat)), ∀ (w : W3) (s : State), Clear3 s 1 p.2 w → s.active w.g w.gn ≠ [] →
    s.me.isWarp = true → s.me.sched = .active →
    ∃ t, exec (p.1 w) s = .next t ∧ t.me.cache =
      (resultRegs w.ty w.d.toNat ++ s.me.cache.filter (· ∉ resultRegs w.ty w.d.toNat)).take 6 := by
  intro p hp w s hc hact hw hs
  simp only [List.mem_cons, List.not_mem_nil, or_false] at hp
  rcases hp with rfl | rfl | rfl | rfl | rfl | rfl <;> exact ⟨_, rfl, State.intWord_cache _ hc hact hw hs⟩

/-- Settles O60: the cache is followed through a word's results, through the bookkeeping of its issue, and through the
lock words. -/
theorem registerCache : Obligations.RegisterCache := by
  refine ⟨⟨fun p hp w s _ => intWords_cache p hp w s, ?hints⟩, ?parks, ?xacq, ?xrel⟩
  case hints =>
    intro s t a i major fn w h hf hh ha hid hw hs hopen hpark _ hs'
    have hhinted : hinted i = hs' := by simp [hinted, hf, hh, hs']
    obtain ⟨b, hb, hsched, hcache⟩ := issued_retired (i := some i) ha hid hw hs hopen hpark
    rw [Option.elim_some, hhinted] at hcache
    refine ⟨b, hb, hsched, ?_, fun n hn => ?_, fun he => ?_, fun r hr he => ?_⟩
    · rw [hcache]; exact withHints_length _ _ _
    · rw [hcache] at hn; exact mem_withHints hn
    · rw [hcache, he]; exact withHints_unwritten _ _
    · rw [hcache, he]; exact withHints_written hr _
  case parks =>
    intro s t a i ha hid hw hs hpcs hopen
    exact issued_parked ha hid (by simp [Agent.allParked, hw, hs, hpcs, hopen])
  case xacq =>
    intro w s _ hc hact hw he hl
    exact ⟨_, exec_xacq_free hc hact hw he hl, (State.retire_cache _).trans (State.dropExt_cache _)⟩
  case xrel =>
    intro w s l _ hc hact hw hl hh hp
    refine ⟨_, exec_xrel_held hc hact hw (hl ▸ hh) hp, ?_⟩
    rw [State.retire_cache, State.dropExt_cache, State.passLock_cache]

end Sys2Proof.Machine
end

section
/-! A step at which a group may issue (02 R30, R31, R52; 09 R231; 11 R276; 13 R324): it runs the fetched word, and a fetch
gives the word of memory or an old one. Settles O3. -/

namespace Sys2Proof.Machine

/-! ### The step that issues -/

/-- A step whose plan names a group that may issue runs the word it fetches, and a tick passes (11 R276; 13 R324). -/
theorem step_issue {s v : State} {id : Nat} {pc : DWord} {rest : List Move} {a : Agent} {w : DWord}
    (hplan : s.plan = .issue id pc :: rest) (hrun : s.platform.running = true) (ha : s.agent id = some a)
    (hmay : ({ s with plan := rest } : State).mayIssue a pc = true)
    (hturn : ({ s with plan := rest } : State).inTurn a = true)
    (hfetch : (({ s with plan := rest } : State).focus id pc).fetch = (v, .word w)) :
    step s = andThen (v.runWord w) (State.after 1) := by
  have hagent : ({ s with plan := rest } : State).agent id = some a := ha
  unfold step State.advance
  rw [hplan]
  dsimp only
  rw [if_pos hrun]
  unfold State.move State.issue
  simp only [hagent, hmay, hturn, Bool.and_self, if_true, State.runMe, hfetch]

/-- A word that decodes and awaits no register is executed (02 R52). -/
theorem State.runWord_exec {v t : State} {w : DWord} {i : Instr} (hd : decode w = .ok i) (hw : v.me.awaits i = none)
    (ht : exec i v = .next t) : v.runWord w = .next (issued v (some i) t) := by
  simp only [State.runWord, hd, hw, ht, andThen]

/-- A word that names a register with a write pending waits for it (09 R231). -/
theorem State.runWord_awaits {v : State} {w : DWord} {i : Instr} {q : Pend} (hd : decode w = .ok i)
    (hw : v.me.awaits i = some q) : v.runWord w = .next (v.parkReg q) := by
  simp only [State.runWord, hd, hw]

/-- A word that does not decode is ILLEGAL_PAIR where a bank rule fails, else ILLEGAL_INSTRUCTION (02 R52). -/
theorem State.runWord_fault {v : State} {w : DWord} {e : DecodeFault} (hd : decode w = .error e) :
    v.runWord w = .next (issued v none (v.takeFault (if e = .banks then 2 else 1) (v.group.headD 0) 0 0)) := by
  simp only [State.runWord, hd, State.faultHere]
  cases e <;> rfl

/-! ### What a fetch leaves and gives (02 R31) -/

theorem State.countDue_eq (s : State) (c : Option CountInc) (l : Nat) :
    s.countDue c l = { s with counts := (s.countDue c l).counts } := by
  cases c <;> rfl

theorem State.fillWay_eq (s : State) (l : Nat) : s.fillWay l = { s with ways := (s.fillWay l).ways } := by
  unfold State.fillWay State.putWay
  split
  · rfl
  · split
    · rfl
    · split <;> rfl

theorem State.countMiss_eq (s : State) (p c l : Nat) :
    s.countMiss p c l = { s with parts := (s.countMiss p c l).parts } := by
  unfold State.countMiss
  split
  · exact State.countEvent_eq _ _ _ _ _
  · rfl

/-- A word outside the copies of host lines fills none (05 R126). -/
theorem State.touchHost_below {s : State} {w : Nat} (h : 4 * w < hostCopyBase) : s.touchHost w = s := by
  unfold State.touchHost
  rw [if_pos (by simp [h])]

/-- A fetch that reaches a place of the device changes counts and the ways of the last-level cache alone. -/
theorem State.reachCode_eq {s : State} {q : Place} (h : 4 * (q.key / 4) < hostCopyBase) :
    s.reachCode q = { s with
      counts := (s.reachCode q).counts, parts := (s.reachCode q).parts, ways := (s.reachCode q).ways } := by
  unfold State.reachCode
  split
  · rfl
  · rw [State.touchHost_below h, State.fillWay_eq, State.countMiss_eq, State.countDue_eq]

/-- A word in U is what memory holds (05 R128). -/
theorem State.current_of_u {s : State} {w : Nat} (h : s.regOf w = .u) : s.current w = s.memWord w := by
  have h : (s.bankWord w).st = .u := h
  simp [State.current, h]

/-- A word whose halves are in U is fetched from memory. -/
theorem State.wordAt_of_u {s : State} {q : Place} (h0 : s.regOf (q.key / 4) = .u) (h1 : s.regOf (q.key / 4 + 1) = .u) :
    s.wordAt q = .word (pair64 (s.memWord (q.key / 4)) (s.memWord (q.key / 4 + 1))) := by
  unfold State.wordAt
  simp [h0, h1, State.current_of_u]

/-- Of an old word and the new one a fetch gives one, and takes a free value at most. -/
theorem State.oldOrNew_cases (s : State) (old : Option DWord) (new : DWord) :
    ((s.oldOrNew old new).1 = s ∨ (s.oldOrNew old new).1 = s.takeFree)
    ∧ ((s.oldOrNew old new).2 = new ∨ old = some (s.oldOrNew old new).2) := by
  unfold State.oldOrNew
  cases old with
  | none => exact ⟨.inl rfl, .inl rfl⟩
  | some w =>
    dsimp only
    split
    · exact ⟨.inl rfl, .inl rfl⟩
    · refine ⟨.inr rfl, ?_⟩
      dsimp only
      split
      · exact .inr rfl
      · exact .inl rfl

/-- A fetch that reaches a word gives it or the old one, and a conductor thread keeps what it was given (02 R31). -/
theorem State.fetch_word {u : State} {q : Place} {new : DWord} (hloc : u.locate .g u.issuePc { ex := true } = .place q)
    (hword : (u.reachCode q).wordAt q = .word new) :
    u.fetch =
      (let r := (u.reachCode q).oldOrNew (u.oldWord q) new
      (if r.1.me.isWarp then r.1
        else r.1.updMe (fun a => { a with fetched := a.fetched.set (u.issuePc.toNat / 8) r.2 }), .word r.2)) := by
  simp only [State.fetch, hloc, hword]

/-- A fetch of a word of device memory in U leaves memory, registers, the other agents and a warp. -/
theorem State.fetch_device {u : State} {q : Place} {new : DWord} (hloc : u.locate .g u.issuePc { ex := true } = .place q)
    (hkey : 4 * (q.key / 4) < hostCopyBase) (h0 : u.regOf (q.key / 4) = .u) (h1 : u.regOf (q.key / 4 + 1) = .u)
    (hnew : new = pair64 (u.memWord (q.key / 4)) (u.memWord (q.key / 4 + 1))) :
    ∃ v x, u.fetch = (v, .word x) ∧ v.mem = u.mem ∧ v.rf = u.rf ∧ v.others = u.others
      ∧ (x = new ∨ u.oldWord q = some x) ∧ (u.me.isWarp = true → v.me = u.me) := by
  have hreach := State.reachCode_eq (s := u) hkey
  have hword : (u.reachCode q).wordAt q = .word new := by
    rw [hreach, hnew]
    exact State.wordAt_of_u h0 h1
  obtain ⟨hstate, hx⟩ := State.oldOrNew_cases (u.reachCode q) (u.oldWord q) new
  have hfetch := State.fetch_word hloc hword
  generalize (u.reachCode q).oldOrNew (u.oldWord q) new = r at hstate hx hfetch
  obtain ⟨hmem, hrf, hothers, hme⟩ : r.1.mem = u.mem ∧ r.1.rf = u.rf ∧ r.1.others = u.others ∧ r.1.me = u.me := by
    rcases hstate with h | h <;> rw [h, hreach] <;> exact ⟨rfl, rfl, rfl, rfl⟩
  refine ⟨_, _, hfetch, ?_⟩
  split
  · exact ⟨hmem, hrf, hothers, hx, fun _ => hme⟩
  · next hwarp => exact ⟨hmem, hrf, hothers, hx, fun h => absurd (hme ▸ h) hwarp⟩

/-- Settles O3: the plan's move issues the fetched word, and a fetch finds the word of memory, or the old one where there
is one. -/
theorem stepRunsTheDecodedWord : Obligations.StepRunsTheDecodedWord := by
  refine ⟨fun s u v t id pc rest a w hplan hrun ha hmay hturn hu hfetch => ?_,
    fun u q new hloc _ hkey h0 h1 hnew => ?_⟩
  · subst hu
    rw [step_issue hplan hrun ha hmay hturn hfetch]
    refine ⟨fun i hd hw ht => ?_, fun i q hd hw => ?_, fun e hd => ?_⟩
    · rw [State.runWord_exec hd hw ht]; rfl
    · rw [State.runWord_awaits hd hw]; rfl
    · rw [State.runWord_fault hd]; rfl
  · obtain ⟨v, x, hfetch, hmem, hrf, hothers, hx, hme⟩ := State.fetch_device hloc hkey h0 h1 hnew
    exact ⟨v, x, hfetch, hmem, hrf, hothers, hx, hme, fun hold => hx.elim id (hold x)⟩

end Sys2Proof.Machine
end

section
/-! W3 words whose lanes each give a result (10 R251, R252): a clear well-formed word that finishes with its lanes' results
gives them, whatever the word. -/

namespace Sys2Proof.Machine

open Sys2Proof.Safety

/-! ### Where a well-formed word may write (02 R38, R40) -/

/-- The registers of an admitted field lie among the agent's 256. -/
theorem fieldReg_lt {f : Field} {t : Ty} {d : BitVec 8} (h : f.ok t d = true) {i : Nat} (hi : i < f.span t) :
    d.toNat + i < 256 := by
  have hd := d.isLt
  have hspan : f.span t ∈ [0, 1, 2, 4, 8, 16] := by
    cases f <;> cases h : t.isPair <;> simp [Field.span, h]
  have hmod : d.toNat % f.span t = 0 := by
    cases f with
    | zero => simp [Field.span] at hi
    | value => simp [Field.span] at hi
    | _ => simpa only [Field.ok, beq_iff_eq] using h
  simp only [List.mem_cons, List.not_mem_nil, or_false] at hspan
  rcases hspan with h | h | h | h | h | h <;> rw [h] at hi hmod <;> omega

/-- A well-formed W3 word has the shape of its function, and its fields are admitted. -/
theorem w3_wellFormed {i : Instr} {major fn : Nat} {w : W3} (hf : i.fields = .w3 major fn w) (h : i.wellFormed = true) :
    ∃ sh, w3Shape major fn w = some sh ∧ sh.ok w = true := by
  simp only [Instr.wellFormed, hf, Bool.and_eq_true, w3Ok] at h
  obtain ⟨-, h⟩ := h
  split at h
  · next sh hsh => exact ⟨sh, hsh, h⟩
  · cases h

/-- The fields of an admitted word: its type is one of the shape's, and its destination is one that the shape names. -/
theorem w3Shape_ok {sh : W3Shape} {w : W3} (h : sh.ok w = true) :
    w.ty ∈ sh.tys ∧ sh.d.ok w.ty w.d = true := by
  simp only [W3Shape.ok, Bool.and_eq_true] at h
  obtain ⟨⟨⟨⟨⟨⟨⟨⟨⟨ht, hd⟩, -⟩, -⟩, -⟩, -⟩, -⟩, -⟩, -⟩, -⟩ := h
  exact ⟨List.contains_iff_mem.mp ht, hd⟩

/-- Every word of a function names a destination that holds a result under the form `rt`. -/
def HoldsResult (major fn : Nat) (rt : W3 → Ty) : Prop :=
  ∀ (w : W3) (sh : W3Shape), w3Shape major fn w = some sh → (if (rt w).isPair then 2 else 1) ≤ sh.d.span w.ty

theorem HoldsResult.regs_lt {i : Instr} {major fn : Nat} {rt : W3 → Ty} {w : W3} (h : HoldsResult major fn rt)
    (hf : i.fields = .w3 major fn w) (hw : i.wellFormed = true) : ∀ m ∈ resultRegs (rt w) w.d.toNat, m < 256 := by
  obtain ⟨sh, hsh, hok⟩ := w3_wellFormed hf hw
  obtain ⟨-, hd⟩ := w3Shape_ok hok
  have hspan := h w sh hsh
  intro m hm
  cases hp : (rt w).isPair <;> simp only [resultRegs, hp, if_true, Bool.false_eq_true, if_false, List.mem_cons,
    List.not_mem_nil, or_false] at hm hspan
  · exact hm ▸ w.d.isLt
  · rcases hm with rfl | rfl
    · exact w.d.isLt
    · exact fieldReg_lt hd (by omega)

/-! ### Words that give a result in each lane -/

/-- What a lane of a word writes and merges for its result under a form. -/
def laneOut (rt : Ty) (l d : Nat) (x : Lane) : LaneOut := ⟨resultOf rt l d x.value, x.fe, x.ie⟩

/-- A word that finishes with the results of its lanes gives them. -/
theorem w3Gives_of_exec {con : W3 → Instr} {major fn : Nat} {rt : W3 → Ty} {lane : State → W3 → List Nat → Nat → Lane}
    {draws : State → W3 → Nat} (takes : State → W3 → Bool) (hf : ∀ w, (con w).fields = .w3 major fn w)
    (hd : HoldsResult major fn rt)
    (he : ∀ w s, exec (con w) s = .next (s.w3 major fn w (fun act =>
      s.finish (act.map (fun l => laneOut (rt w) l w.d.toNat (lane s w act l))) (takes s w))))
    (ht : ∀ s w, draws s w = (takes s w).toNat) : W3Gives con major fn rt lane draws := by
  intro w s hw hc _
  rw [ht]
  refine gives_of_finish (hd.regs_lt (hf w) hw) ?_
  rw [he, State.w3_clear _ hc]
  rfl

/-- The same of a word that takes no draw. -/
theorem w3Gives_of_exec_drawless {con : W3 → Instr} {major fn : Nat} {rt : W3 → Ty}
    {lane : State → W3 → List Nat → Nat → Lane} (hf : ∀ w, (con w).fields = .w3 major fn w) (hd : HoldsResult major fn rt)
    (he : ∀ w s, exec (con w) s = .next (s.w3 major fn w (fun act =>
      s.finish (act.map (fun l => laneOut (rt w) l w.d.toNat (lane s w act l)))))) : W3Gives con major fn rt lane :=
  w3Gives_of_exec (fun _ _ => false) hf hd he (fun _ _ => rfl)

end Sys2Proof.Machine
end

section
/-! FP words (10 R260 to R263): the elements of a lane's operands, the words that round, and those that act on the sign bits
alone. Settles O11. -/

namespace Sys2Proof.Machine

open Sys2Proof.Safety

/-! ### Elements (03 R65) -/

/-- An operation over the elements of three operands gives each element its value and the lane the status of all. -/
theorem outOf_zip3Elems (t : Ty) (l d : Nat) (x y z : DWord) (f : Nat → Nat → Nat → Nat → Nat × Nat) :
    outOf t l d (zip3Elems t x y z f) = laneOut t l d (onElements t f x y z) := by
  cases hp : t.isPacked <;> simp [outOf, laneOut, zip3Elems, onElements, elems, ofElems, hp]

/-- Over one operand it is the same with two that it does not read. -/
theorem mapElems_eq_zip3Elems (t : Ty) (x y z : DWord) (f : Nat → Nat → Nat × Nat) :
    mapElems t x f = zip3Elems t x y z (fun e x _ _ => f e x) := by
  unfold mapElems zip3Elems elems
  split <;> rfl

/-- Over two operands it is the same with a third that it does not read. -/
theorem zipElems_eq_zip3Elems (t : Ty) (x y z : DWord) (f : Nat → Nat → Nat → Nat × Nat) :
    zipElems t x y f = zip3Elems t x y z (fun e x y _ => f e x y) := by
  unfold zipElems zip3Elems elems
  split <;> rfl

/-- Results laid out 16 bits apart in one register (10 R262). -/
theorem outOf_layOut_zip (t : Ty) (l d : Nat) (x y : DWord) (f : Nat → Nat → Nat × Nat) :
    outOf .n32 l d (layOut (((elems t x).zip (elems t y)).map (fun p => f p.1 p.2)))
      = laneOut .n32 l d (onElements t (fun _ x y _ => f x y) x y 0) := by
  unfold outOf laneOut layOut onElements elems
  split <;> simp

theorem map_elems_eq_zip (t : Ty) (x y : DWord) (f : Nat → Nat × Nat) :
    (elems t x).map f = ((elems t x).zip (elems t y)).map (fun p => f p.1) := by
  unfold elems
  split <;> rfl

/-! ### Words that round, and words that do not (10 R261, R262) -/

/-- The draws of a rounding word (03 R71). -/
theorem fpDraws_eq (sr : Bool) (s : State) (w : W3) : fpDraws sr s w = (s.draws w.m sr).toNat := by
  unfold fpDraws State.draws
  split
  · next h => rw [beq_iff_eq.mpr h]; rfl
  · next h => rw [beq_eq_false_iff_ne.mpr h]; rfl

/-- The FP words whose result has the form of their type. -/
def tyFormFns : List Nat := [0, 1, 2, 3, 4, 5, 6, 7, 10, 11, 12]

theorem fp_shape {fn : Nat} (h : fn ∈ tyFormFns) {w : W3} {sh : W3Shape} (hsh : w3Shape 4 fn w = some sh) :
    sh.d = .tyf ∧ sh.tys = tysFloat := by
  have hall : ∀ fn ∈ tyFormFns, ∃ sh, fpShape fn = some sh ∧ sh.d = .tyf ∧ sh.tys = tysFloat := by
    simp [tyFormFns, fpShape]
  obtain ⟨sh', hsh', hd⟩ := hall fn h
  obtain rfl : sh' = sh := Option.some.inj (hsh'.symm.trans hsh)
  exact hd

theorem fp_holdsResult {fn : Nat} (h : fn ∈ tyFormFns) : HoldsResult 4 fn (·.ty) := by
  intro w sh hsh
  rw [(fp_shape h hsh).1]
  exact Nat.le_refl _

/-- Those whose result is one register, whatever their type. -/
theorem fp_holdsWord {fn : Nat} (h : fn = 8 ∨ fn = 9) : HoldsResult 4 fn (fun _ => .n32) := by
  rintro w sh hsh
  rcases h with rfl | rfl <;> obtain rfl := Option.some.inj hsh <;> exact Nat.le_refl _

/-- A word that rounds gives each element's exact result rounded once in the element's mode. -/
theorem w3Gives_fpRound {con : W3 → Instr} {fn : Nat} {f : W3 → Rnd → Nat → Nat → Nat → Nat × Nat} (hfn : fn ∈ tyFormFns)
    (hf : ∀ w, (con w).fields = .w3 4 fn w) (he : ∀ w s, exec (con w) s = .next (s.fpRound fn w (f w))) :
    W3Gives con 4 fn (·.ty) (fun s w _ l => fpLane s w l (f w)) (fun s w => fpDraws (w.ty != .f64) s w) := by
  refine w3Gives_of_exec (fun s w => s.draws w.m (fpSr w.ty)) hf (fp_holdsResult hfn) (fun w s => ?_)
    (fun s w => fpDraws_eq _ s w)
  simp only [he, State.fpRound, outOf_zip3Elems]
  rfl

/-- A word that does not round gives each element's result. -/
theorem w3Gives_fpExact {con : W3 → Instr} {fn : Nat} {f : W3 → Nat → Nat → Nat × Nat} (hfn : fn ∈ tyFormFns)
    (hf : ∀ w, (con w).fields = .w3 4 fn w) (he : ∀ w s, exec (con w) s = .next (s.fpExact fn w (f w))) :
    W3Gives con 4 fn (·.ty) (fun s w _ l => onElements w.ty (fun _ x y _ => f w x y) (s.opA w l) (s.opB w l) 0) := by
  refine w3Gives_of_exec_drawless hf (fp_holdsResult hfn) (fun w s => ?_)
  simp only [he, State.fpExact, zipElems_eq_zip3Elems _ _ _ 0, outOf_zip3Elems]

/-- fscal rounds each element times a power of two that the lane's register b gives (10 R261). -/
theorem w3Gives_fscal : W3Gives .fscal 4 11 (·.ty) (fun s w _ l => fpLane s w l (fun m x _ _ =>
    fpScal (fmtOf w.ty) m x (s.reg l w.b.toNat).toInt)) (fun s w => fpDraws (w.ty != .f64) s w) := by
  refine w3Gives_of_exec (fun s w => s.draws w.m (fpSr w.ty)) (fun _ => rfl) (fp_holdsResult (by decide)) (fun w s => ?_)
    (fun s w => fpDraws_eq _ s w)
  have hlane : ∀ l, outOf w.ty l w.d.toNat (mapElems w.ty (s.opA w l)
      (fun e x => fpScal (fmtOf w.ty) (s.mode w.m (fpSr w.ty) l e) x (s.int32 l w.b.toNat))) =
      laneOut w.ty l w.d.toNat (fpLane s w l (fun m x _ _ => fpScal (fmtOf w.ty) m x (s.reg l w.b.toNat).toInt)) :=
    fun l => by rw [mapElems_eq_zip3Elems _ _ (s.opB w l) (s.opC w l), outOf_zip3Elems]; rfl
  show execFscal w s = _
  simp only [execFscal, hlane]

/-- fcmp gives each element's condition as 0 or 1 (10 R262). -/
theorem w3Gives_fcmp : W3Gives .fcmp 4 8 (fun _ => .n32) (fun s w _ l => onElements w.ty (fun _ x y _ =>
    ((fpCmp (fmtOf w.ty) w.m.toNat x y).1.toNat, (fpCmp (fmtOf w.ty) w.m.toNat x y).2)) (s.opA w l) (s.opB w l) 0) := by
  refine w3Gives_of_exec_drawless (fun _ => rfl) (fp_holdsWord (.inl rfl)) (fun w s => ?_)
  have htoNat : ∀ b : Bool, (if b then 1 else 0) = b.toNat := fun b => by cases b <;> rfl
  show execFcmp w s = _
  simp only [execFcmp, fcmpVal, htoNat]
  simp only [outOf_layOut_zip w.ty _ _ _ _ (fun x y =>
    ((fpCmp (fmtOf w.ty) w.m.toNat x y).1.toNat, (fpCmp (fmtOf w.ty) w.m.toNat x y).2))]

/-- fclass gives each element's class (10 R262). -/
theorem w3Gives_fclass : W3Gives .fclass 4 9 (fun _ => .n32) (fun s w _ l =>
    onElements w.ty (fun _ x _ _ => (fpClass (fmtOf w.ty) x, 0)) (s.opA w l) 0 0) := by
  refine w3Gives_of_exec_drawless (fun _ => rfl) (fp_holdsWord (.inr rfl)) (fun w s => ?_)
  show execFclass w s = _
  simp only [execFclass, map_elems_eq_zip _ _ 0]
  simp only [outOf_layOut_zip w.ty _ _ _ _ (fun x _ => (fpClass (fmtOf w.ty) x, 0))]

/-! ### Words that act on the sign bits alone (10 R263) -/

/-- The bits of a code made of a sign and a magnitude. -/
theorem Fmt.testBit_signed (f : Fmt) (neg : Bool) {mag : Nat} (h : mag < 2 ^ f.signBit) (i : Nat) :
    (f.signed neg mag).testBit i = if i = f.signBit then neg else mag.testBit i := by
  have hhigh : ∀ j, f.signBit ≤ j → mag.testBit j = false := fun j hj =>
    Nat.testBit_lt_two_pow (Nat.lt_of_lt_of_le h (Nat.pow_le_pow_right (by decide) hj))
  unfold Fmt.signed
  cases neg
  · rw [if_neg (by decide)]
    split
    · next hi => exact hhigh i (Nat.le_of_eq hi.symm)
    · rfl
  · have hbit := Nat.testBit_two_pow_mul_add 1 h i
    rw [Nat.mul_one, Nat.add_comm] at hbit
    rw [if_pos rfl, hbit]
    rcases Nat.lt_trichotomy i f.signBit with hi | rfl | hi
    · simp [hi, Nat.ne_of_lt hi]
    · simp
    · rw [if_neg (by omega), if_neg (by omega), hhigh i (Nat.le_of_lt hi)]
      exact Nat.testBit_lt_two_pow (Nat.one_lt_two_pow (by omega))

theorem bitN_eq_testBit (x i : Nat) : bitN x i = x.testBit i := by
  rw [Nat.testBit_eq_decide_div_mod_eq]
  rfl

/-- The element with the magnitude of `x` and the sign that `g` makes of the signs of `x` and `y`. -/
def signedBy (f : Fmt) (g : Bool → Bool → Bool) (x y : Nat) : Nat :=
  f.signed (g (bitN x f.signBit) (bitN y f.signBit)) (x % 2 ^ f.signBit)

theorem testBit_signedBy (f : Fmt) (g : Bool → Bool → Bool) (x y i : Nat) :
    (signedBy f g x y).testBit i =
      (decide (i ≤ f.signBit) && if i == f.signBit then g (x.testBit i) (y.testBit i) else x.testBit i) := by
  simp only [signedBy, f.testBit_signed _ (Nat.mod_lt x (Nat.two_pow_pos _)), bitN_eq_testBit, Nat.testBit_mod_two_pow]
  rcases Nat.lt_trichotomy i f.signBit with hi | rfl | hi
  · simp [hi, Nat.le_of_lt hi, Nat.ne_of_lt hi]
  · simp
  · simp [Nat.not_le_of_lt hi, Nat.not_lt_of_gt hi, Nat.ne_of_gt hi]

/-- The bits that a result of a floating-point type keeps: those of its elements (02 R41). -/
def floatBits (t : Ty) : Nat := if t.isPacked then 32 else (fmtOf t).width

theorem trimTo_getLsbD {t : Ty} (ht : t ∈ tysFloat) (x : DWord) {i : Nat} (hi : i < 64) :
    (trimTo t x).getLsbD i = (decide (i < floatBits t) && x.getLsbD i) := by
  have hmask : ∀ n, (x &&& BitVec.ofNat 64 (2 ^ n - 1)).getLsbD i = (decide (i < n) && x.getLsbD i) := fun n => by
    rw [BitVec.getLsbD_and, BitVec.getLsbD_ofNat, Nat.testBit_two_pow_sub_one, decide_eq_true hi, Bool.true_and,
      Bool.and_comm]
  simp only [tysFloat, List.mem_cons, List.not_mem_nil, or_false] at ht
  rcases ht with rfl | rfl | rfl | rfl | rfl | rfl
  · exact hmask 32
  · exact hmask 16
  · exact hmask 16
  · simp [trimTo, floatBits, fmtOf, fmtF64, Ty.isPacked, Fmt.width, hi]
  · exact hmask 32
  · exact hmask 32

/-- A sign bit stands at the top of each element (03 R65). -/
theorem signBits_getLsbD {t : Ty} (ht : t ∈ tysFloat) {i : Nat} (hi : i < 64) :
    (signBits t).getLsbD i = if t.isPacked then i == 15 || i == 31 else i == (fmtOf t).signBit := by
  have hall : ∀ t ∈ tysFloat, ∀ i : Fin 64,
      (signBits t).getLsbD i = if t.isPacked then i.val == 15 || i.val == 31 else i.val == (fmtOf t).signBit := by
    decide
  exact hall t ht ⟨i, hi⟩

theorem packed_signBit {t : Ty} (h : t.isPacked = true) : (fmtOf t).signBit = 15 := by
  cases t <;> revert h <;> decide

/-- The bits of a packed operand's elements (03 R65). -/
theorem testBit_halves {a : Nat} (ha : a < 65536) (b i : Nat) :
    (a + b * 65536).testBit i = if i < 16 then a.testBit i else b.testBit (i - 16) := by
  rw [Nat.add_comm, Nat.mul_comm]
  exact Nat.testBit_two_pow_mul_add b (i := 16) ha i

theorem testBit_half0 (x : Nat) {i : Nat} (hi : i < 16) : (x % 65536).testBit i = x.testBit i := by
  rw [show 65536 = 2 ^ 16 from rfl, Nat.testBit_mod_two_pow, decide_eq_true hi, Bool.true_and]

theorem testBit_half1 (x : Nat) {i : Nat} (hlo : 16 ≤ i) (hi : i < 32) :
    (x / 65536 % 65536).testBit (i - 16) = x.testBit i := by
  rw [testBit_half0 _ (by omega), show 65536 = 2 ^ 16 from rfl, Nat.testBit_div_two_pow]
  congr 1
  omega

/-- Elements without a status give the lane none. -/
theorem onElements_no_status (t : Ty) (op : Nat → Nat → Nat) (x y z : DWord) :
    (onElements t (fun _ x y _ => (op x y, 0)) x y z).fe = 0 ∧ (onElements t (fun _ x y _ => (op x y, 0)) x y z).ie = 0 := by
  unfold onElements
  split <;> simp

/-- An operation on the signs of an operand's elements is one on its sign bits, and leaves its other bits. -/
theorem onElements_signedBy {t : Ty} (ht : t ∈ tysFloat) (g : Bool → Bool → Bool) (x y z : DWord) {i : Nat} (hi : i < 64) :
    (trimTo t (onElements t (fun _ x y _ => (signedBy (fmtOf t) g x y, 0)) x y z).value).getLsbD i =
      (decide (i < floatBits t) &&
        if (signBits t).getLsbD i then g (x.getLsbD i) (y.getLsbD i) else x.getLsbD i) := by
  rw [trimTo_getLsbD ht _ hi, signBits_getLsbD ht hi, ← x.testBit_toNat, ← y.testBit_toNat]
  by_cases hw : i < floatBits t
  case neg => simp [hw]
  congr 1
  unfold onElements
  unfold floatBits at hw
  cases hp : t.isPacked <;> simp only [hp, Bool.false_eq_true, if_false, if_true, BitVec.getLsbD_ofNat, hi, decide_true,
    Bool.true_and] at hw ⊢
  · have hle : i ≤ (fmtOf t).signBit := Nat.lt_succ_iff.mp hw
    rw [testBit_signedBy, Nat.testBit_mod_two_pow, Nat.testBit_mod_two_pow, decide_eq_true hle, decide_eq_true hw]
    rfl
  · have hsb := packed_signBit hp
    have hlow : signedBy (fmtOf t) g (x.toNat % 65536) (y.toNat % 65536) < 2 ^ 16 :=
      Nat.lt_pow_two_of_testBit _ fun j hj => by rw [testBit_signedBy, hsb, decide_eq_false (by omega), Bool.false_and]
    rw [testBit_halves hlow]
    by_cases hlt : i < 16
    · rw [if_pos hlt, testBit_signedBy, hsb, testBit_half0 _ hlt, testBit_half0 _ hlt, decide_eq_true (by omega), Bool.true_and,
        beq_false_of_ne (show i ≠ 31 by omega), Bool.or_false]
    · have hsign : (i - 16 == 15) = (i == 31) := by rw [Bool.eq_iff_iff, beq_iff_eq, beq_iff_eq]; omega
      rw [if_neg hlt, testBit_signedBy, hsb, testBit_half1 _ (by omega) hw, testBit_half1 _ (by omega) hw, decide_eq_true (by omega),
        Bool.true_and, hsign, beq_false_of_ne (show i ≠ 15 by omega), Bool.false_or]

/-- A word that acts on the signs of its elements gives the operation on its operands' sign bits. -/
theorem w3Gives_signedBy {con : W3 → Instr} {fn : Nat} {g : Bool → Bool → Bool} {v : Ty → DWord → DWord → DWord}
    (hfn : fn ∈ tyFormFns) (hf : ∀ w, (con w).fields = .w3 4 fn w)
    (he : ∀ w s, exec (con w) s = .next (s.fpExact fn w (fun x y => (signedBy (fmtOf w.ty) g x y, 0))))
    (hv : ∀ t x y i, i < 64 →
      (v t x y).getLsbD i = if (signBits t).getLsbD i then g (x.getLsbD i) (y.getLsbD i) else x.getLsbD i) :
    W3Gives con 4 fn (·.ty) (fun s w _ l => ⟨v w.ty (s.opA w l) (s.opB w l), 0, 0⟩) := by
  intro w s hw hc hpre
  have ht : w.ty ∈ tysFloat := by
    obtain ⟨sh, hsh, hok⟩ := w3_wellFormed (hf w) hw
    exact (fp_shape hfn hsh).2 ▸ (w3Shape_ok hok).1
  refine Gives.congr (w3Gives_fpExact hfn hf he w s hw hc hpre) fun l _ =>
    ⟨BitVec.eq_of_getLsbD_eq fun i hi => ?_, onElements_no_status w.ty _ _ _ _⟩
  rw [onElements_signedBy ht g _ _ _ hi, trimTo_getLsbD ht _ hi, hv _ _ _ i hi]

/-- Settles O11: the words that round and those that do not act element by element, and an operation on the signs of the
elements is one on the bits of the operand. -/
theorem fpWords : Obligations.FpWords := by
  refine ⟨⟨?fadd, ?fsub, ?fmul, ?ffma, ?frnd, w3Gives_fscal⟩, ?fmin, ?fmax, ?fabs, ?fneg, ?fcopys, w3Gives_fcmp,
    w3Gives_fclass⟩
  case fadd | fsub | fmul | ffma | frnd => exact w3Gives_fpRound (by decide) (fun _ => rfl) (fun _ _ => rfl)
  case fmin | fmax => exact w3Gives_fpExact (by decide) (fun _ => rfl) (fun _ _ => rfl)
  case fabs =>
    exact w3Gives_signedBy (g := fun _ _ => false) (v := fun t x _ => x &&& ~~~signBits t) (by decide) (fun _ => rfl)
      (fun _ _ => rfl) (fun t x y i hi => by
        rw [BitVec.getLsbD_and, BitVec.getLsbD_not]
        cases (signBits t).getLsbD i <;> simp [hi])
  case fneg =>
    exact w3Gives_signedBy (g := fun x _ => !x) (v := fun t x _ => x ^^^ signBits t) (by decide) (fun _ => rfl)
      (fun _ _ => rfl) (fun t x y i _ => by
        rw [BitVec.getLsbD_xor]
        cases (signBits t).getLsbD i <;> simp)
  case fcopys =>
    exact w3Gives_signedBy (g := fun _ y => y) (v := fun t x y => (x &&& ~~~signBits t) ||| (y &&& signBits t)) (by decide)
      (fun _ => rfl) (fun _ _ => rfl) (fun t x y i hi => by
        rw [BitVec.getLsbD_or, BitVec.getLsbD_and, BitVec.getLsbD_and, BitVec.getLsbD_not]
        cases (signBits t).getLsbD i <;> simp [hi])

end Sys2Proof.Machine
end

section
/-! The block-scale words (10 R267, R268): fpack, and funpack, whose result takes four registers of a lane. Settles O13. -/

namespace Sys2Proof.Machine

open Sys2Proof.Safety

/-! ### Words that write the same registers in each lane -/

/-- What a lane writes and merges that gives the registers `regs` the values `v`. -/
def regsOut (regs : List Nat) (v : Nat → Word) (fe l : Nat) : LaneOut := ⟨regs.map (fun n => (l, n, v n)), fe, 0⟩

/-- What the lanes of a word write and merge that each give the registers `regs` their values. -/
def lanesOut (act regs : List Nat) (v : Nat → Nat → Word) (fe : Nat → Nat) : List LaneOut :=
  act.map (fun l => regsOut regs (v l) (fe l) l)

theorem keysOf_lanesOut (s : State) (act regs : List Nat) (v : Nat → Nat → Word) (fe : Nat → Nat) :
    keysOf s ((lanesOut act regs v fe).flatMap (·.writes)) = rowsOf s act regs := by
  simp [lanesOut, regsOut, keysOf, rowsOf, List.flatMap_map, List.map_flatMap, Function.comp_def]

/-- The word gives each lane its values, and every other row stands. -/
theorem State.finish_lanesOut (s : State) {act regs : List Nat} (v : Nat → Nat → Word) (fe : Nat → Nat)
    (hregs : ∀ n ∈ regs, n < 256) :
    (∀ l ∈ act, ∀ n ∈ regs, (s.finish (lanesOut act regs v fe)).reg l n = v l n)
    ∧ OnlyRows s (s.finish (lanesOut act regs v fe)) (rowsOf s act regs) := by
  obtain ⟨hrf, hpoison⟩ := State.finish_rf s (lanesOut act regs v fe) false
  refine ⟨fun l hl n hn => ?_, fun k hk => ?_, fun k hk => ?_⟩
  · rw [State.finish_reg]
    apply State.setRegs_value
    · rw [keysOf_lanesOut]
      exact List.mem_flatMap.mpr ⟨l, hl, List.mem_map_of_mem hn⟩
    · intro w hw hkey
      simp only [lanesOut, regsOut, List.flatMap_map, List.mem_flatMap, List.mem_map] at hw
      obtain ⟨j, -, m, hm, rfl⟩ := hw
      obtain ⟨hpos, rfl⟩ := rowKey_inj (hregs m hm) (hregs n hn) hkey
      obtain rfl : j = l := Nat.add_left_cancel hpos
      rfl
  · rw [hrf, hpoison]
    exact State.setRegs_other s _ (by rwa [keysOf_lanesOut])
  · rw [hpoison]
    exact State.setRegs_cleared s _ (by rwa [keysOf_lanesOut])

/-- Its status is that of its lanes, and it takes no draw. -/
theorem State.finish_lanesOut_status (s : State) (act regs : List Nat) (v : Nat → Nat → Word) (fe : Nat → Nat) :
    (s.finish (lanesOut act regs v fe)).me.fexc = s.me.fexc ||| BitVec.ofNat 32 (act.foldl (fun x l => x ||| fe l) 0)
    ∧ (s.finish (lanesOut act regs v fe)).me.iexc = s.me.iexc
    ∧ (s.finish (lanesOut act regs v fe)).me.rngCtr = s.me.rngCtr := by
  obtain ⟨hfe, hie, hctr⟩ := State.finish_status s (lanesOut act regs v fe) false
  have hzero : orIe (lanesOut act regs v fe) = 0 := by
    refine orIe_eq_zero fun o ho => ?_
    obtain ⟨l, -, rfl⟩ := List.mem_map.mp ho
    rfl
  refine ⟨?_, ?_, ?_⟩
  · rw [hfe]
    simp [orFe, lanesOut, regsOut, List.foldl_map]
  · rw [hie, hzero]
    simp
  · rw [hctr]
    simp

/-! ### funpack (10 R268) -/

/-- Element `i` of a lane's funpack: its code, read under the lane's scale and rounded once (10 R268). -/
def State.unpacked (s : State) (w : W3) (l i : Nat) : Nat × Nat :=
  roundVal (fmtOf w.ty) (s.mode w.m false l 0)
    (readScaled (w.c.toNat % 64) ((s.reg l w.a.toNat).toNat / 256 ^ i % 256) ((s.reg l (w.a.toNat + 1)).toNat % 256))

/-- The status of a lane's four elements. -/
def State.unpackedStatus (s : State) (w : W3) (l : Nat) : Nat :=
  (s.unpacked w l 0).2 ||| (s.unpacked w l 1).2 ||| (s.unpacked w l 2).2 ||| (s.unpacked w l 3).2

/-- The four registers of a group. -/
def group4 (d : Nat) : List Nat := [d, d + 1, d + 2, d + 3]

/-- A byte of a word of four codes. -/
theorem bitsN_byte (x i : Nat) : bitsN x (8 * i + 7) (8 * i) = x / 256 ^ i % 256 := by
  have hpos : 2 ^ (8 * i) = 256 ^ i := Nat.pow_mul 2 8 i
  have hlen : 2 ^ (8 * i + 7 + 1 - 8 * i) = 256 := congrArg (2 ^ ·) (show 8 * i + 7 + 1 - 8 * i = 8 by omega)
  rw [bitsN, hpos, hlen]

/-- A clear funpack finishes with its lanes' elements in their groups. -/
theorem exec_funpack {w : W3} {s : State} (hc : Clear3 s 5 3 w) :
    exec (.funpack w) s = .next (s.finish (lanesOut (s.active w.g w.gn) (group4 w.d.toNat)
      (fun l n => BitVec.ofNat 32 (s.unpacked w l (n - w.d.toNat)).1) (s.unpackedStatus w))) := by
  show execFunpack w s = _
  rw [execFunpack, State.w3_clear _ hc]
  simp only [bitsN_byte]
  simp [lanesOut, regsOut, group4, State.unpacked, State.unpackedStatus, cFormat, State.nat32, List.range_succ]

theorem funpack_shape {w : W3} {sh : W3Shape} (h : w3Shape 5 3 w = some sh) : sh.d = .g4 := by
  have h' : (if fcodeOk (w.c.toNat % 64) then some _ else none) = some sh := h
  split at h'
  · rw [← Option.some.inj h']
  · cases h'

/-- The destination of a well-formed funpack is a group of four registers. -/
theorem funpack_regs_lt {w : W3} (hw : (Instr.funpack w).wellFormed = true) : ∀ n ∈ group4 w.d.toNat, n < 256 := by
  obtain ⟨sh, hsh, hok⟩ := w3_wellFormed (major := 5) (fn := 3) (w := w) rfl hw
  have hd := (w3Shape_ok hok).2
  rw [funpack_shape hsh] at hd
  simp only [group4, List.mem_cons, List.not_mem_nil, or_false]
  rintro n (rfl | rfl | rfl | rfl)
  · exact w.d.isLt
  all_goals exact fieldReg_lt hd (show _ < 4 by decide)

/-! ### fpack (10 R267) -/

@[simp] theorem lo32_pair64 (lo hi : Word) : lo32 (pair64 lo hi) = lo := by
  apply BitVec.eq_of_getLsbD_eq
  intro i hi'
  simp only [lo32, pair64, BitVec.getLsbD_setWidth, BitVec.getLsbD_append, hi', decide_true, Bool.true_and, if_true]

@[simp] theorem hi32_pair64 (lo hi : Word) : hi32 (pair64 lo hi) = hi := by
  apply BitVec.eq_of_getLsbD_eq
  intro i hi'
  simp only [hi32, pair64, BitVec.getLsbD_setWidth, BitVec.getLsbD_ushiftRight, BitVec.getLsbD_append, hi', decide_true,
    Bool.true_and, if_neg (show ¬ 32 + i < 32 by omega), Nat.add_sub_cancel_left]

/-- The byte of a scale in a register. -/
theorem ofNat_scaleByte (k : Int) : BitVec.ofNat 32 (scaleByte k) = (BitVec.ofInt 8 k).setWidth 32 := by
  apply BitVec.eq_of_toNat_eq
  simp [scaleByte, BitVec.toNat_ofInt]

/-- The scale of a lane's block: the canonical one of the values of the active lanes that share it (10 R267). -/
def State.packScale (s : State) (w : W3) (act : List Nat) (l : Nat) : Int :=
  canonicalScale (w.c.toNat % 64) (s.mode w.m false 0 0)
    ((act.filter (fun j => j / packLanes w = l / packLanes w)).flatMap (s.packValues w))

/-- What fpack gives a lane: its codes, its scale, and the status of its codes (10 R267). -/
def State.packLane (s : State) (w : W3) (act : List Nat) (l : Nat) : Lane :=
  let r := packCodes (w.c.toNat % 64) (s.mode w.m false 0 0) (s.packScale w act l) (s.packValues w l)
  ⟨pair64 (BitVec.ofNat 32 r.1) ((BitVec.ofInt 8 (s.packScale w act l)).setWidth 32), r.2, 0⟩

/-- A clear fpack in a warp that holds its block finishes with its lanes' codes and scales. -/
theorem exec_fpack {w : W3} {s : State} (hc : Clear3 s 5 2 w) (hwidth : packLanes w ≤ s.me.width) :
    exec (.fpack w) s = .next (s.finish ((s.active w.g w.gn).map
      (fun l => laneOut .n64 l w.d.toNat (s.packLane w (s.active w.g w.gn) l)))) := by
  show execFpack w s = _
  rw [execFpack, if_neg (Nat.not_lt_of_le hwidth), State.w3_clear _ hc]
  simp only [laneOut, State.packLane, resultOf, Ty.isPair, if_true, lo32_pair64, hi32_pair64, ← ofNat_scaleByte]
  rfl

/-- An fpack in a warp narrower than its block is WIDTH_MISUSE of its lowest active lane, or of its group's lowest where
none is active; no source is read (10 R267). -/
theorem exec_fpack_narrow {w : W3} {s : State} {h : W3Shape} (hsh : w3Shape 5 2 w = some h)
    (hg : w.g = 0 ∨ s.holds w.g.toNat = true) (hheld : ∀ n ∈ w3Named h w, s.holds n = true)
    (hwidth : s.me.width < packLanes w) :
    exec (.fpack w) s = .next (s.faultHere fcWidthMisuse ((s.active w.g w.gn).headD (s.group.headD 0))) := by
  have hclear : Clear s w.g w.gn (w3Named h w) [] :=
    ⟨hg, hheld, fun _ _ _ hn => (List.not_mem_nil hn).elim, fun _ _ _ hn => (List.not_mem_nil hn).elim⟩
  show execFpack w s = _
  simp only [execFpack, if_pos hwidth, hsh, State.guarded_clear _ hclear]

theorem fpack_holdsResult : HoldsResult 5 2 (fun _ => .n64) := by
  intro w sh h
  have h' : (if fcodeOk (w.c.toNat % 64) then some _ else none) = some sh := h
  split at h'
  · rw [← Option.some.inj h']
    exact Nat.le_refl _
  · cases h'

/-- Settles O13: fpack finishes with its lanes' codes and scales, or faults before it reads a source, and funpack finishes
with four elements in each lane. -/
theorem blockScaleWords : Obligations.BlockScaleWords := by
  refine ⟨fun w s hw hc hwidth => ?fpack, fun w s h hsh hg hheld hwidth => exec_fpack_narrow hsh hg hheld hwidth,
    fun w s hw hc => ?funpack⟩
  case fpack =>
    exact gives_of_finish (draws := false) (lane := s.packLane w (s.active w.g w.gn))
      (fpack_holdsResult.regs_lt (i := .fpack w) rfl hw) (exec_fpack hc hwidth)
  case funpack =>
    obtain ⟨hvalue, honly⟩ := State.finish_lanesOut s (act := s.active w.g w.gn)
      (fun l n => BitVec.ofNat 32 (s.unpacked w l (n - w.d.toNat)).1) (s.unpackedStatus w) (funpack_regs_lt hw)
    obtain ⟨hfe, hie, hctr⟩ := State.finish_lanesOut_status s (s.active w.g w.gn) (group4 w.d.toNat)
      (fun l n => BitVec.ofNat 32 (s.unpacked w l (n - w.d.toNat)).1) (s.unpackedStatus w)
    refine ⟨_, exec_funpack hc, State.finish_retires _ _ _, honly, fun l hl i hi => ?_, ?_, hie, hctr⟩
    · have hmem : w.d.toNat + i ∈ group4 w.d.toNat := by
        simp only [group4, List.mem_cons, List.not_mem_nil, or_false]
        omega
      rw [hvalue l hl _ hmem, Nat.add_sub_cancel_left]
      rfl
    · rw [hfe]
      simp only [State.unpackedStatus, ← Nat.or_assoc]
      rfl

end Sys2Proof.Machine
end

section
/-! LANE words (09 R241 to R246): masks of lanes, and what each word gives. Settles O16. -/

namespace Sys2Proof.Machine

open Sys2Proof.Safety

/-! ### Masks of lanes (09 R241, R244) -/

theorem laneMask_concat (xs : List Nat) (l : Nat) : laneMask (xs ++ [l]) = laneMask xs ||| 2 ^ l := by
  simp [laneMask]

/-- The mask of the lanes from `k` up, of `n`. -/
theorem laneMask_range_from (n k : Nat) : laneMask ((List.range n).filter (k ≤ ·)) = 2 ^ n - 2 ^ k := by
  induction n with
  | zero => simp [laneMask, Nat.one_le_two_pow]
  | succ n ih =>
    rw [List.range_succ, List.filter_append]
    by_cases hk : k ≤ n
    · have hle : 2 ^ k ≤ 2 ^ n := Nat.pow_le_pow_right (by decide) hk
      have hpos : 0 < 2 ^ k := Nat.two_pow_pos k
      have hor := Nat.two_pow_add_eq_or_of_lt (i := n) (b := 2 ^ n - 2 ^ k) (by omega) 1
      rw [List.filter_cons_of_pos (p := (k ≤ ·)) (decide_eq_true hk), List.filter_nil, laneMask_concat, ih, Nat.or_comm]
      rw [Nat.mul_one] at hor
      rw [← hor, Nat.pow_succ]
      omega
    · have hlt : 2 ^ (n + 1) ≤ 2 ^ k := Nat.pow_le_pow_right (by decide) (by omega)
      rw [List.filter_cons_of_neg (by rw [decide_eq_true_iff]; exact hk), List.filter_nil, List.append_nil, ih]
      have := Nat.pow_succ 2 n
      omega

theorem laneMask_range (n : Nat) : laneMask (List.range n) = 2 ^ n - 1 := by
  have hall : (List.range n).filter (0 ≤ ·) = List.range n :=
    List.filter_eq_self.mpr fun _ _ => decide_eq_true (Nat.zero_le _)
  exact hall ▸ laneMask_range_from n 0

/-- lmask's masks as numbers. -/
theorem lmaskOf_eq (m width lane : Nat) (act : List Nat) :
    lmaskOf m width lane act = match m with
      | 0 => 2 ^ lane
      | 1 => 2 ^ lane - 1
      | 2 => 2 ^ (lane + 1) - 1
      | 3 => 2 ^ width - 2 ^ (lane + 1)
      | 4 => 2 ^ width - 2 ^ lane
      | _ => laneMask act := by
  match m with
  | 0 => simp [lmaskOf, laneMask]
  | 1 => exact laneMask_range lane
  | 2 => exact laneMask_range (lane + 1)
  | 3 => exact laneMask_range_from width (lane + 1)
  | 4 => exact laneMask_range_from width lane
  | _ + 5 => rfl

/-! ### What the words give -/

/-- vote's result: a truth, a mask or a count of the lanes that say yes (09 R244). -/
theorem voteResult_eq (m : Nat) (act yes : List Nat) :
    BitVec.ofNat 64 (voteResult m act yes) = match m with
      | 0 => flag (yes.length == act.length)
      | 1 => flag (0 < yes.length)
      | 2 => flag (yes.length == 0 || yes.length == act.length)
      | 3 => BitVec.ofNat 64 (laneMask yes)
      | _ => BitVec.ofNat 64 yes.length := by
  have htruth : ∀ b : Bool, BitVec.ofNat 64 (if b then 1 else 0) = flag b := fun b => by cases b <;> rfl
  match m with
  | 0 => exact htruth _
  | 1 => cases yes <;> rfl
  | 2 =>
    cases yes with
    | nil => rfl
    | cons => exact htruth _
  | 3 => rfl
  | _ + 4 => rfl

/-- A LANE word that gives each active lane a result gives it. -/
theorem w3Gives_laneWord {con : W3 → Instr} {fn : Nat} {rt : W3 → Ty} {lane : State → W3 → List Nat → Nat → Lane}
    (hf : ∀ w, (con w).fields = .w3 8 fn w) (hd : HoldsResult 8 fn rt)
    (he : ∀ w s, exec (con w) s = .next (s.laneWord fn w (fun act =>
      act.map (fun l => laneOut (rt w) l w.d.toNat (lane s w act l))))) : W3Gives con 8 fn rt lane :=
  w3Gives_of_exec_drawless hf hd he

theorem redux_shape {ex : Bool} {w : W3} {sh : W3Shape} (h : reduxShape ex w = some sh) : sh.d = .tyf := by
  obtain ⟨-, h⟩ := Option.ite_none_right_eq_some.mp h
  rw [← Option.some.inj h]

/-- The LANE words with a result of the form of their type. -/
theorem lane_holdsResult {fn : Nat} (h : fn ∈ [0, 2, 3, 4]) : HoldsResult 8 fn (·.ty) := by
  have hd : ∀ w sh, laneShape fn w = some sh → sh.d = .tyf := by
    intro w sh hsh
    simp only [List.mem_cons, List.not_mem_nil, or_false] at h
    rcases h with rfl | rfl | rfl | rfl
    · rw [← Option.some.inj hsh]
    · rw [← Option.some.inj hsh]
    · exact redux_shape hsh
    · exact redux_shape hsh
  intro w sh hsh
  rw [hd w sh hsh]
  exact Nat.le_refl _

/-- vote's mask of lanes takes a pair, and its other results one register (09 R242). -/
theorem vote_holdsResult : HoldsResult 8 1 (fun w => if w.m = 3 then .n64 else .n32) := by
  intro w sh hsh
  obtain rfl := Option.some.inj hsh
  simp only [beq_iff_eq]
  split <;> exact Nat.le_refl _

/-- matchLanes and lmask give masks of lanes in pairs. -/
theorem mask_holdsResult {fn : Nat} (h : fn = 5 ∨ fn = 6) : HoldsResult 8 fn (fun _ => .n64) := by
  intro w sh hsh
  rcases h with rfl | rfl <;> obtain rfl := Option.some.inj hsh <;> exact Nat.le_refl _

/-- Settles O16: each word is the map of its lanes' results over the active lanes. -/
theorem laneWords : Obligations.LaneWords := by
  refine ⟨w3Gives_laneWord (fun _ => rfl) (lane_holdsResult (by decide)) fun w s => ?shfl,
    w3Gives_laneWord (fun _ => rfl) vote_holdsResult fun w s => ?vote,
    w3Gives_laneWord (fun _ => rfl) (lane_holdsResult (by decide)) fun w s => ?bcast,
    w3Gives_laneWord (fun _ => rfl) (lane_holdsResult (by decide)) fun w s => ?redux,
    w3Gives_laneWord (fun _ => rfl) (lane_holdsResult (by decide)) fun w s => ?scan,
    w3Gives_laneWord (fun _ => rfl) (mask_holdsResult (.inl rfl)) fun w s => ?matchLanes,
    w3Gives_laneWord (fun _ => rfl) (mask_holdsResult (.inr rfl)) fun w s => ?lmask⟩
  case redux | matchLanes => rfl
  case shfl =>
    show execShfl w s = _
    simp only [execShfl, List.contains_iff_mem]
    rfl
  case bcast =>
    show execBcast w s = _
    simp only [execBcast, List.contains_iff_mem]
    rfl
  case vote =>
    show execVote w s = _
    simp only [execVote, voteResult_eq, bitN_eq_testBit, State.nat32, beq_iff_eq]
    rfl
  case scan =>
    show execScan w s = _
    simp only [execScan, bitN_eq_testBit]
    rfl
  case lmask =>
    show execLmask w s = _
    simp only [execLmask, lmaskOf_eq]
    rfl

end Sys2Proof.Machine
end

section
/-! SYNC words (06 R152, R164, R165; 07 R192 to R195): what a flash match leaves of the clean words, what an acquire, a
release that waits or does not, and a region word come to. Settles O30 and O31. -/

namespace Sys2Proof.Machine

open Sys2Proof.Safety

/-! ### Clean words (06 R163) -/

/-- An entry that is found is listed. -/
theorem SMap.mem_of_find {α : Type} {m : SMap α} {i : Nat} {x : α} (h : SMap.find m i = some x) : (i, x) ∈ m := by
  induction m with
  | nil => cases h
  | cons e m ih =>
    obtain ⟨k, v⟩ := e
    rw [SMap.find_cons] at h
    split at h
    · next hk =>
      obtain rfl := Option.some.inj h
      exact hk ▸ List.mem_cons_self
    · exact List.mem_cons_of_mem _ (ih h)

/-- An entry that is found and picked is found among those picked. -/
theorem SMap.find_filter_of_find {α : Type} {m : SMap α} {p : Nat × α → Bool} {i : Nat} {x : α}
    (h : SMap.find m i = some x) (hp : p (i, x) = true) : SMap.find (m.filter p) i = some x := by
  induction m with
  | nil => cases h
  | cons e m ih =>
    obtain ⟨k, v⟩ := e
    rw [SMap.find_cons] at h
    split at h
    · next hk =>
      obtain rfl := Option.some.inj h
      subst hk
      rw [List.filter_cons_of_pos hp, SMap.find_cons, if_pos rfl]
    · next hk =>
      rw [List.filter_cons]
      split
      · rw [SMap.find_cons, if_neg hk, ih h]
      · exact ih h

/-- A clean word of a cache lies in a listed line of the cache and has the line's tags. -/
theorem State.cleanOf_eq_some {s : State} {cache w : Nat} {c : CleanWord} :
    s.cleanOf cache w = some c ↔ ∃ l, SMap.find s.clean (copyKey cache (lineOf w)) = some l
      ∧ ∃ v, SMap.find l.words (w % 32) = some v ∧ ⟨v, l.region, l.part, l.ctx⟩ = c := by
  rw [State.cleanOf, State.cleanLine, SMap.get]
  cases SMap.find s.clean (copyKey cache (lineOf w)) with
  | none => simp
  | some l => simp [Option.map_eq_some_iff]

/-- The clean words of a state rest on its listed lines alone. -/
theorem State.cleanOf_congr {s t : State} (h : t.clean = s.clean) (cache w : Nat) : t.cleanOf cache w = s.cleanOf cache w := by
  rw [State.cleanOf, State.cleanOf, State.cleanLine, State.cleanLine, h]

theorem copyKey_div {w : Nat} (h : w < 2 ^ 64) (cache : Nat) : copyKey cache (lineOf w) / 2 ^ 64 = cache := by
  unfold copyKey lineOf
  omega

/-! ### Flash matches (06 R164) -/

/-- A test of the clean words that reads their tags alone. -/
def ReadsTags (test : CleanWord → Bool) : Prop := ∀ c, test { c with val := 0 } = test c

/-- No listed line of a cache has tags that a test picks. -/
def State.Flashed (s : State) (cache : Nat) (test : CleanWord → Bool) : Prop :=
  ∀ e ∈ s.clean, e.1 / 2 ^ 64 = cache → test ⟨0, e.2.region, e.2.part, e.2.ctx⟩ = false

/-- No clean word of a flashed cache is one that the test picks. -/
theorem State.Flashed.test_false {s : State} {cache w : Nat} {test : CleanWord → Bool} {c : CleanWord}
    (h : s.Flashed cache test) (ht : ReadsTags test) (hw : w < 2 ^ 64) (hc : s.cleanOf cache w = some c) :
    test c = false := by
  obtain ⟨l, hl, v, -, rfl⟩ := State.cleanOf_eq_some.mp hc
  rw [← ht]
  exact h _ (SMap.mem_of_find hl) (copyKey_div hw cache)

theorem State.Flashed.congr {s t : State} {cache : Nat} {test : CleanWord → Bool} (h : s.Flashed cache test)
    (ht : t.clean = s.clean) : t.Flashed cache test := by
  unfold State.Flashed
  rwa [ht]

theorem State.dropWhere_flashed (s : State) (cache : Nat) (test : CleanWord → Bool) :
    (s.dropWhere cache test).Flashed cache test := by
  intro e he hcache
  obtain ⟨-, hp⟩ := List.mem_filter.mp he
  rw [hcache, beq_self_eq_true, Bool.true_and] at hp
  simpa using hp

/-- A cache that is flashed stays so when lines are dropped. -/
theorem State.Flashed.dropWhere {s : State} {cache : Nat} {test : CleanWord → Bool} (h : s.Flashed cache test)
    (cache' : Nat) (test' : CleanWord → Bool) : (s.dropWhere cache' test').Flashed cache test :=
  fun e he => h e (List.mem_filter.mp he).1

/-- A clean word that the test does not pick stands, in every cache. -/
theorem State.dropWhere_kept {s : State} {test : CleanWord → Bool} {cache' w : Nat} {c : CleanWord} (cache : Nat)
    (ht : ReadsTags test) (hc : s.cleanOf cache' w = some c) (htest : test c = false) :
    (s.dropWhere cache test).cleanOf cache' w = some c := by
  obtain ⟨l, hl, v, hv, rfl⟩ := State.cleanOf_eq_some.mp hc
  refine State.cleanOf_eq_some.mpr ⟨l, SMap.find_filter_of_find hl ?_, v, hv, rfl⟩
  rw [Bool.not_eq_true', Bool.and_eq_false_iff]
  exact .inr ((ht _).trans htest)

/-- A flash match changes clean words and what the accesses in flight may fill, and nothing else. -/
theorem State.flash_eq (s : State) (core : Nat) (test : CleanWord → Bool) (l1 inner : Bool) :
    s.flash core test l1 inner =
      { s with clean := (s.flash core test l1 inner).clean, accesses := (s.flash core test l1 inner).accesses } := by
  cases l1 <;> cases inner <;> rfl

theorem State.flash_l1 (s : State) (core : Nat) (test : CleanWord → Bool) (inner : Bool) :
    (s.flash core test true inner).Flashed (l1Cache core) test := by
  have h := s.dropWhere_flashed (l1Cache core) test
  cases inner
  · exact h
  · exact h.dropWhere _ _

theorem State.flash_section (s : State) (core : Nat) (test : CleanWord → Bool) (l1 : Bool) :
    (s.flash core test l1 true).Flashed (sectionCache (core / 8)) test := by
  cases l1 <;> exact State.dropWhere_flashed _ _ test

theorem State.flash_kept {s : State} {test : CleanWord → Bool} {cache w : Nat} {c : CleanWord} (core : Nat)
    (l1 inner : Bool) (ht : ReadsTags test) (hc : s.cleanOf cache w = some c) (htest : test c = false) :
    (s.flash core test l1 inner).cleanOf cache w = some c := by
  have keep : ∀ {u : State} (b : Bool) (at_ : Nat), u.cleanOf cache w = some c →
      (if b then u.dropWhere at_ test else u).cleanOf cache w = some c := by
    intro u b at_ hu
    cases b
    · exact hu
    · exact State.dropWhere_kept at_ ht hu htest
  exact keep inner _ (keep l1 _ hc)

/-! ### What follows a retirement -/

@[simp] theorem State.retire_clean (s : State) : s.retire.clean = s.clean := by rw [State.retire_frame]

/-- The retirement in a state with the data, the agent and the word of `s`: data stand, and the threads go on. -/
theorem State.retire_of_keepsData {s u : State} (h : KeepsData s u) (hme : u.me = s.me) (hpc : u.issuePc = s.issuePc) :
    KeepsData s u.retire ∧ u.retire.me.threads = s.retire.me.threads :=
  ⟨keepsData_trans h (State.retire_keepsData u), congrArg Agent.threads (State.retire_me_congr hme hpc)⟩

/-! ### SYNC words (07 R192) -/

theorem State.syncWord_clear {s : State} {fn : Nat} {w : W3} {x : Nat} {ls : List Nat} (effect : Nat → List Nat → State)
    (hc : Clear3 s 0x1B fn w) (ha : s.active w.g w.gn = x :: ls) :
    s.syncWord fn w effect = effect x (s.active w.g w.gn) := by
  rw [State.syncWord, State.w3_clear _ hc, ha, State.once]

theorem State.syncWord_none {s : State} {fn : Nat} {w : W3} (effect : Nat → List Nat → State)
    (hc : Clear3 s 0x1B fn w) (ha : s.active w.g w.gn = []) : s.syncWord fn w effect = s.retire := by
  rw [State.syncWord, State.w3_clear _ hc, ha, State.once]

/-! ### Acquires (06 R152, R164) -/

theorem isWarp_of_kind {a : Agent} {c sl : Nat} (h : a.kind = .warp c sl) : a.isWarp = true := by
  rw [Agent.isWarp, h]

/-- A warp carries out a scope code at that scope (01 R25). -/
theorem scope_of_warp {a : Agent} {c sl : Nat} (h : a.kind = .warp c sl) (n : Nat) : a.scope n = n := by
  rw [Agent.scope, isWarp_of_kind h, if_pos rfl]

theorem acquireDrops_readsTags (part ctx mask : Nat) : ReadsTags (acquireDrops part ctx mask) := fun _ => rfl

/-- A cache that an acquire's flash match has passed, and in which it kept every other word, is acquired. -/
theorem acquired_of_flashed {s t : State} {cache mask : Nat} (hf : t.Flashed cache (acquireDrops s.me.part s.me.ctx mask))
    (hk : ∀ w c, s.cleanOf cache w = some c → acquireDrops s.me.part s.me.ctx mask c = false →
      t.cleanOf cache w = some c) : Acquired s t cache mask :=
  ⟨fun _ _ hw hc => hf.test_false (acquireDrops_readsTags _ _ _) hw hc, fun w c _ hc htest => hk w c hc htest⟩

/-- An acquire of a warp above warp scope matches its core's L1, and its section cache from die scope on. -/
theorem State.acquire_warp {s : State} {c sl scope : Nat} (h : s.me.kind = .warp c sl) (hs : 1 ≤ scope) (mask : Nat) :
    s.acquire scope mask = s.flash c (acquireDrops s.me.part s.me.ctx mask) true (decide (2 ≤ scope)) := by
  have h0 : ¬ (scope == 0) = true := by
    rw [beq_iff_eq]
    omega
  simp only [State.acquire, h, if_neg h0]

/-- An acquire of a warp leaves data, the agent and its word's address. -/
theorem State.acquire_warp_frame {s : State} {c sl : Nat} (h : s.me.kind = .warp c sl) (scope mask : Nat) :
    KeepsData s (s.acquire scope mask) ∧ (s.acquire scope mask).me = s.me
      ∧ (s.acquire scope mask).issuePc = s.issuePc := by
  cases scope with
  | zero =>
    have h0 : s.acquire 0 mask = s := by simp only [State.acquire, h, beq_self_eq_true, if_true]
    rw [h0]
    exact ⟨⟨rfl, rfl, fun _ => rfl, rfl⟩, rfl, rfl⟩
  | succ n =>
    rw [State.acquire_warp h (Nat.succ_pos n), State.flash_eq]
    exact ⟨⟨rfl, rfl, fun _ => rfl, rfl⟩, rfl, rfl⟩

/-- A word of a warp that acquires and retires: data stand, its group goes on, and the caches of its scope are acquired. -/
theorem State.acquire_retire_warp {s : State} {c sl : Nat} (h : s.me.kind = .warp c sl) (scope mask : Nat) :
    KeepsData s (s.acquire scope mask).retire ∧ (s.acquire scope mask).retire.me.threads = s.retire.me.threads
      ∧ (1 ≤ scope → Acquired s (s.acquire scope mask).retire (l1Cache c) mask)
      ∧ (2 ≤ scope → Acquired s (s.acquire scope mask).retire (sectionCache (c / 8)) mask) := by
  obtain ⟨hdata, hme, hpc⟩ := State.acquire_warp_frame h scope mask
  obtain ⟨hkeeps, hthreads⟩ := State.retire_of_keepsData hdata hme hpc
  have hkept : 1 ≤ scope → ∀ cache w v, s.cleanOf cache w = some v → acquireDrops s.me.part s.me.ctx mask v = false →
      (s.acquire scope mask).retire.cleanOf cache w = some v := by
    intro hs cache w v hv htest
    rw [State.cleanOf_congr (State.retire_clean _), State.acquire_warp h hs]
    exact State.flash_kept c _ _ (acquireDrops_readsTags _ _ _) hv htest
  refine ⟨hkeeps, hthreads, fun hs => ?l1, fun hs => ?sectionCache⟩
  case l1 =>
    refine acquired_of_flashed (State.Flashed.congr ?_ (State.retire_clean _)) (hkept hs _)
    rw [State.acquire_warp h hs]
    exact State.flash_l1 s c _ _
  case sectionCache =>
    refine acquired_of_flashed (State.Flashed.congr ?_ (State.retire_clean _)) (hkept (Nat.le_of_succ_le hs) _)
    rw [State.acquire_warp h (Nat.le_of_succ_le hs), decide_eq_true hs]
    exact State.flash_section s c _ _

/-! ### Releases (05 R136; 06 R152) -/

/-- What a release of the issuing agent at a scope stands as when it begins to wait. -/
def State.newRelease (s : State) (scope : Nat) : Release :=
  { agent := s.me.id, scope := scope, owner := s.me.owner, part := s.me.part, waits := s.releaseWaits scope }

/-- The state with a release begun under the next number. -/
def State.withRelease (s : State) (scope : Nat) : State :=
  { s with releases := s.releases.set s.nextId (s.newRelease scope), nextId := s.nextId + 1 }

/-- A word that releases with nothing to wait for has its effect at once. -/
theorem State.releasing_now {s : State} {scope : Nat} (effect : State → State) (hp : s.parked = none)
    (hr : s.readsPending = false) (hw : s.releaseWaits scope = [])
    (hq : scope ≤ 2 ∨ (scope ≤ 4 ∧ s.ownerQuiet s.me.owner = true)) : s.releasing scope effect = effect s := by
  have hstart : s.startRelease scope = (s, none) := by
    rw [State.startRelease]
    exact if_pos (by simp [hw, hq])
  rw [State.releasing, hp]
  simp only [State.beginRelease, hr, Bool.false_eq_true, if_false, hstart]

/-- A word that releases with an access to wait for, or at system scope, parks for its release. -/
theorem State.releasing_waits {s : State} {scope : Nat} (effect : State → State) (hp : s.parked = none)
    (hr : s.readsPending = false) (hw : s.releaseWaits scope ≠ [] ∨ scope = 5) :
    s.releasing scope effect = (s.withRelease scope).park (.release s.nextId) := by
  have hnot : ¬ ((s.releaseWaits scope).isEmpty
      && (decide (scope ≤ 2) || (decide (scope ≤ 4) && s.ownerQuiet s.me.owner))) = true := by
    rcases hw with hw | rfl
    · simp [hw]
    · simp
  have hstart : s.startRelease scope = (s.withRelease scope, some s.nextId) := by
    rw [State.startRelease]
    exact if_neg hnot
  rw [State.releasing, hp]
  simp only [State.beginRelease, hr, Bool.false_eq_true, if_false, hstart]

/-- Settles O30: acq is an acquire of its mask and the retirement, rel the retirement or the park of a release begun, and
fence an acquire of every index where its release has nothing to wait for. -/
theorem syncWords : Obligations.SyncWords := by
  refine ⟨fun w s x c sl ls _ hc ha hk hr => ?acq, fun w s _ hc ha hp hr => ?rel,
    fun w s c sl _ hc ha hp hr hk hw hq => ?fence⟩
  case acq =>
    have he : exec (.acq w) s = .next (s.acquire w.m.toNat ((s.reg x w.a.toNat).toNat % 65536)).retire := by
      show execAcq w s = _
      rw [execAcq, State.syncWord_clear _ hc ha, hr, if_neg Bool.false_ne_true, scope_of_warp hk]
      rfl
    exact ⟨_, he, State.acquire_retire_warp hk _ _⟩
  case rel =>
    obtain ⟨x, ls, hx⟩ := List.exists_cons_of_ne_nil ha
    have he : exec (.rel w) s = .next (s.releasing (s.me.scope w.m.toNat) State.retire) := by
      show execRel w s = _
      rw [execRel, State.syncWord_clear _ hc hx]
    rw [he]
    refine ⟨fun hw hq => by rw [State.releasing_now _ hp hr hw hq], fun hw => ?_⟩
    rw [State.releasing_waits _ hp hr hw]
    exact ⟨_, s.newRelease (s.me.scope w.m.toNat), rfl, ⟨rfl, rfl, fun _ => rfl, rfl⟩, rfl, SMap.find_set_same _ _ _,
      rfl, rfl, rfl⟩
  case fence =>
    obtain ⟨x, ls, hx⟩ := List.exists_cons_of_ne_nil ha
    have he : exec (.fence w) s = .next (s.acquire w.m.toNat 0xFFFF).retire := by
      show execFence w s = _
      rw [execFence, State.syncWord_clear _ hc hx]
      dsimp only
      rw [scope_of_warp hk, State.releasing_now _ hp hr hw hq]
    exact ⟨_, he, State.acquire_retire_warp hk _ _⟩

/-! ### Region words (06 R165; 07 R194, R195) -/

/-- A clean word that the issuing agent's context filled under a region index. -/
def State.filledUnder (s : State) (i : Nat) (c : CleanWord) : Bool :=
  c.part == s.me.part && c.ctx == s.me.ctx && c.region == i

theorem State.filledUnder_readsTags (s : State) (i : Nat) : ReadsTags (s.filledUnder i) := fun _ => rfl

theorem State.filledUnder_false {s : State} {i : Nat} {c : CleanWord} (h : s.filledUnder i c = false) :
    ¬ (c.part = s.me.part ∧ c.ctx = s.me.ctx ∧ c.region = i) := by
  rintro ⟨hpart, hctx, hregion⟩
  simp [State.filledUnder, hpart, hctx, hregion] at h

theorem State.dropRegion_warp {s : State} {c sl : Nat} (h : s.me.kind = .warp c sl) (i : Nat) :
    s.dropRegion i = s.flash c (s.filledUnder i) true true := by
  simp only [State.dropRegion, h]
  rfl

theorem State.dropRegion_conductor {s : State} {n : Nat} (h : s.me.kind = .conductor n) (i : Nat) :
    s.dropRegion i = s.flashThread (n / 8) (s.filledUnder i) := by
  simp only [State.dropRegion, h]
  rfl

theorem State.dropRegion_management {s : State} (h : s.me.kind = .management) (i : Nat) : s.dropRegion i = s := by
  simp only [State.dropRegion, h]

/-- A region's drop changes clean words and what the accesses in flight may fill, and nothing else. -/
theorem State.dropRegion_eq (s : State) (i : Nat) :
    s.dropRegion i = { s with clean := (s.dropRegion i).clean, accesses := (s.dropRegion i).accesses } := by
  cases hk : s.me.kind with
  | warp c sl =>
    rw [State.dropRegion_warp hk]
    exact State.flash_eq ..
  | conductor n =>
    rw [State.dropRegion_conductor hk]
    rfl
  | management => rw [State.dropRegion_management hk]

/-- A region's drop leaves data. -/
theorem State.dropRegion_keepsData (s : State) (i : Nat) : KeepsData s (s.dropRegion i) := by
  rw [State.dropRegion_eq]
  exact ⟨rfl, rfl, fun _ => rfl, rfl⟩

@[simp] theorem State.dropRegion_me (s : State) (i : Nat) : (s.dropRegion i).me = s.me := by rw [State.dropRegion_eq]
@[simp] theorem State.dropRegion_issuePc (s : State) (i : Nat) : (s.dropRegion i).issuePc = s.issuePc := by
  rw [State.dropRegion_eq]
@[simp] theorem State.dropRegion_parts (s : State) (i : Nat) : (s.dropRegion i).parts = s.parts := by
  rw [State.dropRegion_eq]

/-- A state with the lines that a region's drop leaves holds no clean word of the region in its agent's caches. -/
theorem regionDropped_of_clean {s t : State} {i : Nat} (h : t.clean = (s.dropRegion i).clean) : RegionDropped s t i := by
  have hdrop : ∀ {cache k v}, k < 2 ^ 64 → (s.dropRegion i).Flashed cache (s.filledUnder i) →
      t.cleanOf cache k = some v → ¬ (v.part = s.me.part ∧ v.ctx = s.me.ctx ∧ v.region = i) :=
    fun hlt hf hv => State.filledUnder_false ((hf.congr h).test_false (s.filledUnder_readsTags i) hlt hv)
  rintro k v hlt (⟨c, sl, hk, hv | hv⟩ | ⟨n, hk, hv⟩)
  · refine hdrop hlt ?_ hv
    rw [State.dropRegion_warp hk]
    exact s.flash_l1 c _ _
  · refine hdrop hlt ?_ hv
    rw [State.dropRegion_warp hk]
    exact s.flash_section c _ _
  · refine hdrop hlt ?_ hv
    rw [State.dropRegion_conductor hk]
    exact s.dropWhere_flashed (conductorCache (n / 8)) (s.filledUnder i)

/-! ### The region table of a context (07 R194) -/

/-- A context after an update of it in a partition that exists. -/
theorem State.updContext_context_same {s : State} {p : Nat} (h : (s.parts.find p).isSome = true) (c : Nat)
    (f : Context → Context) : (s.updContext p c f).context p c = f (s.context p c) := by
  rw [State.context, State.updContext, State.updPart_part_same h]
  simp [SMap.get_set, State.context]

theorem State.countEvent_regions (s : State) (p c i n q k : Nat) :
    ((s.countEvent p c i n).context q k).regions = (s.context q k).regions := by
  unfold State.countEvent State.updContext State.context
  split
  · rfl
  · rw [State.updPart_part]
    split
    · dsimp only
      rw [SMap.get_set]
      split
      · next hk => rw [hk]
      · rfl
    · rfl

/-- A retirement leaves every region table. -/
theorem State.retire_regions (s : State) (q k : Nat) : (s.retire.context q k).regions = (s.context q k).regions := by
  rw [State.retire_eq]
  exact State.countEvent_regions s _ _ _ _ q k

/-- A word of register results leaves every region table and every clean word. -/
theorem State.finish_regions (s : State) (outs : List LaneOut) (draws : Bool) (q k : Nat) :
    ((s.finish outs draws).context q k).regions = (s.context q k).regions := by
  have hparts : (s.finish outs draws).parts = s.retire.parts := by
    rw [(State.finish_retires s outs draws).rest]
  rw [← State.retire_regions s q k, State.context, State.part, hparts]
  rfl

theorem State.finish_clean (s : State) (outs : List LaneOut) (draws : Bool) : (s.finish outs draws).clean = s.clean := by
  rw [(State.finish_retires s outs draws).rest]

/-- The code of the first check of a region entry's values that fails, or 0 (07 R195). -/
theorem regionStatus_eq (i base len : Nat) : regionStatus i base len =
    if i = 0 then 1 else if base % 65536 ≠ 0 ∨ 2 ^ 56 ≤ base then 2 else if 2 ^ 56 < base + len then 3 else 0 := by
  simp [regionStatus]

/-- The state after regionRewrite's drop and its write of the entry, before it retires with its status. -/
def State.regionRewritten (s : State) (i base len : Nat) : State :=
  if regionStatus i base len == 0 then
    (s.dropRegion i).updContext s.me.part s.me.ctx (fun c => { c with regions := c.regions.put {} i ⟨base, len⟩ })
  else s.dropRegion i

/-- The rewrite of an entry changes partitions beside what a region's drop changes. -/
theorem State.regionRewritten_eq (s : State) (i base len : Nat) :
    s.regionRewritten i base len = { s.dropRegion i with parts := (s.regionRewritten i base len).parts } := by
  unfold State.regionRewritten State.updContext State.updPart
  repeat' split
  all_goals rfl

theorem State.regionRewritten_keepsData (s : State) (i base len : Nat) : KeepsData s (s.regionRewritten i base len) := by
  refine keepsData_trans (s.dropRegion_keepsData i) ?_
  rw [State.regionRewritten_eq]
  exact ⟨rfl, rfl, fun _ => rfl, rfl⟩

@[simp] theorem State.regionRewritten_me (s : State) (i base len : Nat) : (s.regionRewritten i base len).me = s.me := by
  rw [State.regionRewritten_eq]
  exact s.dropRegion_me i

theorem State.regionRewritten_clean (s : State) (i base len : Nat) :
    (s.regionRewritten i base len).clean = (s.dropRegion i).clean := by
  rw [State.regionRewritten_eq]

/-- An entry of the context's table after a rewrite: the rewritten one is the new one where its values are admitted. -/
theorem State.regionRewritten_entry {s : State} (h : (s.parts.find s.me.part).isSome = true) (i base len j : Nat) :
    ((s.regionRewritten i base len).context s.me.part s.me.ctx).regions.get {} j =
      if j = i ∧ regionStatus i base len = 0 then ⟨base, len⟩
      else (s.context s.me.part s.me.ctx).regions.get {} j := by
  have hparts := s.dropRegion_parts i
  have hctx : (s.dropRegion i).context s.me.part s.me.ctx = s.context s.me.part s.me.ctx := by
    simp only [State.context, State.part, hparts]
  unfold State.regionRewritten
  by_cases hk : regionStatus i base len = 0
  · rw [if_pos (beq_iff_eq.mpr hk), State.updContext_context_same (hparts ▸ h), hctx, SMap.get_put]
    simp only [hk, and_true]
  · rw [if_neg (by rwa [beq_iff_eq]), hctx, if_neg (fun hj => hk hj.2)]

/-- Only rows of a word are changed from `s` where they are from a state with its registers and agent. -/
theorem onlyRows_of_keepsData {s u t : State} {act regs : List Nat} (hu : KeepsData s u) (hme : u.me = s.me)
    (h : OnlyRows u t (rowsOf u act regs)) : OnlyRows s t (rowsOf s act regs) := by
  obtain ⟨hrf, hpoison, -, -⟩ := hu
  have hrows : rowsOf u act regs = rowsOf s act regs := by simp only [rowsOf, hme]
  rw [hrows] at h
  exact ⟨fun k hk => hrf ▸ hpoison ▸ h.kept k hk, h.cleared⟩

/-- A clear regionInvalidate with an active lane drops its region's clean words and retires. -/
theorem exec_regionInvalidate {w : W3} {s : State} {x : Nat} {ls : List Nat} (hc : Clear3 s 0x1B 3 w)
    (ha : s.active w.g w.gn = x :: ls) :
    exec (.regionInvalidate w) s = .next (s.dropRegion ((s.reg x w.a.toNat).toNat % 16)).retire := by
  show execRegionInvalidate w s = _
  rw [execRegionInvalidate, State.syncWord_clear _ hc ha]
  rfl

/-- A clear regionRewrite with an active lane rewrites its entry and finishes with the status in each active lane. -/
theorem exec_regionRewrite {w : W3} {s : State} {x i base len : Nat} {ls : List Nat} (hc : Clear3 s 0x1B 3 w)
    (ha : s.active w.g w.gn = x :: ls) (hi : i = (s.reg x w.a.toNat).toNat % 16)
    (hbase : base = (s.pair x w.b.toNat).toNat) (hlen : len = (s.reg x w.c.toNat).toNat * 65536) :
    exec (.regionRewrite w) s = .next ((s.regionRewritten i base len).finish (lanesOut (s.active w.g w.gn) [w.d.toNat]
      (fun _ _ => BitVec.ofNat 32 (regionStatus i base len)) (fun _ => 0))) := by
  subst hi hbase hlen
  show execRegionRewrite w s = _
  rw [execRegionRewrite, State.syncWord_clear _ hc ha]
  rfl

/-- Settles O31: both words drop the region's clean words; regionRewrite then writes its entry where its status is 0, and
finishes with the status. -/
theorem regionWords : Obligations.RegionWords := by
  refine ⟨fun w s _ hc => ⟨fun ha => ?invalidateNone, fun x ls ha => ?invalidate⟩, fun w s _ hc ha => ?rewriteNone,
    fun w s x ls _ hc ha hp => ?rewrite⟩
  case invalidateNone => exact congrArg Host.Outcome.next (State.syncWord_none _ hc ha)
  case rewriteNone => exact congrArg Host.Outcome.next (State.syncWord_none _ hc ha)
  case invalidate =>
    obtain ⟨hdata, hthreads⟩ := State.retire_of_keepsData (s.dropRegion_keepsData ((s.reg x w.a.toNat).toNat % 16))
      (s.dropRegion_me _) (s.dropRegion_issuePc _)
    exact ⟨_, exec_regionInvalidate hc ha, hdata, hthreads, regionDropped_of_clean (State.retire_clean _)⟩
  case rewrite =>
    intro i base len code
    have hcode : regionStatus i base len = code := regionStatus_eq i base len
    obtain ⟨-, -, hmem, -⟩ := s.regionRewritten_keepsData i base len
    have hentry := State.regionRewritten_entry hp i base len
    obtain ⟨hvalue, honly⟩ := State.finish_lanesOut (s.regionRewritten i base len) (act := s.active w.g w.gn)
      (fun _ _ => BitVec.ofNat 32 (regionStatus i base len)) (fun _ => 0)
      (regs := [w.d.toNat]) (fun n hn => List.mem_singleton.mp hn ▸ w.d.isLt)
    rw [hcode] at hentry
    refine ⟨_, exec_regionRewrite hc ha rfl rfl rfl, fun a => ?_, regionDropped_of_clean ?_,
      onlyRows_of_keepsData (s.regionRewritten_keepsData i base len) (s.regionRewritten_me i base len) honly,
      fun l hl => ?_, ?_, fun j hj => ?_⟩
    · rw [(State.finish_retires _ _ _).memory, hmem]
    · rw [State.finish_clean, State.regionRewritten_clean]
    · rw [hvalue l hl _ (List.mem_singleton.mpr rfl), hcode]
    · rw [State.finish_regions, hentry]
      simp only [true_and]
    · rw [State.finish_regions, hentry, if_neg (fun h => hj h.1)]

end Sys2Proof.Machine
end
